-- ==== Sys2Proof/Word.lean ====
section
/-!
DEFINITION. The word types of the CD-512 and the named operand kinds its instructions and events carry
(R26 types, R32 rounding modes, R60 scopes, R14 descriptors, R354 Gysko headers). Data only: how a field of an
encoding becomes one of these is Decode.lean's business.
-/
namespace Sys2Proof

abbrev Byte := BitVec 8
abbrev Word32 := BitVec 32
abbrev Word64 := BitVec 64
/-- A 5-bit field that names x0 to x31. -/
abbrev XReg := BitVec 5
/-- A 5-bit field that names v0 to v31 and its descriptor. -/
abbrev VReg := BitVec 5
/-- A 4-bit field that names p0 to p15. -/
abbrev PReg := BitVec 4

/-- Element types of R26. -/
inductive ElemTy where
  | s8 | z8 | s16 | z16 | s32 | z32 | s64 | z64 | f8a | f8b | f16 | bf16 | f32 | f64 | t2
deriving DecidableEq, Repr

/-- Rounding-mode codes of R32; `dyn` is code 7. -/
inductive Rm where
  | rne | rtz | rdn | rup | rna | dyn
deriving DecidableEq, Repr

/-- Memory scopes of R60. -/
inductive Scope where
  | hart | core | press | die | device | system
deriving DecidableEq, Repr

/-- Conditions of R112 and R186. -/
inductive Cond where
  | eq | ne | lt | le | gt | ge | un
deriving DecidableEq, Repr

/-- Operations of R115. -/
inductive RedOp where
  | add | min | max | and | or | xor
deriving DecidableEq, Repr

/-- How a control register is written: csrw, csrs, csrc (R89). -/
inductive CsrOp where
  | write | set | clear
deriving DecidableEq, Repr

/-- What REGISTER_WRITE writes: a control register of the acting hart by number (R20), or a debug register of a
core by die, physical press, core in press and offset (R371, R372). -/
inductive RegTarget where
  | csr (n : BitVec 12)
  | dbg (die ppress core : Nat) (off : BitVec 8)
deriving DecidableEq, Repr

/-- Packet delivery modes of R353. -/
inductive Delivery where
  | rud | rod | unreliable | idempotent
deriving DecidableEq, Repr

/-- A packet as a link carries it (R368): header and payload, and the tag. -/
structure Packet where
  bytes : List Byte
  tag : Nat
deriving DecidableEq, Repr

/-- MAGIC and security version, the first two words of a firmware slot (R363). -/
structure SlotHead where
  magic : Word64
  version : Word64
deriving DecidableEq, Repr

/-- Units of the targeted self-test (R329): an SRAM row by bank word key, a memory sector by its key, a lane
cluster of a core, a press's matrix engine, a router or link segment of a press; links 128 to 135 are those of the Ethernet
ports. -/
inductive TestUnit where
  | sramRow (key : Nat)
  | sector (key : Nat)
  | cluster (core cl : Nat)
  | matrix (press : Nat)
  | link (press : Nat)
deriving DecidableEq, Repr

/-- The session a Gysko message arrives in: none, a VF's, or the host's management session (R355). -/
inductive Session where
  | none
  | vf (v : Nat)
  | mgmt
deriving DecidableEq, Repr

/-- The header of a Gysko request (R354) and the session it arrives in. `zero` collects the fields that must be
zero in a request (header bits [26:24], STATUS and DETAIL). -/
structure GyskoHdr where
  tag : BitVec 16
  vf : Nat
  mgmt : Bool
  len : BitVec 24
  zero : Word64
  session : Session
deriving DecidableEq, Repr

/-- An SPDM request (R359): the session slot it concerns, 0 to 15 of the VFs and 16 of the management, and the TAG of the message
that carries it (R354). -/
structure SpdmReq where
  ses : Nat
  tag : BitVec 16
deriving DecidableEq, Repr

/-- The fields of a launch command (R268). -/
structure LaunchReq where
  ctx : Nat
  krec : Word64
  globals : Word64
  hartmask : BitVec 8
  spill : Word64
  spilllog : Nat
  cwin : Nat
  bound : Nat
  recs : List (Word64 × Word64)
deriving DecidableEq, Repr

/-- The fields of a context configuration (R298). Presses are numbered die × 32 + PRESSID; their order defines
PRESSIDX. -/
structure CtxCfg where
  presses : List Nat
  tbase : Nat
  savebase : Nat
  cellarimg : Nat
  mpol : Nat
  tslice : Nat
  t1 : Nat
deriving DecidableEq, Repr

/-- What a VENDOR_DEFINED_REQUEST carries (R359, R364, R367): a TDISP or key message for a VF, or anything else. -/
inductive VendorMsg where
  | getTdispVersion (vf : Nat)
  | getTdispCapabilities (vf : Nat)
  | lockInterface (vf : Nat)
  | getInterfaceReport (vf : Nat)
  | getInterfaceState (vf : Nat)
  | startInterface (vf nonce : Nat)
  | stopInterface (vf : Nat)
  | memoryKey (vf : Nat) (key : Option Nat)
  | other (code : Nat)
deriving DecidableEq, Repr

/-- What the monitors of a physical core report for one interval of 1 ms (R340, R317): activity as a fraction
`act / of`, junction temperature in tenths of a degree, supply minus nominal in millivolts, the ageing shift and the
electromigration rise in tenths of a percent. -/
structure WearSample where
  act : Nat
  of : Nat
  tj : Int
  dv : Int
  ageing : Nat
  em : Nat
deriving DecidableEq, Repr

end Sys2Proof
end

