-- ==== Sys2Proof/Syntax.lean ====
section
/-!
DEFINITION. The instructions and events of the CD-512, one constructor per row of spec/opcode_table.json, in the
table's order. A constructor holds its row's operands only: registers a, b, c (R51), immediates i and o, types t and t2,
predicate p, and for a device event the unit it happens at and the data that comes from outside the machine.
LEN, the promoted form and the FIRST and LAST flags (R55, R56) belong to the decoded word, not to the instruction.
-/
namespace Sys2Proof

inductive Instr where
  /-- ADD (R71). Writes xb + xc modulo 2^64 to xd. -/
  | add (a b c : XReg)
  /-- SUB (R71). Writes xb - xc modulo 2^64 to xd. -/
  | sub (a b c : XReg)
  /-- MUL (R71). Writes the low 64 bits of xb x xc to xd. -/
  | mul (a b c : XReg)
  /-- MULH (R71). Writes the high 64 bits of the signed product to xd. -/
  | mulh (a b c : XReg)
  /-- MULHZ (R71). Writes the high 64 bits of the unsigned product to xd. -/
  | mulhz (a b c : XReg)
  /-- DIV (R71). Signed division truncated toward zero, with fixed results for division by zero and overflow. -/
  | div (a b c : XReg)
  /-- DIVZ (R71). Unsigned division, giving all ones on division by zero. -/
  | divz (a b c : XReg)
  /-- REM (R71). Signed remainder, with fixed results for division by zero and overflow. -/
  | rem (a b c : XReg)
  /-- REMZ (R71). Unsigned remainder, giving xb on division by zero. -/
  | remz (a b c : XReg)
  /-- AND (R71). Bitwise AND of xb and xc into xd. -/
  | and (a b c : XReg)
  /-- OR (R71). Bitwise OR of xb and xc into xd. -/
  | or (a b c : XReg)
  /-- XOR (R71). Bitwise XOR of xb and xc into xd. -/
  | xor (a b c : XReg)
  /-- SLL (R71). Shifts xb left by xc[5:0]. -/
  | sll (a b c : XReg)
  /-- SRL (R71). Shifts xb right logically by xc[5:0]. -/
  | srl (a b c : XReg)
  /-- SRA (R71). Shifts xb right arithmetically by xc[5:0]. -/
  | sra (a b c : XReg)
  /-- SLT (R71). Writes 1 if xb < xc as signed values, else 0. -/
  | slt (a b c : XReg)
  /-- SLTZ (R71). Writes 1 if xb < xc as unsigned values, else 0. -/
  | sltz (a b c : XReg)
  /-- MIN (R71). Signed minimum of xb and xc. -/
  | min (a b c : XReg)
  /-- MAX (R71). Signed maximum of xb and xc. -/
  | max (a b c : XReg)
  /-- MINZ (R71). Unsigned minimum of xb and xc. -/
  | minz (a b c : XReg)
  /-- MAXZ (R71). Unsigned maximum of xb and xc. -/
  | maxz (a b c : XReg)
  /-- CLZ (R71). Counts the leading zero bits of xb. -/
  | clz (a b : XReg)
  /-- CTZ (R71). Counts the trailing zero bits of xb. -/
  | ctz (a b : XReg)
  /-- POPC (R71). Counts the 1 bits of xb. -/
  | popc (a b : XReg)
  /-- ADDI (R72). Writes xb plus the sign-extended imm14 to xd. -/
  | addi (a b : XReg) (i : BitVec 14)
  /-- ADDI_LIT (R72). Writes xb plus a 64-bit literal to xd. -/
  | addiLit (a b : XReg) (lit : Word64)
  /-- ANDI (R72). Bitwise AND of xb with the sign-extended imm14. -/
  | andi (a b : XReg) (i : BitVec 14)
  /-- ANDI_LIT (R72). Bitwise AND of xb with a 64-bit literal. -/
  | andiLit (a b : XReg) (lit : Word64)
  /-- ORI (R72). Bitwise OR of xb with the sign-extended imm14. -/
  | ori (a b : XReg) (i : BitVec 14)
  /-- ORI_LIT (R72). Bitwise OR of xb with a 64-bit literal. -/
  | oriLit (a b : XReg) (lit : Word64)
  /-- XORI (R72). Bitwise XOR of xb with the sign-extended imm14. -/
  | xori (a b : XReg) (i : BitVec 14)
  /-- XORI_LIT (R72). Bitwise XOR of xb with a 64-bit literal. -/
  | xoriLit (a b : XReg) (lit : Word64)
  /-- SLLI (R72). Shifts xb left by a constant 0-63. -/
  | slli (a b : XReg) (s : BitVec 6)
  /-- SRLI (R72). Shifts xb right logically by a constant 0-63. -/
  | srli (a b : XReg) (s : BitVec 6)
  /-- SRAI (R72). Shifts xb right arithmetically by a constant 0-63. -/
  | srai (a b : XReg) (s : BitVec 6)
  /-- LEA (R73). Writes xb + xc x 2^s to xd without accessing memory. -/
  | lea (a b c : XReg) (k : BitVec 2)
  /-- LI (R72). Writes the sign-extended imm14 to xd. -/
  | li (a : XReg) (i : BitVec 14)
  /-- LI_LIT (R72). Writes a 64-bit literal to xd. -/
  | liLit (a : XReg) (lit : Word64)
  /-- PCREL (R72). Writes the instruction address plus imm14 words to xd. -/
  | pcrel (a : XReg) (i : BitVec 14)
  /-- PCREL_LIT (R72). Writes the instruction address plus a literal byte offset to xd. -/
  | pcrelLit (a : XReg) (lit : Word64)
  /-- SFADD (R75). Scalar float addition, rounded with the dynamic mode. -/
  | sfadd (a b c : XReg) (t : ElemTy)
  /-- SFSUB (R75). Scalar float subtraction, rounded with the dynamic mode. -/
  | sfsub (a b c : XReg) (t : ElemTy)
  /-- SFMUL (R75). Scalar float multiplication, rounded with the dynamic mode. -/
  | sfmul (a b c : XReg) (t : ElemTy)
  /-- SFDIV (R75). Scalar float division, rounded with the dynamic mode. -/
  | sfdiv (a b c : XReg) (t : ElemTy)
  /-- SFSQRT (R75). Scalar float square root, rounded with the dynamic mode. -/
  | sfsqrt (a b : XReg) (t : ElemTy)
  /-- SFMIN (R75). Scalar float minimum, with -0 below +0 and NaN rules. -/
  | sfmin (a b c : XReg) (t : ElemTy)
  /-- SFMAX (R75). Scalar float maximum, with -0 below +0 and NaN rules. -/
  | sfmax (a b c : XReg) (t : ElemTy)
  /-- SFCMP_EQ (R75). Writes 1 if the floats are equal. -/
  | sfcmpEq (a b c : XReg) (t : ElemTy)
  /-- SFCMP_LT (R75). Writes 1 if xa < xb; a NaN operand sets NV. -/
  | sfcmpLt (a b c : XReg) (t : ElemTy)
  /-- SFCMP_LE (R75). Writes 1 if xa <= xb; a NaN operand sets NV. -/
  | sfcmpLe (a b c : XReg) (t : ElemTy)
  /-- SFCMP_UN (R75). Writes 1 if either operand is NaN. -/
  | sfcmpUn (a b c : XReg) (t : ElemTy)
  /-- SFCVT (R77). Converts a scalar between integer and float types by R36. -/
  | sfcvt (a b : XReg) (s t : ElemTy)
  /-- SFADD_EXT (R76). Extended-form scalar float addition with an explicit rounding mode. -/
  | sfaddExt (a b c : XReg) (t : ElemTy) (rm : Rm)
  /-- SFSUB_EXT (R76). Extended-form scalar float subtraction with an explicit rounding mode. -/
  | sfsubExt (a b c : XReg) (t : ElemTy) (rm : Rm)
  /-- SFMUL_EXT (R76). Extended-form scalar float multiplication with an explicit rounding mode. -/
  | sfmulExt (a b c : XReg) (t : ElemTy) (rm : Rm)
  /-- SFDIV_EXT (R76). Extended-form scalar float division with an explicit rounding mode. -/
  | sfdivExt (a b c : XReg) (t : ElemTy) (rm : Rm)
  /-- SFSQRT_EXT (R76). Extended-form scalar float square root with an explicit rounding mode. -/
  | sfsqrtExt (a b : XReg) (t : ElemTy) (rm : Rm)
  /-- SFMIN_EXT (R76). Extended-form scalar float minimum. -/
  | sfminExt (a b c : XReg) (t : ElemTy) (rm : Rm)
  /-- SFMAX_EXT (R76). Extended-form scalar float maximum. -/
  | sfmaxExt (a b c : XReg) (t : ElemTy) (rm : Rm)
  /-- SFCMP_EQ_EXT (R76). Extended-form float equality compare. -/
  | sfcmpEqExt (a b c : XReg) (t : ElemTy) (rm : Rm)
  /-- SFCMP_LT_EXT (R76). Extended-form float less-than compare. -/
  | sfcmpLtExt (a b c : XReg) (t : ElemTy) (rm : Rm)
  /-- SFCMP_LE_EXT (R76). Extended-form float less-or-equal compare. -/
  | sfcmpLeExt (a b c : XReg) (t : ElemTy) (rm : Rm)
  /-- SFCMP_UN_EXT (R76). Extended-form float unordered compare. -/
  | sfcmpUnExt (a b c : XReg) (t : ElemTy) (rm : Rm)
  /-- SFCVT_EXT (R77). Extended-form scalar conversion with TYPE and TYPE2 and an explicit rounding mode. -/
  | sfcvtExt (a b : XReg) (t tb : ElemTy) (rm : Rm)
  /-- SFFMA (R75). Scalar fused multiply-add xa x xb + xc, rounded once. -/
  | sffma (a b c d : XReg) (t : ElemTy) (rm : Rm)
  /-- BEQ (R81). Branches by off9 words if xb equals xc. -/
  | beq (b c : XReg) (o : BitVec 9)
  /-- BNE (R81). Branches by off9 words if xb differs from xc. -/
  | bne (b c : XReg) (o : BitVec 9)
  /-- BLT (R81). Branches if xb < xc as signed values. -/
  | blt (b c : XReg) (o : BitVec 9)
  /-- BGE (R81). Branches if xb >= xc as signed values. -/
  | bge (b c : XReg) (o : BitVec 9)
  /-- BLO (R81). Branches if xb < xc as unsigned values. -/
  | blo (b c : XReg) (o : BitVec 9)
  /-- BHS (R81). Branches if xb >= xc as unsigned values. -/
  | bhs (b c : XReg) (o : BitVec 9)
  /-- BEQ_LIT (R81). beq with a 64-bit literal byte offset. -/
  | beqLit (b c : XReg) (lit : Word64)
  /-- BNE_LIT (R81). bne with a 64-bit literal byte offset. -/
  | bneLit (b c : XReg) (lit : Word64)
  /-- BLT_LIT (R81). blt with a 64-bit literal byte offset. -/
  | bltLit (b c : XReg) (lit : Word64)
  /-- BGE_LIT (R81). bge with a 64-bit literal byte offset. -/
  | bgeLit (b c : XReg) (lit : Word64)
  /-- BLO_LIT (R81). blo with a 64-bit literal byte offset. -/
  | bloLit (b c : XReg) (lit : Word64)
  /-- BHS_LIT (R81). bhs with a 64-bit literal byte offset. -/
  | bhsLit (b c : XReg) (lit : Word64)
  /-- JAL (R82). Writes the return address to xd and jumps by off19 words. -/
  | jal (a : XReg) (o : BitVec 19)
  /-- JAL_LIT (R82). jal with a 64-bit literal byte offset. -/
  | jalLit (a : XReg) (lit : Word64)
  /-- JALR (R82). Jumps to xb + imm14, writing the return address, or traps if misaligned. -/
  | jalr (a b : XReg) (i : BitVec 14)
  /-- LOOP (R84). Sets up a hardware loop level with the count from xc. -/
  | loop (l : BitVec 2) (b : XReg) (i : BitVec 14)
  /-- LOOP_LIT (R84). Sets up a hardware loop level with a literal count. -/
  | loopLit (l : BitVec 2) (i : BitVec 14) (count : Word32)
  /-- SMB (R207). Strip-mine branch with no address registers: subtracts VL from VREM, runs a strip boundary and loops while elements remain. -/
  | smb (i : BitVec 14)
  /-- SMB_STRIDES (R207). Strip-mine branch that also advances up to four address registers by VL x stride. -/
  | smbStrides (i : BitVec 14) (r0 r1 r2 r3 : XReg) (s0 s1 s2 s3 : BitVec 16)
  /-- CSRR (R89). Reads a control register into xd after the waits of R22. -/
  | csrr (a : XReg) (n : BitVec 12)
  /-- CSRW (R89). Writes xb to a control register. -/
  | csrw (b : XReg) (n : BitVec 12)
  /-- CSRS (R89). Sets the RW bits of a control register that are 1 in xb. -/
  | csrs (b : XReg) (n : BitVec 12)
  /-- CSRC (R89). Clears the RW bits of a control register that are 1 in xb. -/
  | csrc (b : XReg) (n : BitVec 12)
  /-- VL_WRITE (R21). A write of VL stores the value clamped to the lease, halved in protected mode. -/
  | vlWrite (op : CsrOp) (v : Word64)
  /-- VREM_WRITE (R201). A write of VREM is a strip boundary that applies the arbiter and pending PM and then sets VL. -/
  | vremWrite (op : CsrOp) (v : Word64)
  /-- VPOL_WRITE (R21). A write of VPOL sets TD at once and holds PM pending until the next strip boundary. -/
  | vpolWrite (op : CsrOp) (v : Word64)
  /-- FRM_WRITE (R21). A write of FRM sets FTZ and leaves RM unchanged for the values 5-7. -/
  | frmWrite (op : CsrOp) (v : Word64)
  /-- FFLAGS_WRITE (R38). A write of FFLAGS waits until earlier flag-setting instructions have contributed, then applies. -/
  | fflagsWrite (op : CsrOp) (v : Word64)
  /-- AWIN_WRITE (R21). A write of AWIN clears the sticky bits that are 1 (W1C) and sets SHIFT clamped to -40..+40. -/
  | awinWrite (op : CsrOp) (v : Word64)
  /-- LC_WRITE (R86). A write of LCn inside an active body is held until the end test; otherwise it applies at once. -/
  | lcWrite (n : BitVec 2) (op : CsrOp) (v : Word64)
  /-- LS_LE_WRITE (R87). A write of LSn or LEn of an active level is held until the level ends by its count. -/
  | lsLeWrite (isEnd : Bool) (n : BitVec 2) (op : CsrOp) (v : Word64)
  /-- WBOUND_WRITE (R21). A write of WBOUND sets the run-ahead bound for the whole context on every die. -/
  | wboundWrite (op : CsrOp) (v : Word64)
  /-- REGISTER_WRITE (R19). A write to a control or debug register with no behaviour of its own stores the value in its RW and W1C fields. -/
  | registerWrite (r : RegTarget) (op : CsrOp) (v : Word64)
  /-- NOP (R90). Does nothing. -/
  | nop
  /-- TRET (R97). Returns from a trap to EPC, leaving handler mode and running the end test if EPC is LEn. -/
  | tret
  /-- BRK (R92). Halts the hart for debug when BRKEN is set, otherwise raises the breakpoint cause. -/
  | brk
  /-- HALT (R90). Stops the hart after it retires; only debug or reset resumes it. -/
  | halt
  /-- FENCE_SV (R91). Orders earlier scalar-agent accesses before later vector-agent accesses at the scope. -/
  | fenceSv (s : Scope)
  /-- FENCE_VS (R91). Orders earlier vector-agent accesses before later scalar-agent accesses at the scope. -/
  | fenceVs (s : Scope)
  /-- FENCE_VV (R91). Orders vector-agent accesses among themselves at the scope. -/
  | fenceVv (s : Scope)
  /-- FENCE_ALL (R91). Orders every earlier access of both agents before every later one. -/
  | fenceAll (s : Scope)
  /-- FLUSH (R93). Makes device stores to a range visible at system scope and discards device copies. -/
  | flush (b c : XReg)
  /-- TRAP (R92). Raises the software-trap cause with the code in EVAL. -/
  | trap (i : BitVec 14)
  /-- LD (R78). Loads a scalar of the given type from xb + off10 x size. -/
  | ld (a b : XReg) (t : ElemTy) (o : BitVec 10)
  /-- LD_LIT (R78). Scalar load with a 64-bit literal byte offset. -/
  | ldLit (a b : XReg) (t : ElemTy) (lit : Word64)
  /-- LD_INDEXED (R78). Loads a scalar from xb + xc x s. -/
  | ldIndexed (a b c : XReg) (t : ElemTy) (k : BitVec 2)
  /-- ST (R78). Stores the low 8-64 bits of xa at xb + off10 x size. -/
  | st (a b : XReg) (z : BitVec 2) (o : BitVec 10)
  /-- ST_LIT (R78). Scalar store with a 64-bit literal byte offset. -/
  | stLit (a b : XReg) (z : BitVec 2) (lit : Word64)
  /-- ST_INDEXED (R78). Stores the low bits of xa at xb + xc x s. -/
  | stIndexed (a b c : XReg) (k z : BitVec 2)
  /-- LD_ACQ (R241). Loads with acquire ordering at the encoded scope. -/
  | ldAcq (a b : XReg) (s : Scope) (z : BitVec 2)
  /-- ST_REL (R241). Stores with cumulative release ordering at the encoded scope. -/
  | stRel (a b : XReg) (s : Scope) (z : BitVec 2)
  /-- AMO_ADD (R244). Atomically adds xc at the location's home and returns the old value. -/
  | amoAdd (a b c : XReg) (s : Scope) (z : BitVec 1)
  /-- AMO_MIN (R244). Atomic signed or unsigned minimum returning the old value. -/
  | amoMin (a b c : XReg) (s : Scope) (u z : BitVec 1)
  /-- AMO_MAX (R244). Atomic signed or unsigned maximum returning the old value. -/
  | amoMax (a b c : XReg) (s : Scope) (u z : BitVec 1)
  /-- AMO_AND (R244). Atomic AND returning the old value. -/
  | amoAnd (a b c : XReg) (s : Scope) (z : BitVec 1)
  /-- AMO_OR (R244). Atomic OR returning the old value. -/
  | amoOr (a b c : XReg) (s : Scope) (z : BitVec 1)
  /-- AMO_XOR (R244). Atomic XOR returning the old value. -/
  | amoXor (a b c : XReg) (s : Scope) (z : BitVec 1)
  /-- AMO_SWAP (R244). Atomic swap returning the old value. -/
  | amoSwap (a b c : XReg) (s : Scope) (z : BitVec 1)
  /-- AMO_CAS (R244). Atomic compare-and-swap writing xe if the old value equals xc. -/
  | amoCas (a b c d : XReg) (s : Scope) (z : BitVec 1)
  /-- RED_ADD (R244). Non-returning atomic add, possibly merged on the way to the home. -/
  | redAdd (b c : XReg) (s : Scope) (z : BitVec 1)
  /-- RED_MIN (R244). Non-returning atomic minimum. -/
  | redMin (b c : XReg) (s : Scope) (u z : BitVec 1)
  /-- RED_MAX (R244). Non-returning atomic maximum. -/
  | redMax (b c : XReg) (s : Scope) (u z : BitVec 1)
  /-- RED_AND (R244). Non-returning atomic AND. -/
  | redAnd (b c : XReg) (s : Scope) (z : BitVec 1)
  /-- RED_OR (R244). Non-returning atomic OR. -/
  | redOr (b c : XReg) (s : Scope) (z : BitVec 1)
  /-- RED_XOR (R244). Non-returning atomic XOR. -/
  | redXor (b c : XReg) (s : Scope) (z : BitVec 1)
  /-- VADD_F32 (R109). Elementwise f32 addition. -/
  | vaddF32 (a b c : VReg) (p : PReg)
  /-- VSUB_F32 (R109). Elementwise f32 subtraction. -/
  | vsubF32 (a b c : VReg) (p : PReg)
  /-- VMUL_F32 (R109). Elementwise f32 multiplication. -/
  | vmulF32 (a b c : VReg) (p : PReg)
  /-- VFMA_F32 (R109). Elementwise f32 fused multiply-add into the destination. -/
  | vfmaF32 (a b c : VReg) (p : PReg)
  /-- VDIV_F32 (R109). Elementwise f32 division. -/
  | vdivF32 (a b c : VReg) (p : PReg)
  /-- VSQRT_F32 (R109). Elementwise f32 square root. -/
  | vsqrtF32 (a b : VReg) (p : PReg)
  /-- VRSQRT_F32 (R109). Elementwise f32 reciprocal square root, correctly rounded. -/
  | vrsqrtF32 (a b : VReg) (p : PReg)
  /-- VRCP_F32 (R109). Elementwise f32 reciprocal, correctly rounded. -/
  | vrcpF32 (a b : VReg) (p : PReg)
  /-- VEXP2_F32 (R109). Elementwise f32 power of two, correctly rounded. -/
  | vexp2F32 (a b : VReg) (p : PReg)
  /-- VLOG2_F32 (R109). Elementwise f32 base-2 logarithm, correctly rounded. -/
  | vlog2F32 (a b : VReg) (p : PReg)
  /-- VMIN_F32 (R109). Elementwise f32 minimum. -/
  | vminF32 (a b c : VReg) (p : PReg)
  /-- VMAX_F32 (R109). Elementwise f32 maximum. -/
  | vmaxF32 (a b c : VReg) (p : PReg)
  /-- VABS_F32 (R109). Elementwise f32 absolute value. -/
  | vabsF32 (a b : VReg) (p : PReg)
  /-- VNEG_F32 (R109). Elementwise f32 negation. -/
  | vnegF32 (a b : VReg) (p : PReg)
  /-- VADD_F64 (R109). Elementwise f64 addition. -/
  | vaddF64 (a b c : VReg) (p : PReg)
  /-- VSUB_F64 (R109). Elementwise f64 subtraction. -/
  | vsubF64 (a b c : VReg) (p : PReg)
  /-- VMUL_F64 (R109). Elementwise f64 multiplication. -/
  | vmulF64 (a b c : VReg) (p : PReg)
  /-- VFMA_F64 (R109). Elementwise f64 fused multiply-add into the destination. -/
  | vfmaF64 (a b c : VReg) (p : PReg)
  /-- VDIV_F64 (R109). Elementwise f64 division. -/
  | vdivF64 (a b c : VReg) (p : PReg)
  /-- VSQRT_F64 (R109). Elementwise f64 square root. -/
  | vsqrtF64 (a b : VReg) (p : PReg)
  /-- VRSQRT_F64 (R109). Elementwise f64 reciprocal square root. -/
  | vrsqrtF64 (a b : VReg) (p : PReg)
  /-- VRCP_F64 (R109). Elementwise f64 reciprocal. -/
  | vrcpF64 (a b : VReg) (p : PReg)
  /-- VEXP2_F64 (R109). Elementwise f64 power of two. -/
  | vexp2F64 (a b : VReg) (p : PReg)
  /-- VLOG2_F64 (R109). Elementwise f64 base-2 logarithm. -/
  | vlog2F64 (a b : VReg) (p : PReg)
  /-- VMIN_F64 (R109). Elementwise f64 minimum. -/
  | vminF64 (a b c : VReg) (p : PReg)
  /-- VMAX_F64 (R109). Elementwise f64 maximum. -/
  | vmaxF64 (a b c : VReg) (p : PReg)
  /-- VABS_F64 (R109). Elementwise f64 absolute value. -/
  | vabsF64 (a b : VReg) (p : PReg)
  /-- VNEG_F64 (R109). Elementwise f64 negation. -/
  | vnegF64 (a b : VReg) (p : PReg)
  /-- VADD_S32 (R110). Elementwise s32 wrapping addition. -/
  | vaddS32 (a b c : VReg) (p : PReg)
  /-- VSUB_S32 (R110). Elementwise s32 wrapping subtraction. -/
  | vsubS32 (a b c : VReg) (p : PReg)
  /-- VMUL_S32 (R110). Elementwise s32 wrapping multiplication. -/
  | vmulS32 (a b c : VReg) (p : PReg)
  /-- VFMA_S32 (R110). Elementwise s32 multiply-add into the destination. -/
  | vfmaS32 (a b c : VReg) (p : PReg)
  /-- VMIN_S32 (R110). Elementwise s32 minimum. -/
  | vminS32 (a b c : VReg) (p : PReg)
  /-- VMAX_S32 (R110). Elementwise s32 maximum. -/
  | vmaxS32 (a b c : VReg) (p : PReg)
  /-- VABS_S32 (R110). Elementwise s32 absolute value. -/
  | vabsS32 (a b : VReg) (p : PReg)
  /-- VNEG_S32 (R110). Elementwise s32 negation. -/
  | vnegS32 (a b : VReg) (p : PReg)
  /-- VAND_S32 (R110). Elementwise bitwise AND. -/
  | vandS32 (a b c : VReg) (p : PReg)
  /-- VOR_S32 (R110). Elementwise bitwise OR. -/
  | vorS32 (a b c : VReg) (p : PReg)
  /-- VXOR_S32 (R110). Elementwise bitwise XOR. -/
  | vxorS32 (a b c : VReg) (p : PReg)
  /-- VSHL_S32 (R110). Elementwise left shift by b mod 32. -/
  | vshlS32 (a b c : VReg) (p : PReg)
  /-- VSHR_S32 (R110). Elementwise logical right shift. -/
  | vshrS32 (a b c : VReg) (p : PReg)
  /-- VSRA_S32 (R110). Elementwise arithmetic right shift. -/
  | vsraS32 (a b c : VReg) (p : PReg)
  /-- VADD_EXT (R108). Extended-form elementwise addition of any accepted type and rounding or saturation. -/
  | vaddExt (a b c : VReg) (t : ElemTy) (rm : Rm) (p : PReg)
  /-- VSUB_EXT (R108). Extended-form elementwise subtraction. -/
  | vsubExt (a b c : VReg) (t : ElemTy) (rm : Rm) (p : PReg)
  /-- VMUL_EXT (R108). Extended-form elementwise multiplication. -/
  | vmulExt (a b c : VReg) (t : ElemTy) (rm : Rm) (p : PReg)
  /-- VFMA_EXT (R108). Extended-form four-operand fused multiply-add with addend D. -/
  | vfmaExt (a b c d : VReg) (t : ElemTy) (rm : Rm) (p : PReg)
  /-- VDIV_EXT (R108). Extended-form elementwise float division. -/
  | vdivExt (a b c : VReg) (t : ElemTy) (rm : Rm) (p : PReg)
  /-- VSQRT_EXT (R108). Extended-form elementwise float square root. -/
  | vsqrtExt (a b : VReg) (t : ElemTy) (rm : Rm) (p : PReg)
  /-- VRSQRT_EXT (R108). Extended-form elementwise reciprocal square root. -/
  | vrsqrtExt (a b : VReg) (t : ElemTy) (rm : Rm) (p : PReg)
  /-- VRCP_EXT (R108). Extended-form elementwise reciprocal. -/
  | vrcpExt (a b : VReg) (t : ElemTy) (rm : Rm) (p : PReg)
  /-- VEXP2_EXT (R108). Extended-form elementwise power of two. -/
  | vexp2Ext (a b : VReg) (t : ElemTy) (rm : Rm) (p : PReg)
  /-- VLOG2_EXT (R108). Extended-form elementwise base-2 logarithm. -/
  | vlog2Ext (a b : VReg) (t : ElemTy) (rm : Rm) (p : PReg)
  /-- VMIN_EXT (R108). Extended-form elementwise minimum. -/
  | vminExt (a b c : VReg) (t : ElemTy) (rm : Rm) (p : PReg)
  /-- VMAX_EXT (R108). Extended-form elementwise maximum. -/
  | vmaxExt (a b c : VReg) (t : ElemTy) (rm : Rm) (p : PReg)
  /-- VABS_EXT (R108). Extended-form elementwise absolute value. -/
  | vabsExt (a b : VReg) (t : ElemTy) (rm : Rm) (p : PReg)
  /-- VNEG_EXT (R108). Extended-form elementwise negation. -/
  | vnegExt (a b : VReg) (t : ElemTy) (rm : Rm) (p : PReg)
  /-- VAND_EXT (R108). Extended-form elementwise AND on integer types. -/
  | vandExt (a b c : VReg) (t : ElemTy) (rm : Rm) (p : PReg)
  /-- VOR_EXT (R108). Extended-form elementwise OR on integer types. -/
  | vorExt (a b c : VReg) (t : ElemTy) (rm : Rm) (p : PReg)
  /-- VXOR_EXT (R108). Extended-form elementwise XOR on integer types. -/
  | vxorExt (a b c : VReg) (t : ElemTy) (rm : Rm) (p : PReg)
  /-- VSHL_EXT (R108). Extended-form elementwise left shift. -/
  | vshlExt (a b c : VReg) (t : ElemTy) (rm : Rm) (p : PReg)
  /-- VSHR_EXT (R108). Extended-form elementwise logical right shift. -/
  | vshrExt (a b c : VReg) (t : ElemTy) (rm : Rm) (p : PReg)
  /-- VSRA_EXT (R108). Extended-form elementwise arithmetic right shift. -/
  | vsraExt (a b c : VReg) (t : ElemTy) (rm : Rm) (p : PReg)
  /-- VCVT (R111). Converts each active element between types by R36. -/
  | vcvt (a b : VReg) (t tb : ElemTy) (rm : Rm) (p : PReg)
  /-- VCMP (R112). One-word compare writing predicate bits for f32, f64, s32 or z32. -/
  | vcmp (a : PReg) (b c : VReg) (p : PReg) (x : Cond) (k : BitVec 2)
  /-- VCMP_EXT (R112). Extended-form compare of any accepted type. -/
  | vcmpExt (a : PReg) (b c : VReg) (x : Cond) (t : ElemTy) (p : PReg)
  /-- VSEL (R113). Selects va or vb per element by the predicate. -/
  | vsel (a b c : VReg) (p : PReg)
  /-- VMOV (R113). Copies the containers of active elements. -/
  | vmov (a b : VReg) (p : PReg)
  /-- VBCAST (R113). Broadcasts xb to the active elements. -/
  | vbcast (a : VReg) (b : XReg) (p : PReg)
  /-- VEXT (R113). Extracts element Z(xc) of va into xd. -/
  | vext (a : XReg) (b : VReg) (c : XReg)
  /-- VID (R113). Writes each active element its index. -/
  | vid (a : VReg) (p : PReg)
  /-- VRED (R116). Reduces the active elements on the fixed tree into an x register. -/
  | vred (op : RedOp) (a : XReg) (b : VReg) (t : ElemTy) (rm : Rm) (p : PReg)
  /-- VSRED (R116). Segmented reduction writing each segment's root to its active elements. -/
  | vsred (op : RedOp) (a b : VReg) (d : PReg) (t : ElemTy) (rm : Rm) (p : PReg)
  /-- VSCAN (R116). Inclusive or exclusive scan on the fixed tree. -/
  | vscan (op : RedOp) (excl : Bool) (a b : VReg) (t : ElemTy) (rm : Rm) (p : PReg)
  /-- VSSCAN (R116). Segmented inclusive or exclusive scan. -/
  | vsscan (op : RedOp) (excl : Bool) (a b : VReg) (d : PReg) (t : ElemTy) (rm : Rm) (p : PReg)
  /-- VCOMPRESS (R117). Packs the active elements of va to the front of vd. -/
  | vcompress (a b : VReg) (p : PReg)
  /-- VEXPAND (R117). Spreads leading elements of va to the active positions. -/
  | vexpand (a b : VReg) (p : PReg)
  /-- VPERM (R117). Permutes va by the indices in vb. -/
  | vperm (a b c : VReg) (p : PReg)
  /-- VSLIDE (R117). Slides va by a signed element count. -/
  | vslide (a b : VReg) (c : XReg) (p : PReg)
  /-- VPASS (R117). Shifts va up by one element, filling element 0 from xc. -/
  | vpass (a b : VReg) (c : XReg) (p : PReg)
  /-- VRAND (R118). Writes the counter-based random value Rand(key, ctr, e) to each active element. -/
  | vrand (a : VReg) (b c : XReg) (p : PReg)
  /-- PAND (R114). Bitwise AND of predicates. -/
  | pand (a b c : PReg)
  /-- POR (R114). Bitwise OR of predicates. -/
  | por (a b c : PReg)
  /-- PXOR (R114). Bitwise XOR of predicates. -/
  | pxor (a b c : PReg)
  /-- PNOT (R114). Bitwise NOT of a predicate. -/
  | pnot (a b : PReg)
  /-- PSET (R114). Sets the predicate bits below Z(xb). -/
  | pset (a : PReg) (b : XReg)
  /-- PFIRST (R114). Writes the index of the first set bit below VL, or VL. -/
  | pfirst (a : XReg) (b : PReg)
  /-- PPOP (R114). Writes the number of set bits below VL. -/
  | ppop (a : XReg) (b : PReg)
  /-- VLD (R119). Unit-stride vector load. -/
  | vld (a : VReg) (b : XReg) (p : PReg) (z : BitVec 2)
  /-- VLDS (R119). Strided vector load. -/
  | vlds (a : VReg) (b c : XReg) (p : PReg) (z : BitVec 2)
  /-- VST (R119). Unit-stride vector store. -/
  | vst (a : VReg) (b : XReg) (p : PReg) (z : BitVec 2)
  /-- VSTS (R119). Strided vector store. -/
  | vsts (a : VReg) (b c : XReg) (p : PReg) (z : BitVec 2)
  /-- VLD_OFF (R119). Unit-stride vector load with a 30-bit byte offset. -/
  | vldOff (a : VReg) (b : XReg) (z : BitVec 2) (off : BitVec 30) (p : PReg)
  /-- VLDS_OFF (R119). Strided vector load with a 30-bit byte offset. -/
  | vldsOff (a : VReg) (b c : XReg) (z : BitVec 2) (off : BitVec 30) (p : PReg)
  /-- VST_OFF (R119). Unit-stride vector store with a 30-bit byte offset. -/
  | vstOff (a : VReg) (b : XReg) (z : BitVec 2) (off : BitVec 30) (p : PReg)
  /-- VSTS_OFF (R119). Strided vector store with a 30-bit byte offset. -/
  | vstsOff (a : VReg) (b c : XReg) (z : BitVec 2) (off : BitVec 30) (p : PReg)
  /-- VLDG (R120). Segment load of n fields per element into consecutive registers. -/
  | vldg (a : VReg) (b : XReg) (p : PReg) (z : BitVec 2) (n : BitVec 3)
  /-- VSTG (R120). Segment store of n fields per element from consecutive registers. -/
  | vstg (a : VReg) (b : XReg) (p : PReg) (z : BitVec 2) (n : BitVec 3)
  /-- VLDX (R119). Indexed vector load within the scratchpad windows. -/
  | vldx (a : VReg) (b : XReg) (c : VReg) (p : PReg) (z : BitVec 2)
  /-- VSTX (R119). Indexed vector store within the scratchpad windows. -/
  | vstx (a : VReg) (b : XReg) (c : VReg) (p : PReg) (z : BitVec 2)
  /-- FSET (R146). Writes a function register's descriptor from xb. -/
  | fset (a : VReg) (b : XReg)
  /-- FGET (R147). Reads a function register's descriptor into xd. -/
  | fget (a : XReg) (b : VReg)
  /-- FADD (R148). Adds two function registers at the higher degree. -/
  | fadd (a b c : VReg) (p : PReg)
  /-- FSUB (R148). Subtracts two function registers at the higher degree. -/
  | fsub (a b c : VReg) (p : PReg)
  /-- FMUL (R149). Multiplies two function registers on a GLL grid. -/
  | fmul (a b c : VReg) (p : PReg)
  /-- FSCALE (R150). Scales every coefficient by a scalar from xc. -/
  | fscale (a b : VReg) (c : XReg) (p : PReg)
  /-- FDOT (R151). Writes the L2 inner product of two functions per element. -/
  | fdot (a b c : VReg) (p : PReg)
  /-- FNORM (R151). Writes the squared L2 norm per element. -/
  | fnorm (a b : VReg) (p : PReg)
  /-- FDIFF (R153). Differentiates along an axis. -/
  | fdiff (a b : VReg) (axis : BitVec 2) (t : ElemTy) (rm : Rm) (p : PReg)
  /-- FINT (R154). Integrates over the reference element to a point. -/
  | fint (a b : VReg) (t : ElemTy) (rm : Rm) (p : PReg)
  /-- FANTI (R155). Forms the antiderivative along an axis. -/
  | fanti (a b : VReg) (axis : BitVec 2) (t : ElemTy) (rm : Rm) (p : PReg)
  /-- FPROJ (R156). L2-projects onto a lower degree. -/
  | fproj (a b : VReg) (deg : BitVec 4) (t : ElemTy) (rm : Rm) (p : PReg)
  /-- FRAISE (R156). Raises exactly to a higher degree. -/
  | fraise (a b : VReg) (deg : BitVec 4) (t : ElemTy) (rm : Rm) (p : PReg)
  /-- FCVT (R157). Converts between modal and nodal basis. -/
  | fcvt (a b : VReg) (basis : BitVec 1) (t : ElemTy) (rm : Rm) (p : PReg)
  /-- FTRACE (R158). Restricts each element to a face with an orientation. -/
  | ftrace (a b : VReg) (face orient : BitVec 3) (t : ElemTy) (rm : Rm) (p : PReg)
  /-- FEVAL (R159). Evaluates each function at a reference point. -/
  | feval (a b c d : VReg) (t : ElemTy) (rm : Rm) (p : PReg)
  /-- FLD (R160). Loads the coefficients of a function register. -/
  | fld (a : VReg) (b : XReg) (i : BitVec 14)
  /-- FST (R160). Stores the coefficients of a function register. -/
  | fst (a : VReg) (b : XReg) (i : BitVec 14)
  /-- MATTACH (R173). Requests accumulator rows and optionally opens receive windows. -/
  | mattach (a b c : XReg)
  /-- MDETACH (R174). Waits for queued matrix work, closes windows and releases every row block. -/
  | mdetach
  /-- MZERO (R175). Zeroes the core's rows of a plane and latches AWIN.SHIFT. -/
  | mzero (n : BitVec 1)
  /-- MLDB (R176). Fills units of a B buffer, optionally packed and scaled. -/
  | mldb (n k s : BitVec 1) (b c : XReg)
  /-- MSIGN (R185). Writes the negative and uncertain bits of one row into two predicates. -/
  | msign (a : PReg) (b : XReg) (n : BitVec 1)
  /-- MSAVE (R195). Writes an image of the core's row blocks of a plane. -/
  | msave (n : BitVec 1) (b : XReg)
  /-- MREST (R196). Restores a plane from an msave image. -/
  | mrest (n : BitVec 1) (b : XReg)
  /-- MMACC (R182). Accumulates exact products of A rows and a B buffer into carry-save cells. -/
  | mmacc (n k : BitVec 1) (b : XReg) (t tb : ElemTy) (boff : BitVec 7) (nblk rowb : BitVec 2) (steps : BitVec 7)
  /-- MSMACC (R182). Accumulates block-scaled exact products into carry-save cells. -/
  | msmacc (n k : BitVec 1) (b : XReg) (t tb : ElemTy) (boff : BitVec 7) (nblk rowb : BitVec 2) (steps : BitVec 7)
  /-- MRESOLVE (R187). Rounds unresolved blocks once to a target type. -/
  | mresolve (n : BitVec 1) (t : ElemTy) (rm : Rm) (nblk rowb : BitVec 2)
  /-- MCMP (R186). Compares every cell of a row against a threshold into a predicate. -/
  | mcmp (a : PReg) (b c : XReg) (t : ElemTy) (x : Cond) (n : BitVec 1)
  /-- MDRAIN (R188). Writes resolved rows as a typed tile with header. -/
  | mdrain (n : BitVec 1) (b c : XReg) (t : ElemTy) (rm : Rm) (clr sat pack : Bool) (layout nblk rowb : BitVec 2)
  /-- MDRAIN_RAW (R188). Writes unresolved rows as a raw carry-save tile. -/
  | mdrainRaw (n : BitVec 1) (b : XReg) (clr : Bool) (nblk rowb : BitVec 2)
  /-- MDRAINP (R194). Sends raw rows to a peer's receive window and waits for acceptance or refusal. -/
  | mdrainp (n : BitVec 1) (b : XReg) (clr : Bool) (nblk rowb : BitVec 2)
  /-- MATRIX_COMMAND_START (R171). A queued matrix instruction starts once earlier dependent instructions of the core complete. -/
  | matrixCommandStart (core : Nat)
  /-- TILE_ARRIVAL (R193). An mdrainp tile reaches a receiver, is added cell by cell or refused, and credits the sync word. -/
  | tileArrival (hart : Nat)
  /-- CP_COPY (R226). Pushes a copy command to the copy engine. -/
  | cpCopy (a b : XReg)
  /-- CP_GATHER (R226). Pushes a gather command to the copy engine. -/
  | cpGather (a b : XReg)
  /-- CP_DEC (R226). Pushes a decode command to the decoder engine. -/
  | cpDec (a b : XReg)
  /-- SW_INIT (R221). Atomically arms a sync word with a target and zero count. -/
  | swInit (b c : XReg)
  /-- SW_WAIT (R222). Retires if GEN differs from xc, else parks until an arrival changes GEN. -/
  | swWait (a b c : XReg)
  /-- EQ_PUSH (R226). Pushes a descriptor to the engine chosen by its KIND. -/
  | eqPush (a b : XReg)
  /-- EQ_POP (R232). Removes the oldest completion record for an engine, waiting if none. -/
  | eqPop (a b : XReg) (n : BitVec 1)
  /-- ENGINE_FIFO_ADMIT (R227). A push waiting on a full input FIFO appends its command when room appears. -/
  | engineFifoAdmit (hart : Nat)
  /-- ENGINE_COMMAND_START (R230). An engine starts a command once the range checker orders nothing before it. -/
  | engineCommandStart (core eng seq : Nat)
  /-- COMMAND_COMPLETE (R227). An engine command whose writes are performed completes, credits its sync word and places its record. -/
  | commandComplete (core eng seq : Nat)
  /-- DECODE_CHUNK_RELEASE (R236). A decoded chunk is released to DST in chunk order, or discarded after a failing chunk. -/
  | decodeChunkRelease (core seq : Nat)
  /-- COMPLETION_RECORD_PLACE (R231). A record waiting on a full output FIFO is placed when room appears. -/
  | completionRecordPlace (core eng seq : Nat)
  /-- SYNC_WAIT_WAKE (R222). A hart parked on a sync word retires with the new GEN. -/
  | syncWaitWake (hart : Nat)
  /-- SYNC_WAIT_TIMEOUT (R222). A sw.wait parked 2^20 clk raises the no-progress cause. -/
  | syncWaitTimeout (hart : Nat)
  /-- EQ_POP_RECORD (R232). A waiting eq.pop takes a record that has arrived, trapping on failed TRAPF commands. -/
  | eqPopRecord (hart : Nat)
  /-- EQ_POP_TIMEOUT (R232). An eq.pop waiting 2^20 clk raises the no-progress cause. -/
  | eqPopTimeout (hart : Nat)
  /-- BAR (R248). Arrives at a barrier and waits for its generation to advance. -/
  | bar (a : BitVec 5) (b : XReg) (l : BitVec 2)
  /-- BAR_ARRIVE (R248). Arrives at a barrier as a release without waiting. -/
  | barArrive (a : BitVec 5) (b : XReg) (l : BitVec 2)
  /-- BAR_WAIT (R248). Waits for the barrier generation to pass the pending one. -/
  | barWait (a : BitVec 5) (l : BitVec 2)
  /-- BARRIER_RELEASE (R248). Waiters of a completed barrier generation retire after the level's release latency. -/
  | barrierRelease (hart : Nat)
  /-- FUT_PUT (R250). Fills an empty future word and wakes its waiters, or reports it full. -/
  | futPut (a b c : XReg)
  /-- FUT_GET (R250). Reads a full future word or parks until it is filled. -/
  | futGet (a b : XReg)
  /-- FUTURE_FILL_WAKE (R250). A parked fut.get retires with the value a fut.put wrote. -/
  | futureFillWake (hart : Nat)
  /-- FUTURE_WAIT_TIMEOUT (R250). A parked fut.get reaching the no-progress limit raises cause 9. -/
  | futureWaitTimeout (hart : Nat)
  /-- QPUSH (R214). Appends a value to a core queue as a core-scope release, waiting while full. -/
  | qpush (b : XReg) (n : BitVec 2)
  /-- QPOP (R214). Removes the oldest queue entry as a core-scope acquire, waiting while empty. -/
  | qpop (a : XReg) (n : BitVec 2)
  /-- QUEUE_WAIT_ADMIT (R214). A waiting pusher or popper is served when the queue gains room or an entry. -/
  | queueWaitAdmit (hart : Nat)
  /-- QUEUE_WAIT_TIMEOUT (R215). A hart waiting at a queue for 2^20 clk raises the no-progress cause. -/
  | queueWaitTimeout (hart : Nat)
  /-- VWAIT (R252). In T1 mode arms monitors for a prefix of elements and waits until all armed words change. -/
  | vwait (a : XReg) (b : VReg) (c : XReg) (p : PReg)
  /-- VWAIT_WAKE (R252). A vwait retires with xd = L once every armed word differs from the expected value. -/
  | vwaitWake (hart : Nat)
  /-- WAITM (R249). Compares a location and parks on a monitor until a write or timeout. -/
  | waitm (a b c d : XReg) (t : ElemTy) (s : Scope)
  /-- MONITOR_WAKE (R249). A write to a monitored location wakes the parked waitm. -/
  | monitorWake (hart : Nat)
  /-- WAITM_TIMEOUT (R249). A parked waitm retires after xe clk with the value at the home. -/
  | waitmTimeout (hart : Nat)
  /-- LEASE (R202). Requests lane clusters and waits until at least MIN are granted. -/
  | lease (a b c : XReg)
  /-- ARBITER_SERVE (R203). Clusters released outside a boundary are offered to waiting harts by precedence. -/
  | arbiterServe (core : Nat)
  /-- LEASE_WAIT_GRANT (R202). A hart waiting at lease retires when granted its minimum. -/
  | leaseWaitGrant (hart : Nat)
  /-- FARM (R210). Claims the next strip from a farm word atomically and sets VL. -/
  | farm (a b : XReg)
  /-- WPUSH (R284). Queues a task record into its bin as a device-scope release. -/
  | wpush (a b c : XReg)
  /-- WPOP (R285). Selects an eligible record and enters its task, or waits and reports held or empty. -/
  | wpop (a b : XReg)
  /-- WPRIO (R286). Changes the priority of queued records naming a frame. -/
  | wprio (a b c : XReg)
  /-- YIELD (R287). Saves registers and RESUME to the frame, releases and re-queues the record. -/
  | yield (b : XReg)
  /-- COMMIT (R289). Marks the task committed and starts the commit window. -/
  | commit
  /-- TEND (R288). Ends the task, or ends the hart's part in the launch outside a task. -/
  | tend
  /-- WTERM (R290). Reports confirmed termination, waiting up to xb clk. -/
  | wterm (a b : XReg)
  /-- WPOP_WAIT_SELECT (R285). A waiting wpop selects a record that becomes eligible during its wait and enters it. -/
  | wpopWaitSelect (hart : Nat)
  /-- WPOP_WAIT_EXPIRY (R285). A wpop whose wait limit expires writes held or empty. -/
  | wpopWaitExpiry (hart : Nat)
  /-- WTERM_CONFIRM (R290). A waiting wterm returns 1 when termination is confirmed. -/
  | wtermConfirm (hart : Nat)
  /-- WTERM_WAIT_EXPIRY (R290). A wterm whose wait limit expires writes 0. -/
  | wtermWaitExpiry (hart : Nat)
  /-- FRAME_HEADER_READ (R271). The worklist unit reads a frame header when its record enters the on-chip part. -/
  | frameHeaderRead (ctx die bin idx : Nat)
  /-- SPILL_REFILL (R272). The unit refills a bin's on-chip part from the head of its spill ring. -/
  | spillRefill (ctx die bin : Nat)
  /-- PARK_FLOOR_TIMEOUT (R273). A task parked more than 256 clk stops counting toward the floor. -/
  | parkFloorTimeout (hart : Nat)
  /-- RACK_REQUEST (R277). A die with waiting harts and no eligible work asks other dies for a batch. -/
  | rackRequest (ctx die : Nat)
  /-- RACK_ARRIVAL (R277). A racked batch arrives and is appended to its bin. -/
  | rackArrival (ctx die : Nat)
  /-- DEVICE_RACK (R278). A device with no eligible work asks other devices for XDEV records over the links. -/
  | deviceRack (ctx : Nat) (ask : Option Nat) (recs : List (Word64 × Word64))
  /-- PREEMPTION (R292). A task in its idempotent region is stopped, its record re-queued and the hart returned to dispatch. -/
  | preemption (hart : Nat)
  /-- COMMIT_WINDOW_EXPIRY (R294). A commit window that runs out sends cause 15 to a supervisor core. -/
  | commitWindowExpiry (hart : Nat)
  /-- TERMINATION_WAVE (R295). An idle lowest die sends a token across dies; two clean waves confirm termination. -/
  | terminationWave (ctx : Nat)
  /-- LAUNCH_COMPLETE (R269). A launch completes once termination is confirmed and every started hart has left. -/
  | launchComplete (ctx : Nat)
  /-- LAUNCH (R268). Gysko command that checks a launch, sets WBOUND, pushes records and starts harts. -/
  | launch (h : GyskoHdr) (r : LaunchReq)
  /-- CTXCFG (R298). Gysko command that configures a Free or Idle context. -/
  | ctxcfg (h : GyskoHdr) (ctx : Nat) (cfg : CtxCfg)
  /-- CTXREL (R299). Gysko command that releases an Idle context to Free. -/
  | ctxrel (h : GyskoHdr) (ctx : Nat)
  /-- SWITCH (R300). Gysko command that switches contexts on overlapping presses. -/
  | switch (h : GyskoHdr) (ctx : Nat)
  /-- INVAL (R305). Gysko command that drops translations of a VA range and completes once old accesses are performed. -/
  | inval (h : GyskoHdr) (ctx : Nat) (lo hi : Word64)
  /-- QUERY (R355). Gysko command returning a context's state and wear count. -/
  | query (h : GyskoHdr) (ctx : Nat)
  /-- WRITE (R357). Gysko command writing bytes to translated global memory of a context. -/
  | write (h : GyskoHdr) (ctx : Nat) (va : Word64) (bytes : List Byte)
  /-- READ (R357). Gysko command reading bytes from translated global memory of a context. -/
  | read (h : GyskoHdr) (ctx : Nat) (va : Word64) (len : Nat)
  /-- CELLARLD (R357). Gysko command loading a press's cellar slice and its image. -/
  | cellarld (h : GyskoHdr) (ctx pidx off : Nat) (bytes : List Byte)
  /-- HWRITE (R358). Gysko command writing host-window words in ascending order at system scope. -/
  | hwrite (h : GyskoHdr) (off : Nat) (bytes : List Byte)
  /-- HREAD (R358). Gysko command reading host-window words in ascending order. -/
  | hread (h : GyskoHdr) (off len : Nat)
  /-- SUMMARY (R337). Gysko command returning the device summary snapshot. -/
  | summary (h : GyskoHdr)
  /-- FLR (R349). Gysko command running the function-level reset of a VF. -/
  | flr (h : GyskoHdr)
  /-- ASSIGN (R297). Gysko command assigning presses and memory ranges to a VF. -/
  | assign (h : GyskoHdr) (presses ranges : List Nat)
  /-- POWER (R346). Gysko command setting the module power limit and power state. -/
  | power (h : GyskoHdr) (plim : Option Nat) (run : Option Bool)
  /-- FWUPDATE (R363). Gysko command writing a firmware image into the unused flash slot. -/
  | fwupdate (h : GyskoHdr) (head : SlotHead) (size : Word64) (image : List Byte) (digest : List Byte) (sig : List Byte)
  /-- SPDM (R359). Gysko carriage of an SPDM message outside a session. -/
  | spdm (h : GyskoHdr) (msg : List Byte)
  /-- GET_VERSION (R359). SPDM request for supported versions. -/
  | getVersion (q : SpdmReq)
  /-- GET_CAPABILITIES (R359). SPDM request for capabilities. -/
  | getCapabilities (q : SpdmReq)
  /-- NEGOTIATE_ALGORITHMS (R359). SPDM negotiation of XMSS, SHA3-384, secp384r1 and AES-256-GCM. -/
  | negotiateAlgorithms (q : SpdmReq) (xmss sha dhe aead : Bool)
  /-- GET_DIGESTS (R359). SPDM request for certificate digests. -/
  | getDigests (q : SpdmReq)
  /-- GET_CERTIFICATE (R359). SPDM request for the certificate chain. -/
  | getCertificate (q : SpdmReq) (off len : Nat)
  /-- CHALLENGE (R359). SPDM challenge answered with an XMSS signature. -/
  | challenge (q : SpdmReq) (nonce : Nat)
  /-- GET_MEASUREMENTS (R360). SPDM request returning the eight measurements. -/
  | getMeasurements (q : SpdmReq) (index : Nat) (sign : Bool) (nonce : Nat)
  /-- KEY_EXCHANGE (R359). SPDM key exchange opening a secured session. -/
  | keyExchange (q : SpdmReq) (share : Nat)
  /-- FINISH (R359). SPDM finish of session setup. -/
  | finish (q : SpdmReq) (mac : Nat)
  /-- HEARTBEAT (R359). SPDM session heartbeat. -/
  | heartbeat (q : SpdmReq)
  /-- KEY_UPDATE (R359). SPDM session key update. -/
  | keyUpdate (q : SpdmReq)
  /-- END_SESSION (R359). SPDM request ending a session. -/
  | endSession (q : SpdmReq)
  /-- VENDOR_DEFINED_REQUEST (R359). SPDM vendor-defined request carrying TDISP and key messages. -/
  | vendorDefinedRequest (q : SpdmReq) (body : VendorMsg)
  /-- MEMORY_KEY_INSTALL (R367). Vendor message installing or generating a VF memory key in CONFIG_UNLOCKED. -/
  | memoryKeyInstall (q : SpdmReq) (vf : Nat) (key : Option Nat)
  /-- GET_TDISP_VERSION (R364). TDISP version request. -/
  | getTdispVersion (q : SpdmReq) (vf : Nat)
  /-- GET_TDISP_CAPABILITIES (R364). TDISP capabilities request. -/
  | getTdispCapabilities (q : SpdmReq) (vf : Nat)
  /-- LOCK_INTERFACE_REQUEST (R365). Moves a VF from CONFIG_UNLOCKED to CONFIG_LOCKED. -/
  | lockInterfaceRequest (q : SpdmReq) (vf : Nat)
  /-- GET_DEVICE_INTERFACE_REPORT (R364). Returns the VF's presses, ranges, host window and lock nonce. -/
  | getDeviceInterfaceReport (q : SpdmReq) (vf : Nat)
  /-- GET_DEVICE_INTERFACE_STATE (R364). Returns the VF's TDISP state. -/
  | getDeviceInterfaceState (q : SpdmReq) (vf : Nat)
  /-- START_INTERFACE_REQUEST (R365). Moves a locked VF with a matching nonce to RUN. -/
  | startInterfaceRequest (q : SpdmReq) (vf nonce : Nat)
  /-- STOP_INTERFACE_REQUEST (R365). Resets the VF and returns it to CONFIG_UNLOCKED. -/
  | stopInterfaceRequest (q : SpdmReq) (vf : Nat)
  /-- TDISP_UNSUPPORTED_MESSAGE (R364). An unsupported TDISP message is answered with an error. -/
  | tdispUnsupportedMessage (q : SpdmReq) (vf code : Nat)
  /-- CONTEXT_SWITCH_OUT (R309). Stops a context's harts and engines and saves its state to the save area. -/
  | contextSwitchOut (ctx : Nat)
  /-- CONTEXT_SWITCH_IN (R309). Restores a context's state from the save area and resumes its harts. -/
  | contextSwitchIn (ctx : Nat)
  /-- SLICE_EXPIRY (R300). A resident context that has used TSLICE is switched out for a waiting one. -/
  | sliceExpiry (ctx : Nat)
  /-- PAGE_WALK (R303). A TLB miss walks the four-level tables and checks each entry. -/
  | pageWalk (core : Nat) (va : Word64)
  /-- LINK_PACKET_RECEIVE (R368). A chip-to-chip packet is decrypted with its slot key or dropped and retried. -/
  | linkPacketReceive (port : Nat) (mode : Delivery) (slot : Bool) (psn : Nat) (packet : Packet)
  /-- FLIT_RECEIVE (R323). A fabric flit failing CRC is retried and delivered poisoned after 8 failures. -/
  | flitReceive (die fails key n : Nat)
  /-- LINK_KEY_ROTATION (R369). Olinath installs a new link key and switches the sender to the other slot. -/
  | linkKeyRotation (port : Nat) (key salt : Nat)
  /-- LINK_SLOT_RETIRE (R369). After 4 us with no old-slot packet the receiver empties the old slot. -/
  | linkSlotRetire (port : Nat)
  /-- PSN_LIMIT (R368). At 2^62 packets under one key the sender forces a rotation. -/
  | psnLimit (port : Nat)
  /-- CXL_PORT_DOWN (R370). A CXL port going down makes its ranges read as poison until it retrains. -/
  | cxlPortDown (port : Nat)
  /-- CXL_PORT_RETRAIN (R370). A retrained CXL port serves its ranges again. -/
  | cxlPortRetrain (port : Nat)
  /-- PATROL_SCRUB (R324). Periodic scrub reads memory sectors and bank words and handles errors found. -/
  | patrolScrub (key : Nat)
  /-- PAGE_QUARANTINE (R326). A 513th poisoned sector makes the supervisor remap the worst page to a spare. -/
  | pageQuarantine (ctrl : Nat)
  /-- SELF_TEST_START (R329). Within 50 us of a selected error the unit concerned runs its targeted test. -/
  | selfTestStart (u : TestUnit)
  /-- SELF_TEST_RESULT (R330). A completed test classifies the error and repairs or drains the unit. -/
  | selfTestResult (u : TestUnit) (pass : Bool)
  /-- SUPERVISOR_CAUSE (R331). A supervisor core handles a delivered cause by repair, reflection, emulation or abort. -/
  | supervisorCause (hart : Nat)
  /-- POWER_STATE_UPDATE (R313). Every 1 ms Olinath sets each die Normal, Low or Critical. -/
  | powerStateUpdate (die mw tj : Nat) (ph pl : Option Nat)
  /-- POWER_BUDGET_UPDATE (R346). Every 1 ms Olinath divides the module limit into die budgets. -/
  | powerBudgetUpdate (other : Nat)
  /-- CRITICAL_THROTTLE (R346). A die Critical for over 10 ms lowers voltage and clock stepwise. -/
  | criticalThrottle (die : Nat)
  /-- CRITICAL_STOP (R346). A die still Critical after 100 ms stops issue on all its presses. -/
  | criticalStop (die : Nat)
  /-- WEAR_UPDATE (R340). Every 1 ms Olinath adds each core's wear increment. -/
  | wearUpdate (pcore : Nat) (m : WearSample)
  /-- CLOCK_CHANGE (R343). A press's clock change takes effect within 20 us, with no issue meanwhile. -/
  | clockChange (press : Nat)
  /-- WEAR_RECORD_WRITE (R341). Every 10 s Olinath writes the alternate wear-record copy to flash. -/
  | wearRecordWrite
  /-- REPAIR_POINT (R345). With no context resident, a failing press is fused off and a spare mapped in. -/
  | repairPoint (press : Nat)
  /-- COLD_RESET (R348). Power-up or the reset pin resets everything except flash. -/
  | coldReset
  /-- WARM_RESET (R348). A host command or watchdog resets the compute dies and frees all contexts. -/
  | warmReset
  /-- PRESS_RESET (R348). The supervisor resets one press with no resident context. -/
  | pressReset (press : Nat)
  /-- DEBUG_UNLOCK (R371). Unlocking debug through JTAG or I3C changes measurement 7. -/
  | debugUnlock
  /-- DCMD_HALT (R372). Debug command OP 1 halts the selected harts at once. -/
  | dcmdHalt (core : Nat) (mask : BitVec 8)
  /-- DCMD_RESUME (R376). Debug command OP 2 resumes the selected halted harts. -/
  | dcmdResume (core : Nat) (mask : BitVec 8)
  /-- DCMD_STEP (R377). Debug command OP 3 issues one instruction of one halted hart. -/
  | dcmdStep (core : Nat) (mask : BitVec 8)
  /-- DCMD_HALT_ROLE (R372). Debug command OP 4 halts the harts whose ROLE is selected. -/
  | dcmdHaltRole (core : Nat) (mask : BitVec 4)
  /-- DCMD_STOP_PRESS (R374). Debug command OP 5 raises a stop trigger across the press. -/
  | dcmdStopPress (core : Nat)
  /-- DCMD_STOP_DIE (R374). Debug command OP 6 raises a stop trigger across the die. -/
  | dcmdStopDie (core : Nat)
  /-- STOP_HALT (R374). Six clocks after a stop trigger the context's harts in scope halt and record skid. -/
  | stopHalt (hart : Nat)
  /-- STEP_HALT (R377). A stepped hart halts again when its instruction retires, parks or traps. -/
  | stepHalt (hart : Nat)
  /-- ILLEGAL_INSTRUCTION (R57). A fetched word that is no instruction (reserved major, unassigned selector, nonzero unused field, 0x3F, bad literal) raises the illegal-instruction trap precisely. -/
  | illegalInstruction (w : Word32)
  /-- FETCH_FAULT (R83). A fetch of word 0 or a later word from an untranslated, non-executable, window or poisoned address traps at the target with EPC = target. -/
  | fetchFault (va : Word64) (cause : Nat)
  /-- POWER_LOSS (R347). Loss of the supply takes the device to Off, losing up to 10 s of wear and possibly skipping an XMSS index. -/
  | powerLoss (indexWritten : Bool)
  /-- RESET_COMPLETE (R348). At the end of a cold or warm reset the boot and measurement finish and Gysko commands are accepted again. -/
  | resetComplete
  /-- SESSION_FAULT (R365). A fault in a VF's secured session moves the VF from CONFIG_LOCKED or RUN to ERROR. -/
  | sessionFault (vf : Nat)
  /-- MEMORY_KEY_LOSS (R367). A controller that loses a VF's key slot through an uncorrectable error puts the VF into ERROR. -/
  | memoryKeyLoss (vf : Nat)
  /-- UNKNOWN_OP (R355). A Gysko message with an OP not in the table is refused and changes no state. -/
  | unknownOp (h : GyskoHdr) (op : BitVec 16)
deriving DecidableEq, Repr

end Sys2Proof
end

