-- ==== Sys2Proof/WellFormed.lean ====
section
/-!
DEFINITION. Which instructions the encodings of R50 to R65 admit: what an operand field of an encoding may hold
beyond its width (R53, R57, R61 to R65, R76, R77, R84, R108, R111, R112, R115, R119, R152, R158, R180 to R188, R206,
R244, R248, R249), and that an event names a unit the device has (R1, R297).
-/
namespace Sys2Proof

/-- Integer types (codes 0 to 7 of R26). -/
def ElemTy.isInt : ElemTy → Bool
  | .s8 | .z8 | .s16 | .z16 | .s32 | .z32 | .s64 | .z64 => true
  | .f8a | .f8b | .f16 | .bf16 | .f32 | .f64 | .t2 => false

/-- Floating-point types (codes 8 to 13 of R26). -/
def ElemTy.isFloat : ElemTy → Bool
  | .f8a | .f8b | .f16 | .bf16 | .f32 | .f64 => true
  | .s8 | .z8 | .s16 | .z16 | .s32 | .z32 | .s64 | .z64 | .t2 => false

/-- Types 10 to 13 (R74). -/
def ElemTy.isScalarFloat : ElemTy → Bool
  | .f16 | .bf16 | .f32 | .f64 => true
  | .s8 | .z8 | .s16 | .z16 | .s32 | .z32 | .s64 | .z64 | .f8a | .f8b | .t2 => false

/-- Types 0 to 7 and 10 to 13 (R77, R78). -/
def ElemTy.isScalar (t : ElemTy) : Bool := t.isInt || t.isScalarFloat

/-- Widths of R26. -/
def ElemTy.width : ElemTy → Nat
  | .s8 | .z8 | .f8a | .f8b => 8
  | .s16 | .z16 | .f16 | .bf16 => 16
  | .s32 | .z32 | .f32 => 32
  | .s64 | .z64 | .f64 => 64
  | .t2 => 2

/-- The control-register numbers of R20. -/
def csrMapped (n : BitVec 12) : Bool :=
  [0x000, 0x001, 0x002, 0x003, 0x004, 0x008, 0x009, 0x010, 0x011, 0x020, 0x021, 0x022, 0x023, 0x024, 0x025, 0x026,
   0x027, 0x028, 0x029, 0x02A, 0x02B, 0x040, 0x041, 0x042, 0x043, 0x050, 0x051, 0x052, 0x7B0, 0x7B1, 0xC00, 0xC01,
   0xF00, 0xF01, 0xF02, 0xF03].contains n.toNat

/-- A code offset literal (R53): bits [1:0] zero, bits [63:48] equal to bit 47. -/
def codeOffsetOk (l : Word64) : Bool :=
  l.toNat % 4 == 0 && (l.toNat / 2 ^ 47 == 0 || l.toNat / 2 ^ 47 == 2 ^ 17 - 1)

/-- The address registers and strides of `smb` with LEN 0b11 (R206). -/
def stridesOk (l : List (XReg × BitVec 16)) : Bool :=
  l.any (fun e => e.1 != 0) && l.all (fun e => e.1 != 0 || e.2 == 0) &&
    decide ((l.map Prod.fst).filter (fun r => r != 0)).Nodup

/-- RM of the extended vector arithmetic (R108): any code on floats; 0, or 1 where saturation exists, on integers. -/
def rmOk (sat : Bool) (t : ElemTy) (rm : Rm) : Bool :=
  t.isScalarFloat || rm == .rne || (sat && rm == .rtz)

/-- Types and RM of reductions and scans (R115). -/
def redOk (op : RedOp) (t : ElemTy) (rm : Rm) : Bool :=
  match op with
  | .add => t.isScalarFloat || (t.isInt && (rm == .rne || rm == .rtz))
  | .min | .max => (t.isScalarFloat && rm == .dyn) || (t.isInt && rm == .rne)
  | .and | .or | .xor => t.isInt && rm == .rne

/-- Working types of major 0x21 (R139). -/
def fnType (t : ElemTy) : Bool := t == .f32 || t == .f64

/-- Operand pairings of the accumulates (R181). -/
def mmPair (scaled : Bool) (ta tb : ElemTy) : Bool :=
  match ta, tb with
  | .t2, .s8 => !scaled
  | .s8, .s8 => true
  | .f8a, .f8a => true
  | .f8a, .f8b => true
  | .f8b, .f8a => true
  | .f8b, .f8b => true
  | .f16, .f16 => !scaled
  | .bf16, .bf16 => !scaled
  | _, _ => false

/-- Row blocks and B steps of an accumulate (R180, R181). -/
def mmRange (ta : ElemTy) (boff : BitVec 7) (nblk rowb : BitVec 2) (steps : BitVec 7) : Bool :=
  decide (rowb.toNat + nblk.toNat + 1 ≤ 4) &&
    decide (boff.toNat + (steps.toNat + 1) ≤ (if ta == .t2 then 32 else 128))

/-- Types of `mresolve` (R187). -/
def resolveType (t : ElemTy) : Bool :=
  t == .f32 || t == .f16 || t == .bf16 || t == .s32 || t == .f8a || t == .f8b

/-- Types of `mcmp` (R186). -/
def mcmpType (t : ElemTy) : Bool := t == .s32 || t == .s64 || t == .f32 || t == .f64

/-- Types of a typed drain (R188). -/
def drainType (t : ElemTy) : Bool :=
  t == .s8 || t == .z8 || t == .s16 || t == .s32 || t == .f8a || t == .f8b || t == .f16 || t == .bf16 || t == .f32

/-- The encoding rules an instruction obeys. -/
def Instr.wf : Instr → Bool
  | .add _ _ _ => true
  | .sub _ _ _ => true
  | .mul _ _ _ => true
  | .mulh _ _ _ => true
  | .mulhz _ _ _ => true
  | .div _ _ _ => true
  | .divz _ _ _ => true
  | .rem _ _ _ => true
  | .remz _ _ _ => true
  | .and _ _ _ => true
  | .or _ _ _ => true
  | .xor _ _ _ => true
  | .sll _ _ _ => true
  | .srl _ _ _ => true
  | .sra _ _ _ => true
  | .slt _ _ _ => true
  | .sltz _ _ _ => true
  | .min _ _ _ => true
  | .max _ _ _ => true
  | .minz _ _ _ => true
  | .maxz _ _ _ => true
  | .clz _ _ => true
  | .ctz _ _ => true
  | .popc _ _ => true
  | .addi _ _ _ => true
  | .addiLit _ _ _ => true
  | .andi _ _ _ => true
  | .andiLit _ _ _ => true
  | .ori _ _ _ => true
  | .oriLit _ _ _ => true
  | .xori _ _ _ => true
  | .xoriLit _ _ _ => true
  | .slli _ _ _ => true
  | .srli _ _ _ => true
  | .srai _ _ _ => true
  | .lea _ _ _ _ => true
  | .li _ _ => true
  | .liLit _ _ => true
  | .pcrel _ _ => true
  | .pcrelLit _ _ => true
  | .sfadd _ _ _ t => t.isScalarFloat
  | .sfsub _ _ _ t => t.isScalarFloat
  | .sfmul _ _ _ t => t.isScalarFloat
  | .sfdiv _ _ _ t => t.isScalarFloat
  | .sfsqrt _ _ t => t.isScalarFloat
  | .sfmin _ _ _ t => t.isScalarFloat
  | .sfmax _ _ _ t => t.isScalarFloat
  | .sfcmpEq _ _ _ t => t.isScalarFloat
  | .sfcmpLt _ _ _ t => t.isScalarFloat
  | .sfcmpLe _ _ _ t => t.isScalarFloat
  | .sfcmpUn _ _ _ t => t.isScalarFloat
  | .sfcvt _ _ s t => t.isScalar && s.isScalar
  | .sfaddExt _ _ _ t _ => t.isScalarFloat
  | .sfsubExt _ _ _ t _ => t.isScalarFloat
  | .sfmulExt _ _ _ t _ => t.isScalarFloat
  | .sfdivExt _ _ _ t _ => t.isScalarFloat
  | .sfsqrtExt _ _ t _ => t.isScalarFloat
  | .sfminExt _ _ _ t _ => t.isScalarFloat
  | .sfmaxExt _ _ _ t _ => t.isScalarFloat
  | .sfcmpEqExt _ _ _ t _ => t.isScalarFloat
  | .sfcmpLtExt _ _ _ t _ => t.isScalarFloat
  | .sfcmpLeExt _ _ _ t _ => t.isScalarFloat
  | .sfcmpUnExt _ _ _ t _ => t.isScalarFloat
  | .sfcvtExt _ _ t tb _ => t.isScalar && tb.isScalar
  | .sffma _ _ _ _ t _ => t.isScalarFloat
  | .beq _ _ _ => true
  | .bne _ _ _ => true
  | .blt _ _ _ => true
  | .bge _ _ _ => true
  | .blo _ _ _ => true
  | .bhs _ _ _ => true
  | .beqLit _ _ lit => codeOffsetOk lit
  | .bneLit _ _ lit => codeOffsetOk lit
  | .bltLit _ _ lit => codeOffsetOk lit
  | .bgeLit _ _ lit => codeOffsetOk lit
  | .bloLit _ _ lit => codeOffsetOk lit
  | .bhsLit _ _ lit => codeOffsetOk lit
  | .jal _ _ => true
  | .jalLit _ lit => codeOffsetOk lit
  | .jalr _ _ _ => true
  | .loop _ b i => decide (2 ≤ i.toInt) && b != 0
  | .loopLit _ i _ => decide (4 ≤ i.toInt)
  | .smb _ => true
  | .smbStrides _ r0 r1 r2 r3 s0 s1 s2 s3 => stridesOk [(r0, s0), (r1, s1), (r2, s2), (r3, s3)]
  | .csrr _ n => csrMapped n
  | .csrw _ n => csrMapped n
  | .csrs _ n => csrMapped n
  | .csrc _ n => csrMapped n
  | .vlWrite _ _ => true
  | .vremWrite _ _ => true
  | .vpolWrite _ _ => true
  | .frmWrite _ _ => true
  | .fflagsWrite _ _ => true
  | .awinWrite _ _ => true
  | .lcWrite _ _ _ => true
  | .lsLeWrite _ _ _ _ => true
  | .wboundWrite _ _ => true
  | .registerWrite _ _ _ => true
  | .nop => true
  | .tret => true
  | .brk => true
  | .halt => true
  | .fenceSv _ => true
  | .fenceVs _ => true
  | .fenceVv _ => true
  | .fenceAll _ => true
  | .flush _ _ => true
  | .trap i => !i.msb
  | .ld _ _ t _ => t.isScalar
  | .ldLit _ _ t _ => t.isScalar
  | .ldIndexed _ _ _ t _ => t.isScalar
  | .st _ _ _ _ => true
  | .stLit _ _ _ _ => true
  | .stIndexed _ _ _ _ _ => true
  | .ldAcq _ _ _ _ => true
  | .stRel _ _ _ _ => true
  | .amoAdd _ _ _ _ _ => true
  | .amoMin _ _ _ _ _ _ => true
  | .amoMax _ _ _ _ _ _ => true
  | .amoAnd _ _ _ _ _ => true
  | .amoOr _ _ _ _ _ => true
  | .amoXor _ _ _ _ _ => true
  | .amoSwap _ _ _ _ _ => true
  | .amoCas _ _ _ _ _ _ => true
  | .redAdd _ _ _ _ => true
  | .redMin _ _ _ _ _ => true
  | .redMax _ _ _ _ _ => true
  | .redAnd _ _ _ _ => true
  | .redOr _ _ _ _ => true
  | .redXor _ _ _ _ => true
  | .vaddF32 _ _ _ _ => true
  | .vsubF32 _ _ _ _ => true
  | .vmulF32 _ _ _ _ => true
  | .vfmaF32 _ _ _ _ => true
  | .vdivF32 _ _ _ _ => true
  | .vsqrtF32 _ _ _ => true
  | .vrsqrtF32 _ _ _ => true
  | .vrcpF32 _ _ _ => true
  | .vexp2F32 _ _ _ => true
  | .vlog2F32 _ _ _ => true
  | .vminF32 _ _ _ _ => true
  | .vmaxF32 _ _ _ _ => true
  | .vabsF32 _ _ _ => true
  | .vnegF32 _ _ _ => true
  | .vaddF64 _ _ _ _ => true
  | .vsubF64 _ _ _ _ => true
  | .vmulF64 _ _ _ _ => true
  | .vfmaF64 _ _ _ _ => true
  | .vdivF64 _ _ _ _ => true
  | .vsqrtF64 _ _ _ => true
  | .vrsqrtF64 _ _ _ => true
  | .vrcpF64 _ _ _ => true
  | .vexp2F64 _ _ _ => true
  | .vlog2F64 _ _ _ => true
  | .vminF64 _ _ _ _ => true
  | .vmaxF64 _ _ _ _ => true
  | .vabsF64 _ _ _ => true
  | .vnegF64 _ _ _ => true
  | .vaddS32 _ _ _ _ => true
  | .vsubS32 _ _ _ _ => true
  | .vmulS32 _ _ _ _ => true
  | .vfmaS32 _ _ _ _ => true
  | .vminS32 _ _ _ _ => true
  | .vmaxS32 _ _ _ _ => true
  | .vabsS32 _ _ _ => true
  | .vnegS32 _ _ _ => true
  | .vandS32 _ _ _ _ => true
  | .vorS32 _ _ _ _ => true
  | .vxorS32 _ _ _ _ => true
  | .vshlS32 _ _ _ _ => true
  | .vshrS32 _ _ _ _ => true
  | .vsraS32 _ _ _ _ => true
  | .vaddExt _ _ _ t rm _ => t.isScalar && rmOk true t rm
  | .vsubExt _ _ _ t rm _ => t.isScalar && rmOk true t rm
  | .vmulExt _ _ _ t rm _ => t.isScalar && rmOk true t rm
  | .vfmaExt _ _ _ _ t rm _ => t.isScalar && rmOk true t rm
  | .vdivExt _ _ _ t _ _ => t.isScalarFloat
  | .vsqrtExt _ _ t _ _ => t.isScalarFloat
  | .vrsqrtExt _ _ t _ _ => t.isScalarFloat
  | .vrcpExt _ _ t _ _ => t.isScalarFloat
  | .vexp2Ext _ _ t _ _ => t.isScalarFloat
  | .vlog2Ext _ _ t _ _ => t.isScalarFloat
  | .vminExt _ _ _ t rm _ => t.isScalar && rmOk false t rm
  | .vmaxExt _ _ _ t rm _ => t.isScalar && rmOk false t rm
  | .vabsExt _ _ t rm _ => t.isScalar && rmOk true t rm
  | .vnegExt _ _ t rm _ => t.isScalar && rmOk true t rm
  | .vandExt _ _ _ t rm _ => t.isInt && rmOk false t rm
  | .vorExt _ _ _ t rm _ => t.isInt && rmOk false t rm
  | .vxorExt _ _ _ t rm _ => t.isInt && rmOk false t rm
  | .vshlExt _ _ _ t rm _ => t.isInt && rmOk true t rm
  | .vshrExt _ _ _ t rm _ => t.isInt && rmOk false t rm
  | .vsraExt _ _ _ t rm _ => t.isInt && rmOk false t rm
  | .vcvt _ _ t _ _ _ => t != .t2
  | .vcmp _ _ _ _ x k => x != .un || k.toNat < 2
  | .vcmpExt _ _ _ x t _ => t.isScalar && (x != .un || t.isScalarFloat)
  | .vsel _ _ _ _ => true
  | .vmov _ _ _ => true
  | .vbcast _ _ _ => true
  | .vext _ _ _ => true
  | .vid _ _ => true
  | .vred op _ _ t rm _ => redOk op t rm
  | .vsred op _ _ _ t rm _ => redOk op t rm
  | .vscan op _ _ _ t rm _ => redOk op t rm
  | .vsscan op _ _ _ _ t rm _ => redOk op t rm
  | .vcompress _ _ _ => true
  | .vexpand _ _ _ => true
  | .vperm _ _ _ _ => true
  | .vslide _ _ _ _ => true
  | .vpass _ _ _ _ => true
  | .vrand _ _ _ _ => true
  | .pand _ _ _ => true
  | .por _ _ _ => true
  | .pxor _ _ _ => true
  | .pnot _ _ => true
  | .pset _ _ => true
  | .pfirst _ _ => true
  | .ppop _ _ => true
  | .vld _ _ _ _ => true
  | .vlds _ _ _ _ _ => true
  | .vst _ _ _ _ => true
  | .vsts _ _ _ _ _ => true
  | .vldOff _ _ _ _ _ => true
  | .vldsOff _ _ _ _ _ _ => true
  | .vstOff _ _ _ _ _ => true
  | .vstsOff _ _ _ _ _ _ => true
  | .vldg a _ _ _ n => n != 0 && decide (a.toNat + n.toNat ≤ 31)
  | .vstg a _ _ _ n => n != 0 && decide (a.toNat + n.toNat ≤ 31)
  | .vldx _ _ _ _ _ => true
  | .vstx _ _ _ _ _ => true
  | .fset _ _ => true
  | .fget _ _ => true
  | .fadd _ _ _ _ => true
  | .fsub _ _ _ _ => true
  | .fmul _ _ _ _ => true
  | .fscale _ _ _ _ => true
  | .fdot _ _ _ _ => true
  | .fnorm _ _ _ => true
  | .fdiff _ _ axis t _ _ => fnType t && axis != 3
  | .fint _ _ t _ _ => fnType t
  | .fanti _ _ axis t _ _ => fnType t && axis != 3
  | .fproj _ _ _ t _ _ => fnType t
  | .fraise _ _ _ t _ _ => fnType t
  | .fcvt _ _ _ t _ _ => fnType t
  | .ftrace _ _ face _ t _ _ => fnType t && decide (face.toNat < 6)
  | .feval _ _ _ _ t _ _ => fnType t
  | .fld _ _ _ => true
  | .fst _ _ _ => true
  | .mattach _ _ _ => true
  | .mdetach => true
  | .mzero _ => true
  | .mldb _ _ _ _ _ => true
  | .msign a _ _ => a != 15
  | .msave _ _ => true
  | .mrest _ _ => true
  | .mmacc _ _ _ t tb boff nblk rowb steps => mmPair false t tb && mmRange t boff nblk rowb steps
  | .msmacc _ _ _ t tb boff nblk rowb steps => mmPair true t tb && mmRange t boff nblk rowb steps && boff.toNat % 4 == 0 && (steps.toNat + 1) % 4 == 0
  | .mresolve _ t _ _ _ => resolveType t
  | .mcmp _ _ _ t x _ => mcmpType t && (x != .un || t.isScalarFloat)
  | .mdrain _ _ _ t _ _ sat pack layout _ _ => drainType t && (!pack || decide (t.width ≤ 16)) && (!sat || t.isFloat) && layout != 3
  | .mdrainRaw _ _ _ _ _ => true
  | .mdrainp _ _ _ _ _ => true
  | .matrixCommandStart core => decide (core < 512)
  | .tileArrival hart => decide (hart < 4096)
  | .cpCopy _ _ => true
  | .cpGather _ _ => true
  | .cpDec _ _ => true
  | .swInit _ _ => true
  | .swWait _ _ _ => true
  | .eqPush _ _ => true
  | .eqPop _ _ _ => true
  | .engineFifoAdmit hart => decide (hart < 4096)
  | .engineCommandStart core eng _ => decide (core < 512) && decide (eng < 2)
  | .commandComplete core eng _ => decide (core < 512) && decide (eng < 2)
  | .decodeChunkRelease core _ => decide (core < 512)
  | .completionRecordPlace core eng _ => decide (core < 512) && decide (eng < 2)
  | .syncWaitWake hart => decide (hart < 4096)
  | .syncWaitTimeout hart => decide (hart < 4096)
  | .eqPopRecord hart => decide (hart < 4096)
  | .eqPopTimeout hart => decide (hart < 4096)
  | .bar _ _ l => l != 3
  | .barArrive _ _ l => l != 3
  | .barWait _ l => l != 3
  | .barrierRelease hart => decide (hart < 4096)
  | .futPut _ _ _ => true
  | .futGet _ _ => true
  | .futureFillWake hart => decide (hart < 4096)
  | .futureWaitTimeout hart => decide (hart < 4096)
  | .qpush _ _ => true
  | .qpop _ _ => true
  | .queueWaitAdmit hart => decide (hart < 4096)
  | .queueWaitTimeout hart => decide (hart < 4096)
  | .vwait _ _ _ _ => true
  | .vwaitWake hart => decide (hart < 4096)
  | .waitm _ _ _ _ t _ => t == .z32 || t == .z64
  | .monitorWake hart => decide (hart < 4096)
  | .waitmTimeout hart => decide (hart < 4096)
  | .lease _ _ _ => true
  | .arbiterServe core => decide (core < 512)
  | .leaseWaitGrant hart => decide (hart < 4096)
  | .farm _ _ => true
  | .wpush _ _ _ => true
  | .wpop _ _ => true
  | .wprio _ _ _ => true
  | .yield _ => true
  | .commit => true
  | .tend => true
  | .wterm _ _ => true
  | .wpopWaitSelect hart => decide (hart < 4096)
  | .wpopWaitExpiry hart => decide (hart < 4096)
  | .wtermConfirm hart => decide (hart < 4096)
  | .wtermWaitExpiry hart => decide (hart < 4096)
  | .frameHeaderRead ctx die bin _ => decide (ctx < 64) && decide (die < 4) && decide (bin < 256)
  | .spillRefill ctx die bin => decide (ctx < 64) && decide (die < 4) && decide (bin < 256)
  | .parkFloorTimeout hart => decide (hart < 4096)
  | .rackRequest ctx die => decide (ctx < 64) && decide (die < 4)
  | .rackArrival ctx die => decide (ctx < 64) && decide (die < 4)
  | .deviceRack ctx _ _ => decide (ctx < 64)
  | .preemption hart => decide (hart < 4096)
  | .commitWindowExpiry hart => decide (hart < 4096)
  | .terminationWave ctx => decide (ctx < 64)
  | .launchComplete ctx => decide (ctx < 64)
  | .launch _ r => decide (r.ctx < 64)
  | .ctxcfg _ ctx _ => decide (ctx < 64)
  | .ctxrel _ ctx => decide (ctx < 64)
  | .switch _ ctx => decide (ctx < 64)
  | .inval _ ctx _ _ => decide (ctx < 64)
  | .query _ ctx => decide (ctx < 64)
  | .write _ ctx _ _ => decide (ctx < 64)
  | .read _ ctx _ _ => decide (ctx < 64)
  | .cellarld _ ctx _ _ _ => decide (ctx < 64)
  | .hwrite _ _ _ => true
  | .hread _ _ _ => true
  | .summary _ => true
  | .flr _ => true
  | .assign _ _ _ => true
  | .power _ _ _ => true
  | .fwupdate _ _ _ _ _ _ => true
  | .spdm _ _ => true
  | .getVersion q => decide (q.ses < 17)
  | .getCapabilities q => decide (q.ses < 17)
  | .negotiateAlgorithms q _ _ _ _ => decide (q.ses < 17)
  | .getDigests q => decide (q.ses < 17)
  | .getCertificate q _ _ => decide (q.ses < 17)
  | .challenge q _ => decide (q.ses < 17)
  | .getMeasurements q _ _ _ => decide (q.ses < 17)
  | .keyExchange q _ => decide (q.ses < 17)
  | .finish q _ => decide (q.ses < 17)
  | .heartbeat q => decide (q.ses < 17)
  | .keyUpdate q => decide (q.ses < 17)
  | .endSession q => decide (q.ses < 17)
  | .vendorDefinedRequest q _ => decide (q.ses < 17)
  | .memoryKeyInstall q vf _ => decide (q.ses < 17) && decide (vf < 16)
  | .getTdispVersion q vf => decide (q.ses < 17) && decide (vf < 16)
  | .getTdispCapabilities q vf => decide (q.ses < 17) && decide (vf < 16)
  | .lockInterfaceRequest q vf => decide (q.ses < 17) && decide (vf < 16)
  | .getDeviceInterfaceReport q vf => decide (q.ses < 17) && decide (vf < 16)
  | .getDeviceInterfaceState q vf => decide (q.ses < 17) && decide (vf < 16)
  | .startInterfaceRequest q vf _ => decide (q.ses < 17) && decide (vf < 16)
  | .stopInterfaceRequest q vf => decide (q.ses < 17) && decide (vf < 16)
  | .tdispUnsupportedMessage q vf _ => decide (q.ses < 17) && decide (vf < 16)
  | .contextSwitchOut ctx => decide (ctx < 64)
  | .contextSwitchIn ctx => decide (ctx < 64)
  | .sliceExpiry ctx => decide (ctx < 64)
  | .pageWalk core _ => decide (core < 512)
  | .linkPacketReceive port _ _ psn packet => decide (port < 8) && decide (psn < 2 ^ 64) && decide (packet.tag < 2 ^ 128)
  | .flitReceive die _ _ _ => decide (die < 4)
  | .linkKeyRotation port key salt => decide (port < 8) && decide (key < 2 ^ 256) && decide (salt < 2 ^ 32)
  | .linkSlotRetire port => decide (port < 8)
  | .psnLimit port => decide (port < 8)
  | .cxlPortDown port => decide (port < 2)
  | .cxlPortRetrain port => decide (port < 2)
  | .patrolScrub _ => true
  | .pageQuarantine ctrl => decide (ctrl < 34)
  | .selfTestStart _ => true
  | .selfTestResult _ _ => true
  | .supervisorCause hart => decide (hart < 4096)
  | .powerStateUpdate die _ _ _ _ => decide (die < 4)
  | .powerBudgetUpdate _ => true
  | .criticalThrottle die => decide (die < 4)
  | .criticalStop die => decide (die < 4)
  | .wearUpdate pcore m => decide (pcore < 544) && decide (m.act ≤ m.of ∧ 0 < m.of)
  | .clockChange press => decide (press < 128)
  | .wearRecordWrite => true
  | .repairPoint press => decide (press < 128)
  | .coldReset => true
  | .warmReset => true
  | .pressReset press => decide (press < 128)
  | .debugUnlock => true
  | .dcmdHalt core _ => decide (core < 512)
  | .dcmdResume core _ => decide (core < 512)
  | .dcmdStep core _ => decide (core < 512)
  | .dcmdHaltRole core _ => decide (core < 512)
  | .dcmdStopPress core => decide (core < 512)
  | .dcmdStopDie core => decide (core < 512)
  | .stopHalt hart => decide (hart < 4096)
  | .stepHalt hart => decide (hart < 4096)
  | .illegalInstruction _ => true
  | .fetchFault _ cause => (cause == 4 || cause == 5 || cause == 10)
  | .powerLoss _ => true
  | .resetComplete => true
  | .sessionFault vf => decide (vf < 16)
  | .memoryKeyLoss vf => decide (vf < 16)
  | .unknownOp _ _ => true

end Sys2Proof
end

