-- ==== Sys2Proof/Machine/Flags.lean ====
section
/-!
DEFINITION. The number formats of R26 to R31, `Round` and `Sat` (R27, R33, R35) and the floating-point flags each result
sets (R37). A real value is held exactly, as a signed integer times a power of two, with a sticky mark when the value
lies strictly above the magnitude held by less than one unit of it.
-/
namespace Sys2Proof.Machine

/-- Flag bits as `FFLAGS` places them (R21): NX 0, UF 1, OF 2, DZ 3, NV 4, IW 5. -/
abbrev FpFlags := BitVec 6

def flNone : FpFlags := 0
def flNX : FpFlags := 0b000001
def flUF : FpFlags := 0b000010
def flOF : FpFlags := 0b000100
def flDZ : FpFlags := 0b001000
def flNV : FpFlags := 0b010000
def flIW : FpFlags := 0b100000

/-- A floating-point operand: NaN (signalling or not), infinity, or (−1)^neg × m × 2^e. -/
inductive Num where
  | nan (sig : Bool)
  | inf (neg : Bool)
  | fin (neg : Bool) (m : Nat) (e : Int)
deriving DecidableEq, Repr

/-- A result: its bits and the flags it sets. -/
abbrev FpRes := Nat × FpFlags

/-- Trailing mantissa bits (R29). -/
def mantBits : ElemTy → Nat
  | .f8a => 3
  | .f8b => 2
  | .f16 => 10
  | .bf16 => 7
  | .f32 => 23
  | .f64 => 52
  | .s8 | .z8 | .s16 | .z16 | .s32 | .z32 | .s64 | .z64 | .t2 => 0

/-- Exponent bits (R29). -/
def expBits (t : ElemTy) : Nat := t.width - 1 - mantBits t

/-- Bias (R29). -/
def bias (t : ElemTy) : Nat := 2 ^ (expBits t - 1) - 1

/-- The all-ones exponent field (R29). -/
def expMax (t : ElemTy) : Nat := 2 ^ expBits t - 1

/-- Bits of infinity. -/
def infBits (t : ElemTy) (neg : Bool) : Nat :=
  (if neg then 2 ^ (t.width - 1) else 0) + expMax t * 2 ^ mantBits t

/-- Bits of the largest finite value (R30). -/
def maxFiniteBits (t : ElemTy) (neg : Bool) : Nat := infBits t neg - 1

/-- Bits of a zero. -/
def zeroBits (t : ElemTy) (neg : Bool) : Nat := if neg then 2 ^ (t.width - 1) else 0

/-- The canonical NaN (R30): sign 0, quiet bit 1, all other mantissa bits 0. -/
def canon (t : ElemTy) : Nat := expMax t * 2 ^ mantBits t + 2 ^ (mantBits t - 1)

/-- The value of a bit pattern (R29); bits above the width are ignored. -/
def numOf (t : ElemTy) (bits : Nat) : Num :=
  let neg := bits / 2 ^ (t.width - 1) % 2 == 1
  let ex := bits / 2 ^ mantBits t % 2 ^ expBits t
  let m := bits % 2 ^ mantBits t
  if ex = expMax t then
    if m = 0 then .inf neg else .nan (m / 2 ^ (mantBits t - 1) % 2 == 0)
  else if ex = 0 then .fin neg m (1 - (bias t : Int) - (mantBits t : Int))
  else .fin neg (m + 2 ^ mantBits t) ((ex : Int) - (bias t : Int) - (mantBits t : Int))

/-- A subnormal operand read as a zero of its sign (R35). -/
def flushIn (ftz : Bool) (t : ElemTy) (bits : Nat) : Nat :=
  if ftz && (bits / 2 ^ mantBits t % 2 ^ expBits t == 0) then zeroBits t (bits / 2 ^ (t.width - 1) % 2 == 1) else bits

/-- The operand an instruction reads under `FRM.FTZ` (R35). -/
def numIn (ftz : Bool) (t : ElemTy) (bits : Nat) : Num := numOf t (flushIn ftz t bits)

/-- Bits of `n`: position of its highest one, plus 1. -/
def bitLen (n : Nat) : Nat := if n = 0 then 0 else n.log2 + 1

/-- Whether a magnitude with remainder `r` of `2^sh` (and a sticky part) rounds away from zero (R32). -/
def roundsUp (mode : Rm) (neg odd : Bool) (r sh : Nat) (sticky : Bool) : Bool :=
  let inexact := r != 0 || sticky
  let half := 2 ^ (sh - 1)
  match mode with
  | .rtz => false
  | .rdn => neg && inexact
  | .rup => !neg && inexact
  | .rna => sh != 0 && decide (half ≤ r)
  | .rne | .dyn => sh != 0 && (decide (half < r) || (r == half && (sticky || odd)))

/-- What an overflow gives (R33). -/
def overflowBits (mode : Rm) (t : ElemTy) (neg : Bool) : Nat :=
  match mode with
  | .rne | .rna | .dyn => infBits t neg
  | .rtz => maxFiniteBits t neg
  | .rdn => if neg then infBits t neg else maxFiniteBits t neg
  | .rup => if neg then maxFiniteBits t neg else infBits t neg

/-- `Round` of ±(m + sticky) × 2^e, m ≠ 0 (R33), with the flush of R35. A caller that passes a sticky part passes a
magnitude with at least two bits more than the type's precision. -/
def roundMag (mode : Rm) (ftz : Bool) (t : ElemTy) (neg : Bool) (m : Nat) (e : Int) (sticky : Bool) : FpRes :=
  let mb := mantBits t
  let qmin : Int := 1 - (bias t : Int) - (mb : Int)
  let q : Int := max (e + (bitLen m : Int) - ((mb : Int) + 1)) qmin
  let sh : Int := q - e
  let mant := if sh ≤ 0 then m * 2 ^ (-sh).toNat else m / 2 ^ sh.toNat
  let r := if sh ≤ 0 then 0 else m % 2 ^ sh.toNat
  let inexact := r != 0 || sticky
  let mant1 := if roundsUp mode neg (mant % 2 == 1) r sh.toNat sticky then mant + 1 else mant
  let carry := decide (2 ^ (mb + 1) ≤ mant1)
  let mant2 := if carry then mant1 / 2 else mant1
  let q2 : Int := if carry then q + 1 else q
  let sgn := zeroBits t neg
  if mant2 < 2 ^ mb then
    if ftz && mant2 != 0 then (sgn, flUF ||| flNX)
    else (sgn + mant2, if inexact then flUF ||| flNX else flNone)
  else
    let ex : Int := q2 + (mb : Int) + (bias t : Int)
    if (expMax t : Int) ≤ ex then (overflowBits mode t neg, flOF ||| flNX)
    else (sgn + ex.toNat * 2 ^ mb + (mant2 - 2 ^ mb), if inexact then flNX else flNone)

/-- `Round` of an exact number (R33); a zero keeps its sign. -/
def roundNum (mode : Rm) (ftz : Bool) (t : ElemTy) (x : Num) : FpRes :=
  match x with
  | .nan sig => (canon t, if sig then flNV else flNone)
  | .inf neg => (infBits t neg, flNone)
  | .fin neg m e => if m = 0 then (zeroBits t neg, flNone) else roundMag mode ftz t neg m e false

/-- The mode a rounding field gives: dynamic takes `FRM.RM` (R32), which never holds 5, 6 or 7 (R21). -/
def modeOf (rm : Rm) (frm : BitVec 3) : Rm :=
  match rm with
  | .dyn =>
    match frm.toNat with
    | 1 => .rtz
    | 2 => .rdn
    | 3 => .rup
    | 4 => .rna
    | _ => .rne
  | m => m

/-- Least value of an integer type (R27). -/
def intMin : ElemTy → Int
  | .s8 => -(2 ^ 7)
  | .s16 => -(2 ^ 15)
  | .s32 => -(2 ^ 31)
  | .s64 => -(2 ^ 63)
  | .z8 | .z16 | .z32 | .z64 | .f8a | .f8b | .f16 | .bf16 | .f32 | .f64 | .t2 => 0

/-- Greatest value of an integer type (R27). -/
def intMax : ElemTy → Int
  | .s8 => 2 ^ 7 - 1
  | .s16 => 2 ^ 15 - 1
  | .s32 => 2 ^ 31 - 1
  | .s64 => 2 ^ 63 - 1
  | .z8 => 2 ^ 8 - 1
  | .z16 => 2 ^ 16 - 1
  | .z32 => 2 ^ 32 - 1
  | .z64 => 2 ^ 64 - 1
  | .f8a | .f8b | .f16 | .bf16 | .f32 | .f64 | .t2 => 0

/-- Whether an integer type is signed. -/
def elemSigned : ElemTy → Bool
  | .s8 | .s16 | .s32 | .s64 => true
  | .z8 | .z16 | .z32 | .z64 | .f8a | .f8b | .f16 | .bf16 | .f32 | .f64 | .t2 => false

/-- `Sat(x, t)` (R27). -/
def satInt (x : Int) (t : ElemTy) : Int :=
  if x < intMin t then intMin t else if intMax t < x then intMax t else x

/-- The integer a bit pattern of an integer type holds (R27); bits above the width are ignored. -/
def intOf (t : ElemTy) (bits : Nat) : Int :=
  let b := bits % 2 ^ t.width
  if elemSigned t && decide (2 ^ (t.width - 1) ≤ b) then (b : Int) - 2 ^ t.width else b

/-- The N-bit pattern of an integer, modulo 2^N. -/
def intBits (t : ElemTy) (x : Int) : Nat := (x % 2 ^ t.width).toNat

/-- The value of a t2 code and its flag (R28). -/
def t2Value (c : Nat) : Int × FpFlags :=
  match c % 4 with
  | 1 => (1, flNone)
  | 3 => (-1, flNone)
  | 2 => (0, flIW)
  | _ => (0, flNone)

end Sys2Proof.Machine
end

