-- ==== Sys2Proof/Machine/FloatOps.lean ====
section
/-!
DEFINITION. The arithmetic of floating-point values (R33, R34, R36, R75, R109) and conversions, as scalar and vector
instructions share it. Every function takes the rounding mode and the flush of R35 and gives bits and flags.
-/
namespace Sys2Proof.Machine

def Num.isNan : Num → Bool
  | .nan _ => true
  | .inf _ | .fin _ _ _ => false

def Num.isSig : Num → Bool
  | .nan s => s
  | .inf _ | .fin _ _ _ => false

def Num.isZero : Num → Bool
  | .fin _ m _ => m == 0
  | .inf _ | .nan _ => false

def Num.isNeg : Num → Bool
  | .fin n _ _ => n
  | .inf n => n
  | .nan _ => false

/-- NV when an operand is a signalling NaN (R31). -/
def sigFlags (l : List Num) : FpFlags := if l.any Num.isSig then flNV else flNone

/-- The signed integer of a finite number at the common exponent `e0 ≤ e`. -/
def alignInt (neg : Bool) (m : Nat) (e e0 : Int) : Int :=
  let a : Int := (m * 2 ^ (e - e0).toNat : Nat)
  if neg then -a else a

/-- Round of an exact sum of two finite numbers: an exact zero of opposite-signed operands is +0, or −0 toward −∞; two
zeros of one sign keep it (R33). -/
def roundSum (mode : Rm) (ftz : Bool) (t : ElemTy) (n1 : Bool) (m1 : Nat) (e1 : Int) (n2 : Bool) (m2 : Nat) (e2 : Int) :
    FpRes :=
  let e0 := min e1 e2
  let s := alignInt n1 m1 e1 e0 + alignInt n2 m2 e2 e0
  if s = 0 then
    let neg := if n1 == n2 then n1 else decide (mode = .rdn)
    (zeroBits t neg, flNone)
  else roundMag mode ftz t (decide (s < 0)) s.natAbs e0 false

/-- Addition (R109). -/
def fpAdd (mode : Rm) (ftz : Bool) (t : ElemTy) (a b : Num) : FpRes :=
  match a, b with
  | .fin n1 m1 e1, .fin n2 m2 e2 => roundSum mode ftz t n1 m1 e1 n2 m2 e2
  | .nan _, _ => (canon t, sigFlags [a, b])
  | _, .nan _ => (canon t, sigFlags [a, b])
  | .inf n1, .inf n2 => if n1 == n2 then (infBits t n1, flNone) else (canon t, flNV)
  | .inf n, _ => (infBits t n, flNone)
  | _, .inf n => (infBits t n, flNone)

/-- The number with its sign flipped. -/
def Num.negate : Num → Num
  | .fin n m e => .fin (!n) m e
  | .inf n => .inf (!n)
  | .nan s => .nan s

def fpSub (mode : Rm) (ftz : Bool) (t : ElemTy) (a b : Num) : FpRes := fpAdd mode ftz t a b.negate

/-- The exact product; `none` for 0 × ∞. Neither operand is a NaN. -/
def mulExact (a b : Num) : Option Num :=
  match a, b with
  | .fin n1 m1 e1, .fin n2 m2 e2 => some (.fin (n1 != n2) (m1 * m2) (e1 + e2))
  | .inf n1, .inf n2 => some (.inf (n1 != n2))
  | .inf n1, .fin n2 m2 _ => if m2 = 0 then none else some (.inf (n1 != n2))
  | .fin n1 m1 _, .inf n2 => if m1 = 0 then none else some (.inf (n1 != n2))
  | .nan s, _ => some (.nan s)
  | _, .nan s => some (.nan s)

/-- Multiplication (R109). -/
def fpMul (mode : Rm) (ftz : Bool) (t : ElemTy) (a b : Num) : FpRes :=
  if a.isNan || b.isNan then (canon t, sigFlags [a, b])
  else
    match mulExact a b with
    | some p => roundNum mode ftz t p
    | none => (canon t, flNV)

/-- Fused multiply-add (R34): 0 × ∞ sets NV with any addend. -/
def fpFma (mode : Rm) (ftz : Bool) (t : ElemTy) (a b c : Num) : FpRes :=
  if a.isNan || b.isNan then (canon t, sigFlags [a, b, c])
  else
    match mulExact a b with
    | none => (canon t, flNV)
    | some p => fpAdd mode ftz t p c

/-- Division (R75, R109). -/
def fpDiv (mode : Rm) (ftz : Bool) (t : ElemTy) (a b : Num) : FpRes :=
  match a, b with
  | .nan _, _ => (canon t, sigFlags [a, b])
  | _, .nan _ => (canon t, sigFlags [a, b])
  | .inf _, .inf _ => (canon t, flNV)
  | .inf n1, .fin n2 _ _ => (infBits t (n1 != n2), flNone)
  | .fin n1 _ _, .inf n2 => (zeroBits t (n1 != n2), flNone)
  | .fin n1 m1 e1, .fin n2 m2 e2 =>
    if m2 = 0 then (if m1 = 0 then (canon t, flNV) else (infBits t (n1 != n2), flDZ))
    else if m1 = 0 then (zeroBits t (n1 != n2), flNone)
    else
      let k := bitLen m2 + 64
      roundMag mode ftz t (n1 != n2) (m1 * 2 ^ k / m2) (e1 - e2 - (k : Int)) (m1 * 2 ^ k % m2 != 0)

/-- Integer square root by bits: the greatest r + (bits below 2^k) whose square does not exceed n. -/
def isqrtFrom (n : Nat) : Nat → Nat → Nat
  | 0, r => r
  | k + 1, r => if (r + 2 ^ k) * (r + 2 ^ k) ≤ n then isqrtFrom n k (r + 2 ^ k) else isqrtFrom n k r

def isqrt (n : Nat) : Nat := isqrtFrom n (bitLen n / 2 + 1) 0

/-- Square root (R75, R109): √−0 = −0, below −0 is `Canon` with NV. -/
def fpSqrt (mode : Rm) (ftz : Bool) (t : ElemTy) (a : Num) : FpRes :=
  match a with
  | .nan s => (canon t, if s then flNV else flNone)
  | .inf neg => if neg then (canon t, flNV) else (infBits t false, flNone)
  | .fin neg m e =>
    if m = 0 then (zeroBits t neg, flNone)
    else if neg then (canon t, flNV)
    else
      let odd := e % 2 == 1
      let m1 := (if odd then m * 2 else m) * 2 ^ 128
      let e1 := (if odd then e - 1 else e) / 2 - 64
      let r := isqrt m1
      roundMag mode ftz t false r e1 (r * r != m1)

/-- Reciprocal (R109): ±0 gives ±∞ with DZ. -/
def fpRcp (mode : Rm) (ftz : Bool) (t : ElemTy) (a : Num) : FpRes :=
  fpDiv mode ftz t (.fin false 1 0) a

/-- Reciprocal square root (R109), from ⌊2^K / √m⌋ with a sticky remainder. -/
def fpRsqrt (mode : Rm) (ftz : Bool) (t : ElemTy) (a : Num) : FpRes :=
  match a with
  | .nan s => (canon t, if s then flNV else flNone)
  | .inf neg => if neg then (canon t, flNV) else (zeroBits t false, flNone)
  | .fin neg m e =>
    if m = 0 then (infBits t neg, flDZ)
    else if neg then (canon t, flNV)
    else
      let odd := e % 2 == 1
      let m1 := if odd then m * 2 else m
      let h := (if odd then e - 1 else e) / 2
      let k := bitLen m1 + 80
      let r := isqrt (2 ^ (2 * k) / m1)
      roundMag mode ftz t false r (-h - (k : Int)) (r * r * m1 != 2 ^ (2 * k))

/-- Fixed-point precision of the transcendental functions (log entry 8). -/
def fixBits : Nat := 320

/-- ⌊2^P × ln 2⌋ from Σ 1/(k 2^k), each term truncated. -/
def ln2From (p : Nat) : Nat → Nat → Nat
  | 0, _ => 0
  | n + 1, k => 2 ^ p / (k * 2 ^ k) + ln2From p n (k + 1)

def ln2Fix (p : Nat) : Nat := ln2From (p + 32) (p + 32) 1 / 2 ^ 32

/-- Σ y^k / k! in fixed point, each term truncated. -/
def expFrom (p y : Nat) : Nat → Nat → Nat → Nat
  | 0, _, _ => 0
  | n + 1, k, term => term + expFrom p y n (k + 1) (term * y / 2 ^ p / (k + 1))

/-- ⌊2^P × 2^f⌋ or a few units less, for f = y / 2^P in [0, 1). -/
def exp2Fix (p f : Nat) : Nat := expFrom p (f * ln2Fix p / 2 ^ p) 100 0 (2 ^ p)

/-- Power of two (R109). The result is exact at every integer; elsewhere it is irrational and rounded from a
fixed-point lower bound with a sticky part (log entry 8). -/
def fpExp2 (mode : Rm) (ftz : Bool) (t : ElemTy) (a : Num) : FpRes :=
  match a with
  | .nan s => (canon t, if s then flNV else flNone)
  | .inf neg => if neg then (zeroBits t false, flNone) else (infBits t false, flNone)
  | .fin neg m e =>
    let x : Int := if neg then -(m : Int) else m
    if m = 0 then roundMag mode ftz t false 1 0 false
    else if 0 ≤ e then
      let n : Int := if 16 < e then (if neg then -100000 else 100000) else x * 2 ^ e.toNat
      roundMag mode ftz t false 1 (max (-100000) (min 100000 n)) false
    else
      let d := (-e).toNat
      let n := x / (2 ^ d : Nat)
      let r := (x % (2 ^ d : Nat)).toNat
      if r = 0 then roundMag mode ftz t false 1 (max (-100000) (min 100000 n)) false
      else
        let f := r * 2 ^ fixBits / 2 ^ d
        roundMag mode ftz t false (exp2Fix fixBits f) (max (-100000) (min 100000 n) - (fixBits : Int)) true

/-- The first `n` fraction bits of log2 of y / 2^w, y in [2^w, 2^(w+1)), by repeated squaring. -/
def log2Bits (w : Nat) : Nat → Nat → Nat → Nat
  | 0, _, acc => acc
  | n + 1, y, acc =>
    let y2 := y * y / 2 ^ w
    if 2 ^ (w + 1) ≤ y2 then log2Bits w n (y2 / 2) (2 * acc + 1) else log2Bits w n y2 (2 * acc)

/-- Base-2 logarithm (R109): exact at powers of two, elsewhere irrational and rounded from a fixed-point lower bound
with a sticky part (log entry 8). -/
def fpLog2 (mode : Rm) (ftz : Bool) (t : ElemTy) (a : Num) : FpRes :=
  match a with
  | .nan s => (canon t, if s then flNV else flNone)
  | .inf neg => if neg then (canon t, flNV) else (infBits t false, flNone)
  | .fin neg m e =>
    if m = 0 then (infBits t true, flDZ)
    else if neg then (canon t, flNV)
    else
      let l := bitLen m - 1
      let n : Int := e + (l : Int)
      if m = 2 ^ l then
        if n = 0 then (zeroBits t false, flNone)
        else roundMag mode ftz t (decide (n < 0)) n.natAbs 0 false
      else
        let w := 2 * fixBits + 64
        let f := log2Bits w fixBits (m * 2 ^ w / 2 ^ l) 0
        let v : Int := n * 2 ^ fixBits + f
        if 0 ≤ v then roundMag mode ftz t false v.toNat (-(fixBits : Int)) true
        else roundMag mode ftz t true ((-v).toNat - 1) (-(fixBits : Int)) true

/-- Order of two numbers that are not NaN: −1, 0 or 1; −0 equals +0. -/
def numCmp (a b : Num) : Int :=
  match a, b with
  | .fin n1 m1 e1, .fin n2 m2 e2 =>
    let e0 := min e1 e2
    let d := alignInt n1 m1 e1 e0 - alignInt n2 m2 e2 e0
    if d < 0 then -1 else if d = 0 then 0 else 1
  | .inf n1, .inf n2 => if n1 == n2 then 0 else if n1 then -1 else 1
  | .inf n1, _ => if n1 then -1 else 1
  | _, .inf n2 => if n2 then 1 else -1
  | .nan _, _ => 0
  | _, .nan _ => 0

/-- A comparison (R75, R112, R186): a NaN gives false but for ne and un; lt, le, gt, ge set NV for any NaN, eq, ne and un
for a signalling one. -/
def fpCmp (x : Cond) (a b : Num) : Bool × FpFlags :=
  let sig := sigFlags [a, b]
  if a.isNan || b.isNan then
    match x with
    | .eq => (false, sig)
    | .ne => (true, sig)
    | .un => (true, sig)
    | .lt | .le | .gt | .ge => (false, flNV)
  else
    let c := numCmp a b
    match x with
    | .eq => (c == 0, flNone)
    | .ne => (c != 0, flNone)
    | .lt => (decide (c < 0), flNone)
    | .le => (decide (c ≤ 0), flNone)
    | .gt => (decide (0 < c), flNone)
    | .ge => (decide (0 ≤ c), flNone)
    | .un => (false, flNone)

/-- Minimum or maximum (R75): −0 below +0; one NaN gives the other operand, two give `Canon`. -/
def fpMinMax (isMax ftz : Bool) (t : ElemTy) (ab bb : Nat) : FpRes :=
  let a1 := flushIn ftz t ab % 2 ^ t.width
  let b1 := flushIn ftz t bb % 2 ^ t.width
  let a := numOf t a1
  let b := numOf t b1
  let fl := sigFlags [a, b]
  if a.isNan && b.isNan then (canon t, fl)
  else if a.isNan then (b1, fl)
  else if b.isNan then (a1, fl)
  else
    let less := decide (numCmp a b < 0) || (numCmp a b == 0 && a.isNeg)
    (if less != isMax then a1 else b1, fl)

/-- Sign cleared or flipped, exact (R109). -/
def fpSign (flip ftz : Bool) (t : ElemTy) (ab : Nat) : FpRes :=
  let a1 := flushIn ftz t ab % 2 ^ t.width
  match numOf t a1 with
  | .nan s => (canon t, if s then flNV else flNone)
  | _ =>
    let mag := a1 % 2 ^ (t.width - 1)
    (if flip && a1 == mag then mag + 2 ^ (t.width - 1) else mag, flNone)

/-- x rounded to an integer by a mode, with whether that changed it. -/
def roundToInt (mode : Rm) (neg : Bool) (m : Nat) (e : Int) : Int × Bool :=
  let d := (-e).toNat
  let mag := if 0 ≤ e then m * 2 ^ e.toNat else m / 2 ^ d
  let r := if 0 ≤ e then 0 else m % 2 ^ d
  let mag1 := if roundsUp mode neg (mag % 2 == 1) r d false then mag + 1 else mag
  (if neg then -(mag1 : Int) else mag1, r != 0)

/-- Float to integer (R36): NV for NaN (result 0), infinity or out of range (result `Sat`), else NX when changed. -/
def fpToInt (mode : Rm) (tt : ElemTy) (a : Num) : Int × FpFlags :=
  match a with
  | .nan _ => (0, flNV)
  | .inf neg => (if neg then intMin tt else intMax tt, flNV)
  | .fin neg m e =>
    let r := if 200 < e ∧ m ≠ 0 then ((if neg then -(2 ^ 200 : Int) else 2 ^ 200), false) else roundToInt mode neg m e
    if r.1 < intMin tt ∨ intMax tt < r.1 then (satInt r.1 tt, flNV)
    else (r.1, if r.2 then flNX else flNone)

/-- An exact integer as a number. -/
def numOfInt (x : Int) : Num := .fin (decide (x < 0)) x.natAbs 0

/-- Conversion between any source and a destination that is not t2 (R36), bits to bits. An equal type copies the bits
but for a NaN (R77). The value −1 of a t2 code to an unsigned type, which cannot hold it, is saturated to 0 without a flag: DESIGN
CHOICE, log entry 58. -/
def convert (mode : Rm) (ftz : Bool) (tt src : ElemTy) (bits : Nat) : FpRes :=
  if src = .t2 then
    let v := t2Value bits
    if tt.isInt then (intBits tt (satInt v.1 tt), v.2)
    else
      let r := roundNum mode ftz tt (numOfInt v.1)
      (r.1, r.2 ||| v.2)
  else if src.isInt then
    let x := intOf src bits
    if tt.isInt then (intBits tt (satInt x tt), flNone) else roundNum mode ftz tt (numOfInt x)
  else
    let a := numIn ftz src bits
    if tt.isInt then
      let r := fpToInt mode tt a
      (intBits tt r.1, r.2)
    else roundNum mode ftz tt a

end Sys2Proof.Machine
end

