-- ==== Sys2Proof/Config.lean ====
section
/-!
DEFINITION. What the spec leaves open and no run may rest on: free values, each an opaque constant without a body, applied
to a counter of the state or to the operands it depends on (log entries 10, 20, 21, 22).
-/
namespace Sys2Proof.Config

/-- The carry word of a finite cell in a raw image, before its bit 0 is cleared (R40, R189): any split is allowed. -/
opaque rawCarry : Nat → BitVec 80

/-- A byte written under one key, read under another: its area's mark, the reader's key, storage key and value as written (R367). -/
opaque staleByte : Nat → Nat → Nat → Byte → Byte

/-- SHAKE256 of a list of bytes as a number of 512 bits (R360, R363). -/
opaque shake256 : List Byte → BitVec 512

/-- The XMSS signature under an identity key of a one-time index over a digest (R361, R362). -/
opaque xmssSign : Nat → Nat → Nat → Nat

/-- Whether an XMSS signature of a firmware slot verifies over its header (R363). -/
opaque xmssVerify : List Byte → List Byte → Bool

/-- The device's certificate chain under an identity key (R359, R360). -/
opaque certChain : Nat → List Byte

/-- SHA3-384, the hash of the SPDM session (R359). -/
opaque sha384 : List Byte → BitVec 384

/-- The identity key a firmware image carries, if it carries one (R362). -/
opaque imageKey : List Byte → Option Nat

/-- The tag of a packet under a link key, a salt and a packet sequence number: AES-256-GCM over its header, the slot bit
included, and its payload (R368). -/
opaque linkTag : Nat → Nat → Nat → Bool → List Byte → BitVec 128

/-- KIND of the log entry of a corrected flit, for which R334 lists none (R324). -/
opaque flitKind : Nat

/-- The responder's key share and transcript value of a key exchange (R359). -/
opaque keyShare : Nat → Nat → Nat

/-- Whether a FINISH message's MAC verifies for a session's exchange (R359). -/
opaque finishOk : Nat → Nat → Bool

/-- A key Olinath generates (R367, R369). -/
opaque freshKey : Nat → Nat

/-- A lock nonce (R365). -/
opaque freshNonce : Nat → Nat

/-- Which bank words or sectors a failing engine command wrote, and the outcome of other choices of the device that are
not fixed (R231). -/
opaque freeChoice : Nat → Nat → Bool

/-- What the device answers to an SPDM message outside a session that is none of the listed requests (R359). -/
opaque spdmReply : List Byte → List Byte

/-- Where an addition falls in an order that is not fixed (R41, R44): which list, and which of its members. -/
opaque freePos : Nat → Nat → Nat

/-- The completion-record address that cause 10 of an engine command carries before any record has an address (R328). -/
opaque recordAddress : Nat → Word64

/-- KIND of the log entry of a die stopped in Critical, for which R334 lists none (R346). -/
opaque criticalKind : Nat

/-- The firmware and fuses that measurements 2, 3 and 4 are taken over (R360). -/
opaque measuredObject : Nat → List Byte

end Sys2Proof.Config
end

