-- ==== Sys2Proof/Machine/Sparse.lean ====
section
/-!
DEFINITION. Sparse arrays in one canonical form: a list of (index, value) pairs with strictly rising indexes and no entry
equal to the array's default value, which every unlisted index reads as. Memory, register files and every table of units
of the device are such lists.
-/
namespace Sys2Proof.Machine

/-- A sparse array of values of `α`. -/
abbrev FMap (α : Type) := List (Nat × α)

/-- The value at index `k` of an array with default `d`. -/
def fget {α : Type} (d : α) : FMap α → Nat → α
  | [], _ => d
  | (j, v) :: t, k => if j = k then v else fget d t k

/-- The array without entries at `k`. -/
def ferase {α : Type} : FMap α → Nat → FMap α
  | [], _ => []
  | (j, v) :: t, k => if j = k then ferase t k else (j, v) :: ferase t k

/-- The array with value `v` at index `k`. -/
def fset {α : Type} [DecidableEq α] (d : α) : FMap α → Nat → α → FMap α
  | [], k, v => if v = d then [] else [(k, v)]
  | (j, w) :: t, k, v =>
    if j < k then (j, w) :: fset d t k v
    else if v = d then ferase ((j, w) :: t) k
    else if j = k then (k, v) :: ferase t k
    else (k, v) :: ferase ((j, w) :: t) k

/-- Strictly rising indexes, all above `lo`, and no default value listed. -/
def fwfFrom {α : Type} [DecidableEq α] (d : α) : Nat → FMap α → Bool
  | _, [] => true
  | lo, (j, v) :: t => decide (lo ≤ j) && decide (v ≠ d) && fwfFrom d (j + 1) t

/-- The canonical form. -/
def fwf {α : Type} [DecidableEq α] (d : α) (m : FMap α) : Bool := fwfFrom d 0 m

/-- The array with every listed value changed by `f`, which must leave the default as it is; values that become the
default are dropped. -/
def fmapValues {α : Type} [DecidableEq α] (d : α) (f : Nat → α → α) (m : FMap α) : FMap α :=
  m.foldl (fun acc e => fset d acc e.1 (f e.1 (fget d m e.1))) m

/-- The listed entries whose index satisfies `p`. -/
def ffilter {α : Type} (p : Nat → Bool) (m : FMap α) : FMap α := m.filter (fun e => p e.1)

end Sys2Proof.Machine
end

