-- ==== Sys2Proof/Machine/State.lean ====
section
/-!
DEFINITION. The state of the whole CD-512 as plain data (01 R12 to R23 and the chapters INVENTORY.md names), the reasons a
step can stop, and the state after reset. Units are numbered: die 0 to 3; press = die × 32 + PRESSID; core = die × 128 +
COREID; hart = core × 8 + HARTID; physical core = die × 136 + 4 × physical press + core in press.
-/
namespace Sys2Proof.Machine

/-- The products of R1. -/
inductive Product where
  | cd512 | cd384 | cd512m
deriving DecidableEq, Repr

/-- The descriptor of a function register (R14); ROWS stands beside it in `VRegister`. -/
structure Desc where
  keep : Bool
  cap : BitVec 4
  policy : BitVec 2
  etype : BitVec 2
  basis : BitVec 2
  shape : BitVec 2
  deg : BitVec 4
deriving DecidableEq, Repr

/-- A function register (R12, R14, R131): descriptor, rows per cluster, the logical clusters that hold its rows, the clusters
whose pools still hold another number of rows for it since an instruction faulted part-way (R101, R129), the row words by
index element × 256 + row, and the poisoned bank words of 32 bytes, eight elements of a row each, by index element / 8 × 256 + row
(R323; log entry 28). -/
structure VRegister where
  desc : Desc
  rows : Nat
  held : BitVec 16
  surplus : FMap Nat
  data : FMap Word32
  bad : FMap Bool
deriving DecidableEq, Repr

/-- A hardware-loop level (R21, R84 to R88): LC, LS, LE, active, first, the count at the iteration's start, held writes. -/
structure LoopLevel where
  count : Word32
  start : BitVec 48
  stop : BitVec 48
  active : Bool
  first : Bool
  startCount : Word32
  heldCount : Option Word32
  heldStart : Option (BitVec 48)
  heldStop : Option (BitVec 48)
deriving DecidableEq, Repr

/-- The values of a kernel header (R198, R199). -/
structure KHeader where
  xregs : Nat
  vregs : Nat
  preds : Nat
  queues : Nat
  rows : Nat
  barc : Nat
  barp : Nat
  bard : Nat
  spad : Nat
deriving DecidableEq, Repr

/-- A task record (R270) with its arrival number and whether the unit has read its header (R271). -/
structure Rec where
  d0 : Word64
  d1 : Word64
  arrival : Nat
  headerRead : Bool
deriving DecidableEq, Repr

/-- The task a hart runs (R273, R280): its record as selected, the XMASK read at entry, and whether it counts as
committed (R291). -/
structure Task where
  record : Rec
  xmask : Word32
  committed : Bool
deriving DecidableEq, Repr

/-- A completion record of an engine (R231). -/
structure CompletionRec where
  seq : Word32
  tag : BitVec 16
  status : BitVec 8
  kind : BitVec 8
  detail : BitVec 48
  trapf : Bool
deriving DecidableEq, Repr

/-- A matrix command with the register values it captured at issue (R172 to R196). -/
inductive MatCmd where
  | attach (rd : XReg) (request sync : Word64)
  | detach
  | zero (plane : Nat)
  | ldb (buf : Nat) (packed scaled : Bool) (src range : Word64)
  | sign (pd : PReg) (row : Word64) (plane : Nat)
  | save (plane : Nat) (dst : Word64)
  | rest (plane : Nat) (src : Word64)
  | acc (scaled : Bool) (plane buf : Nat) (src : Word64) (ta tb : ElemTy) (boff nblk rowb steps : Nat)
  | resolve (plane : Nat) (t : ElemTy) (rm : Rm) (nblk rowb : Nat)
  | cmp (pd : PReg) (row thr : Word64) (t : ElemTy) (x : Cond) (plane : Nat)
  | drain (plane : Nat) (dst : Word64) (scale : Option Word32) (t : ElemTy) (rm : Rm) (clr sat pack : Bool)
      (layout nblk rowb : Nat)
  | drainRaw (plane : Nat) (dst : Word64) (clr : Bool) (nblk rowb : Nat)
  | drainp (plane : Nat) (target : Word64) (clr : Bool) (nblk rowb : Nat)
deriving DecidableEq, Repr

/-- An engine command (R225) as pushed, with its SEQ, the pushing hart and its record address for faults. -/
structure Cmd where
  seq : Word32
  hart : Nat
  kind : BitVec 8
  len : Word32
  tag : BitVec 16
  ord : Bool
  trapf : Bool
  norec : Bool
  dst : Word64
  src : Word64
  rszm1 : Nat
  idxoff : Nat
  dstmax : Nat
  syncen : Bool
  syncoff : Nat
  order : Nat
deriving DecidableEq, Repr

/-- What a hart waits for at its current instruction, with the operands the completion needs. `leave` waits for the hart's engine
commands before it leaves its task, or ends its part in the launch (R281). `csrPair` is a `csrs` or `csrc` of `AWIN` or `WBOUND` that
has read its register: the value of the RW field it is going to write, its op and operand (R89). -/
inductive Wait where
  | none
  | lease (rd : XReg)
  | queuePush (q : Nat) (v : Word64)
  | queuePop (q : Nat) (rd : XReg)
  | swWait (key : Nat) (expect : Word32) (rd : XReg)
  | eqPop (eng : Nat) (rd rb : XReg)
  | enginePush (eng : Nat) (cmd : Cmd) (rd : XReg)
  | bar (level id : Nat)
  | waitm (key n : Nat) (rd : XReg) (limit : Word64) (slot : Bool)
  | futGet (key : Nat) (rd : XReg) (slot : Bool)
  | vwait (keys : List Nat) (own : Option Nat) (expect : Word64) (l : Nat) (rd : XReg)
  | wpop (rd : XReg) (limit : Word64)
  | wterm (rd : XReg) (limit : Word64)
  | tile (target : Word64) (plane nblk rowb : Nat) (clr : Bool)
  | matrix
  | taskLease
  | leave (ends : Bool)
  | csrPair (awin : Bool) (w : BitVec 8) (op : CsrOp) (v : Word64)
deriving DecidableEq, Repr

/-- An instruction a supervisor completes in software for want of a slot or a barrier (R251). -/
inductive Emul where
  | waitm (key n : Nat) (rd : XReg) (old limit : Word64)
  | futGet (key : Nat) (rd : XReg)
  | bar (level id : Nat) (n : Word64) (waits : Bool)
deriving DecidableEq, Repr

/-- A trap delivered to a supervisor core (R94, R331): cause and the values it carries, the log entry of it, and what is
to be completed in software. `source` is the address of the poisoned data of cause 10: EVAL, or DETAIL of the engine command
(R328, R331). -/
structure SupStop where
  cause : BitVec 6
  epc : BitVec 48
  eval : Word64
  source : Word64
  vri : BitVec 9
  logSeq : Option Nat
  emul : Option Emul
deriving DecidableEq, Repr

/-- A stop on its way to a hart (R374): clocks of its press since the trigger, the source, the instructions issued at clocks t + 1
to t + 5 that have retired, and whether the one it issued last is such an instruction. -/
structure StopPending where
  clk : Nat
  source : BitVec 4
  skid : Nat
  counted : Bool
deriving DecidableEq, Repr

/-- The control registers a hart owns (R20, R21) except the loop registers. -/
structure HartCsr where
  vl : BitVec 9
  vrem : BitVec 48
  leasePref : BitVec 5
  leaseMin : BitVec 5
  vpolPm : Bool
  vpolTd : Bool
  vri : BitVec 9
  ftz : Bool
  rm : BitVec 3
  fflags : BitVec 6
  epc : BitVec 48
  ecause : BitVec 6
  eval : Word64
  etvec : BitVec 48
  role : BitVec 2
  wclass : BitVec 2
  dskid : BitVec 16
  wphit : BitVec 8
  stop : BitVec 4
  halt : Bool
  instret : Word64
deriving DecidableEq, Repr

/-- Whether a hart takes part in a launch (R269, R288). -/
inductive HartLife where
  | off | running | ended
deriving DecidableEq, Repr

/-- A hart. `supNext` are causes of its engine commands that wait while a supervisor core has it for another (R328, R331);
`barAt` is the address of a `bar` that has arrived and still waits; `flit` says that the next data a read or a tile of its brings over the fabric arrives poisoned (R194, R323).
`stopPend` are the stops on their way to it, oldest first, and `haltPend` says that a debug command halts it once the instruction it
has issued is complete (R374). -/
structure Hart where
  life : HartLife
  pc : Word64
  npc : Word64
  ir : Word32
  x : FMap Word64
  v : FMap VRegister
  p : FMap (BitVec 256)
  csr : HartCsr
  loops : FMap LoopLevel
  handler : Bool
  pmInForce : Bool
  stall : Bool
  grant : Nat
  lmap : List Nat
  age : Nat
  header : KHeader
  task : Option Task
  dispatchPc : Word64
  window : Option (Nat × Nat)
  pendBar : FMap (Option Word32)
  barAt : Option Word64
  out0 : List CompletionRec
  out1 : List CompletionRec
  wait : Wait
  waited : Nat
  parked : Nat
  waitSeq : Nat
  wake : Option Word64
  sup : Option SupStop
  supNext : List SupStop
  stepping : Bool
  stepDone : Bool
  stopPend : List StopPending
  haltPend : Bool
  laneFault : Option Nat
  flit : Bool
  preempt : Bool
deriving DecidableEq, Repr

/-- A physical barrier (R247): its binding (context, level, id) and EXPECT, COUNT, GEN. -/
structure Barrier where
  bound : Option (Nat × Nat × Nat)
  expect : BitVec 16
  count : BitVec 16
  gen : Word32
deriving DecidableEq, Repr

/-- What a command has written ahead of the rest (R233), of its whole destination or of a decode's next chunk: the positions
written, by offset from DST or from the chunk's output; the bytes of positions that hold whatever the source holds now, a chunk's
output, or source bytes of a copy that the copy itself has overwritten (R228); and the chunk's output and stream bytes. -/
structure Plan where
  done : List Nat
  kept : List (Nat × Byte)
  out : Nat
  taken : Nat
deriving DecidableEq, Repr

/-- A command in execution: the index list a gather has read, the chunks a decode has released, the bytes they hold and
the stream bytes they took, its outcome once known, and whether it only waits for room for its record (R227, R229, R231,
R236). `plan` is what it has written ahead, once it has written a bank word so. -/
structure Running where
  cmd : Cmd
  index : List Nat
  chunks : Nat
  outBytes : Nat
  inBytes : Nat
  result : Option (BitVec 8 × BitVec 48)
  recordWait : Bool
  plan : Option Plan
deriving DecidableEq, Repr

/-- A copy or decoder engine (R224, R227). -/
structure Engine where
  fifo : List Cmd
  running : List Running
  seq : Word32
deriving DecidableEq, Repr

/-- A watchpoint (R372). -/
structure WatchPoint where
  word : BitVec 15
  bytes : Word32
  scope : Bool
  mtch : BitVec 2
  act : BitVec 2
deriving DecidableEq, Repr

/-- A B buffer (R170): bytes by column × 1024 + byte, scales by column × 32 + slot, and the poisoned ones (R323): bank words of
bytes by column × 32 + word of 32 bytes, bank words of scales by column × 2 + half. -/
structure BBuf where
  bytes : FMap Byte
  scales : FMap (BitVec 16)
  bad : FMap Bool
  badScales : FMap Bool
deriving DecidableEq, Repr

/-- A core. `blocks` are the physical row blocks it holds, in logical order; `win0` and `win1` the logical blocks whose
receive window is open, `winSync` the window's sync word in the own scratchpad; `mq` the queued matrix commands with
their harts (R171); `cycleBase` is CYCLE at clock `cycleSince`. -/
structure Core where
  q : FMap (List (Word64 × Bool))
  shift : BitVec 8
  inx0 : Bool
  ovf0 : Bool
  inx1 : Bool
  ovf1 : Bool
  blocks : List Nat
  win0 : BitVec 4
  win1 : BitVec 4
  winSync : Word64
  b0 : BBuf
  b1 : BBuf
  mq : List (Nat × MatCmd)
  eng0 : Engine
  eng1 : Engine
  bars : FMap Barrier
  brken : Bool
  bscope : BitVec 2
  frzeng : Bool
  cmderr : Bool
  wps : FMap WatchPoint
  cycleBase : Nat
  cycleSince : Nat
  withdrawn : BitVec 16
  lastHart : Nat
  stallTest : Bool
deriving DecidableEq, Repr

/-- What an accumulator cell of an unresolved block holds (R40). -/
inductive Cell where
  | fin (v : BitVec 80)
  | pinf
  | ninf
  | nan
deriving DecidableEq, Repr

/-- A row block of a plane (R17, R169): its SHIFT latch, unresolved or resolved to a type, its cells by row × 96 + column
(unresolved values, or resolved bits), and the poisoned bank words of 32 bytes by row × 60 + word of the row's 96 cells of 20
bytes (R323; log entry 28). -/
structure Block where
  shift : BitVec 8
  res : Option ElemTy
  cells : FMap Cell
  vals : FMap Word32
  bad : FMap Bool
deriving DecidableEq, Repr

/-- A press: the VF that owns it, the context resident on it, since which device clock and what was resident before, newest first
(R317), the physical presses it was mapped to before with what was resident on them, the context whose cellar it holds (R312), the
physical press behind it, whether it is enabled, drained for repair, its clock in MHz and what it stalls for. -/
structure Press where
  vf : Option Nat
  resident : Option Nat
  tenure : List (Nat × Option Nat)
  former : List (Nat × List (Nat × Option Nat))
  blocks : FMap Block
  bars : FMap Barrier
  cellarCtx : Option Nat
  phys : Nat
  enabled : Bool
  repair : Bool
  mhz : Nat
  stallMatrix : Bool
  stallClock : Bool
deriving DecidableEq, Repr

/-- Power states of a die (R313). -/
inductive DiePower where
  | normal | low | critical
deriving DecidableEq, Repr

/-- A fault-log entry (R334). -/
structure LogEntry where
  seq : Nat
  kind : Nat
  code : Nat
  result : Nat
  die : Nat
  press : Nat
  ctx : Nat
  hart : Nat
  core : Nat
  pa : Bool
  addr : Nat
  time : Nat
  detail : Word64
deriving DecidableEq, Repr

/-- A compute die; number 4 holds the hub's log and counters. -/
structure Die where
  bars : FMap Barrier
  power : DiePower
  budget : Nat
  mw : Nat
  tj : Nat
  hipress : Nat
  permitted : List Nat
  criticalMs : Nat
  throttle : Nat
  stopped : Bool
  log : List LogEntry
  logged : Nat
  counters : FMap Nat
  spares : List Nat
deriving DecidableEq, Repr

/-- A memory controller (R326): spare pages used, page remaps (page, spare), withdrawn pages. Its poison record is the part
of `State.poison` that lies in its memory. -/
structure Ctrl where
  sparesUsed : Nat
  remap : List (Nat × Nat)
  withdrawn : List Nat
deriving DecidableEq, Repr

/-- States of a context (R299). -/
inductive CtxState where
  | free | idle | resident | saved
deriving DecidableEq, Repr

/-- A bin of one die (R272): on-chip records in arrival order, spilled records in arrival order with the ring slot of each, and
the slot the next spilled record takes if it is free. -/
structure Bin where
  chip : List Rec
  ring : List (Nat × Rec)
  tail : Nat
deriving DecidableEq, Repr

/-- A batch of records between two dies (R277), with the priorities `wprio` has given to frames since it left, oldest first
(R286). -/
structure Batch where
  src : Nat
  dst : Nat
  bin : Nat
  recs : List Rec
  moves : List (BitVec 48 × BitVec 16)
deriving DecidableEq, Repr

/-- A saved context's state for which R310 fixes no bytes, beside what the save area holds in memory. -/
structure Saved where
  harts : FMap Hart
  cores : FMap Core
  pressBars : FMap (FMap Barrier)
  dieBars : FMap (FMap Barrier)
deriving DecidableEq, Repr

/-- A context. `xflight` are batches on their way to other devices by sending die, oldest first, `xsent` and `xreceived` the
records sent to and received from them, `asked` how many of them may still answer a request for records (R278). `alone` says that
this device has confirmed termination alone, `peer` is the report of the others for the wave across devices that runs, and `xwave`
the totals of a clean one before it (R295). -/
structure Ctx where
  st : CtxState
  cfg : CtxCfg
  missing : Bool
  krec : Word64
  globals : Word64
  hartmask : BitVec 8
  spill : Word64
  spilllog : Nat
  cwin : Nat
  header : KHeader
  tag : BitVec 16
  mgmt : Bool
  wbound : BitVec 8
  bins : FMap Bin
  flight : List Batch
  xflight : List (Nat × List Rec)
  xsent : Nat
  xreceived : Nat
  asked : Nat
  sent : FMap Nat
  received : FMap Nat
  waveClean : Bool
  waveTotals : Nat × Nat
  pushed : Bool
  alone : Bool
  peer : Option (Bool × Nat × Nat)
  xwave : Option (Nat × Nat)
  terminated : Bool
  leaving : Bool
  slice : Nat
  savedOrder : Nat
  wear : Word64
  failSeq : Word32
  failCause : BitVec 8
  saved : Option Saved
deriving DecidableEq, Repr

/-- TDISP states of a virtual function (R364). -/
inductive Tdisp where
  | unlocked | locked | run | error
deriving DecidableEq, Repr

/-- A virtual function: its 1 GiB ranges on this device and, by device, on the others of a context that spans devices (R297,
R306), the memory key in force (R367), and whether a function-level reset of it is under way (R349). -/
structure Vf where
  tdisp : Tdisp
  nonce : Nat
  ranges : List Nat
  remote : List (Nat × Nat)
  keyed : Bool
  key : Option Nat
  keyGen : Nat
  lostKey : Bool
  resetting : Bool
deriving DecidableEq, Repr

/-- An SPDM session slot (R359): what has been set up, and the key generation. -/
structure SpdmSession where
  versioned : Bool
  capable : Bool
  negotiated : Bool
  exchanged : Option Nat
  secured : Bool
  keyGen : Nat
deriving DecidableEq, Repr

/-- A port's link (R353, R368, R369): whether it is up, keys and salts in the slots of the two ends, the active slot, the packets
sent under each slot's key, the keys it has used and the packets received under those it holds, the generation, the time since the last packet of the old slot once a rotation is under way, packets
dropped, failures in a row, packets delivered and those of them that arrived poisoned. -/
structure Link where
  up : Bool
  rx0 : Option (Nat × Nat)
  rx1 : Option (Nat × Nat)
  tx0 : Option (Nat × Nat)
  tx1 : Option (Nat × Nat)
  active : Bool
  psn0 : Nat
  psn1 : Nat
  used : List Nat
  seen : List (Bool × Nat)
  gen : Nat
  newSeen : Bool
  quiet : Nat
  dropped : Nat
  fails : Nat
  counted : Nat
  poisoned : Nat
deriving DecidableEq, Repr

/-- Lifecycle states of a core (R342). -/
inductive Life where
  | nominal | derated1 | derated2 | drained | retired
deriving DecidableEq, Repr

/-- A physical core's wear (R340 to R342): W in units of 2^-32 with its remainder in units of 2^-96 over 3600000, state, clock, and
the remainders of the charges carried forward per context in units of 2^-96 over 3600000 × 1800000 (R317; log entry 29). -/
structure Wear where
  w : Nat
  frac : Nat
  life : Life
  mhz : Nat
  charge : FMap Nat
deriving DecidableEq, Repr

/-- A copy of the wear record (R341): generation, W and state per physical core, the lasting-fault entries, and the CRC-32C over
the whole copy. -/
structure WearCopy where
  gen : Nat
  wear : FMap (Nat × Life)
  lasting : List LogEntry
  crc : Nat
deriving DecidableEq, Repr

/-- A firmware slot as it lies in flash (R363). -/
structure Slot where
  magic : Word64
  version : Word64
  size : Word64
  digest : List Byte
  sig : List Byte
  image : List Byte
deriving DecidableEq, Repr

/-- Power states of the device (R347). -/
inductive DevPower where
  | off | reset | standby | run
deriving DecidableEq, Repr

/-- The sections of SUMMARY (R337): the header's event counts, TORN and device state, then measurements, and by VF, context,
log, die, physical core and link what the section lists. -/
structure SummaryBody where
  magic : Word32
  evgen0 : Nat
  evgen1 : Nat
  torn : Bool
  devState : Nat
  time : Nat
  measurements : List Nat
  vfs : List (List Nat × List Nat × Bool × Nat × Bool)
  ctxs : List (Nat × Bool × Nat × Nat × Word64)
  logs : List (Nat × Nat × List LogEntry)
  counters : List (List Nat)
  wear : List Nat
  power : List (Nat × Nat × Nat)
  links : List (Nat × Nat × Nat)
deriving DecidableEq, Repr

/-- The body of a response; `signed` carries bytes and an XMSS signature over them. -/
inductive RespBody where
  | empty
  | bytes (b : List Byte)
  | ctxInfo (st : CtxState) (wear : Word64)
  | ints (l : List Nat)
  | signed (b : List Byte) (sig : Nat)
  | summary (b : SummaryBody)
deriving DecidableEq, Repr

/-- A Gysko response (R354, R356) or an SPDM reply. -/
structure Resp where
  op : BitVec 16
  tag : BitVec 16
  vf : Nat
  mgmt : Bool
  status : Nat
  detail : Nat
  body : RespBody
deriving DecidableEq, Repr

/-- A data command that has been accepted and whose sectors or words are performed apart (R357, R387): its header, OP, context and the
pieces still to do, each with its address and bytes, as many as it reads for a read, and what a read has read of its pieces. The
address is a VA for WRITE and READ, an offset of the host window for HWRITE and HREAD, PRESSIDX × 20 MiB + offset for CELLARLD. -/
structure DataCmd where
  hdr : GyskoHdr
  op : BitVec 16
  ctx : Nat
  todo : List (Nat × List Byte)
  got : List (Nat × List Byte)
deriving DecidableEq, Repr

/-- A Gysko event (R322): the VF it goes to, none for the management session alone, its log SEQ and what happened. -/
structure Event where
  vf : Option Nat
  seq : Nat
  what : String
deriving DecidableEq, Repr

/-- Olinath and the hub die. `cxlPop0` and `cxlPop1` are the sizes in GiB of the memory devices at the two CXL ports, 0 for
none; `cxl0` and `cxl1` those the HDM decoders map since boot (R370). `logClk` and `logDie` are the clock and the die of the
newest log entry (R335). `wearTurn` says that the wear
record's copy 1 is written next, and `wearTime` when it was written last (R341), `mlog` Olinath's measurement log as
index and digest (R348, R360), `identity` the identity key whose one-time indices `xmss` counts and `xmssWarned` whether their near
end has been reported (R362), `data` the data commands under way and `summaries` the SUMMARY commands under way (R339), `ucie`
the UCIe links that are up (R337). -/
structure Hub where
  product : Product
  power : DevPower
  plim : Nat
  seq : Nat
  time : Nat
  sessions : FMap SpdmSession
  debugUnlocked : Bool
  assigns : Nat
  mlog : List (Nat × Nat)
  identity : Nat
  xmss : Nat
  xmssWarned : Bool
  flash0 : Nat
  flash1 : Nat
  fw0 : Slot
  fw1 : Slot
  fwSlot : Bool
  fwMin : Nat
  wearCopy0 : WearCopy
  wearCopy1 : WearCopy
  wearTurn : Bool
  wearTime : Nat
  lasting : List LogEntry
  ucie : List Bool
  cxlPop0 : Nat
  cxlPop1 : Nat
  cxl0 : Nat
  cxl1 : Nat
  cxlDown0 : Bool
  cxlDown1 : Bool
  logClk : Nat
  logDie : Nat
  dropped : Nat
  data : List DataCmd
  summaries : List (GyskoHdr × SummaryBody)
  resps : List Resp
  events : List Event
deriving DecidableEq, Repr

/-- A cached translation of a context (R304): first VA, page size, and the leaf entry. -/
structure TlbEntry where
  ctx : Nat
  va : Nat
  size : Nat
  leaf : Word64
deriving DecidableEq, Repr

/-- What happens next, as data from outside the machine and as the schedule (log entry 2): a hart issues, or issues a `csrs` or
`csrc` of `AWIN` or `WBOUND` whose write follows its read later (R89), an event
comes about, clocks pass, a physical upset strikes (1 correctable, 2 uncorrectable) at a storage key, a lane of a hart
computes one copy of element `e` of its next protected instruction wrongly (R128), a flit that brings a hart data fails its CRC
`fails` times in a row (R323), another device writes a byte of its own
memory that a REMOTE page names, or gives a VF these ranges of its memory (R306), a memory device of a size in GiB is attached
to a CXL port (R370), an engine writes one bank word of a running command ahead of the others (R233), or the other devices of a
context report to a wave across devices whether they are idle and how many records they have sent and received (R295), a data command is
accepted (`op` 0x10 to 0x14, `va` its address as `DataCmd` gives it) whose pieces are performed apart, or a piece of the `i`-th one
under way is performed (R387), a SUMMARY is begun, takes a section, or ends (R339), a function-level reset of a VF begins (R386), the supply is lost while a
copy of the wear record is being written (R341), or a link goes up or down (R337). -/
inductive Action where
  | hart (h : Nat)
  | csrRead (h : Nat)
  | event (i : Instr)
  | tick (n : Nat)
  | upset (key : Nat) (sort : Nat)
  | laneFault (h e : Nat)
  | readFlit (h fails : Nat)
  | remoteWrite (key : Nat) (b : Byte)
  | remoteRanges (vf : Nat) (l : List (Nat × Nat))
  | attachCxl (port gib : Nat)
  | engineWord (core eng seq word : Nat)
  | peerWave (ctx : Nat) (idle : Bool) (sent received : Nat)
  | dataBegin (h : GyskoHdr) (op : BitVec 16) (ctx va : Nat) (bytes : List Byte)
  | dataPiece (i piece : Nat)
  | summaryBegin (h : GyskoHdr)
  | summarySection (i k : Nat)
  | summaryEnd (i : Nat)
  | flrBegin (vf : Nat)
  | wearTorn
  | linkUp (n : Nat) (up : Bool)
deriving DecidableEq, Repr

/-- An instruction a hart has issued in this clock (R66, R211): its word, the address of the next one in sequence, and whether the
hart may not issue a second one with it. -/
structure Issued where
  hart : Nat
  word : Word32
  next : Word64
  alone : Bool
deriving DecidableEq, Repr

/-- The state of the device. `stale` holds areas of storage [first, end) with a mark and the key of the VF that owns the memory now: the
mark is 4 × n for bytes no rule fixes (saved
state whose form R310 leaves open), which read as free values; 4 × k + 2 for bytes last written under key k of R366 where
another key reads them now, as bytes unrelated to what was written (R367), and 4 × k + 3 where k itself does. `recordOrder` are the recorded
sectors of memory in the order of their recording, newest first (R326). `coreClk` counts the device clocks in which the compute dies'
clocks ran (R347). `marks` holds,
for what the device takes in a stated order within one clock (R392, R395), the rank taken last in this clock, and `issued` what
cores have issued in it (R211). `flaws`, `poison` and `inband`
are by poison unit, `flawClk` the clock since which a unit has had a latent flaw. `selfTests` are tests to come, `tests` those that have begun, with the time in µs and whether they still
run. `recent` holds the last logged corrected error of a row or sector, `rowSpares` the spare rows used per bank (R330). -/
structure State where
  cur : Nat
  agenda : List Action
  clk : Nat
  coreClk : Nat
  harts : FMap Hart
  cores : FMap Core
  presses : FMap Press
  dies : FMap Die
  ctxs : FMap Ctx
  vfs : FMap Vf
  hub : Hub
  links : FMap Link
  wear : FMap Wear
  ctrls : FMap Ctrl
  mem : List Host.Cell
  tlb : List TlbEntry
  flaws : FMap Nat
  flawClk : FMap Nat
  poison : FMap Bool
  recordOrder : List Nat
  inband : FMap Bool
  stale : List (Nat × Nat × (Nat × Nat))
  marks : FMap Nat
  issued : List Issued
  selfTests : List TestUnit
  tests : List (TestUnit × Nat × Bool)
  recent : List (Nat × Nat)
  rowSpares : FMap Nat
  seqNo : Nat
  freeNo : Nat
deriving DecidableEq, Repr

/-- Why the machine stops. -/
inductive Fault where
  /-- raised by `step` for an upset, or for a write by another device, that the agenda places at a storage key where the
  device and its neighbours have no storage (safe: no rule gives such an access an effect). -/
  | noStorage (key : Nat)
deriving DecidableEq, Repr

/-- Why an instruction has no meaning. -/
inductive Refusal where
  /-- an arm of `exec` that has no meaning yet (safe: nothing can be proved of it). -/
  | notModelled (mnemonic : String)
deriving DecidableEq, Repr

def Desc.zero : Desc := { keep := false, cap := 0, policy := 0, etype := 0, basis := 0, shape := 0, deg := 0 }

def VRegister.zero : VRegister := { desc := Desc.zero, rows := 0, held := 0, surplus := [], data := [], bad := [] }

def LoopLevel.zero : LoopLevel :=
  { count := 0, start := 0, stop := 0, active := false, first := false, startCount := 0, heldCount := none,
    heldStart := none, heldStop := none }

def KHeader.max : KHeader :=
  { xregs := 32, vregs := 32, preds := 16, queues := 4, rows := 256, barc := 16, barp := 8, bard := 4,
    spad := 1048576 }

def HartCsr.reset : HartCsr :=
  { vl := 0, vrem := 0, leasePref := 0, leaseMin := 0, vpolPm := false, vpolTd := true, vri := 0, ftz := false, rm := 0,
    fflags := 0, epc := 0, ecause := 0, eval := 0, etvec := 0, role := 0, wclass := 0, dskid := 0, wphit := 0,
    stop := 0, halt := false, instret := 0 }

def Hart.reset : Hart :=
  { life := .off, pc := 0, npc := 0, ir := 0, x := [], v := [], p := [], csr := HartCsr.reset, loops := [],
    handler := false, pmInForce := false, stall := false, grant := 0, lmap := [], age := 0, header := KHeader.max,
    task := none, dispatchPc := 0, window := none, pendBar := [], barAt := none, out0 := [], out1 := [], wait := .none, waited := 0,
    parked := 0, waitSeq := 0, wake := none, sup := none, supNext := [], stepping := false, stepDone := false,
    stopPend := [], haltPend := false, laneFault := none, flit := false, preempt := false }

def Barrier.reset : Barrier := { bound := none, expect := 0, count := 0, gen := 0 }

def Engine.reset : Engine := { fifo := [], running := [], seq := 0 }

def WatchPoint.reset : WatchPoint := { word := 0, bytes := 0, scope := false, mtch := 0, act := 0 }

def BBuf.zero : BBuf := { bytes := [], scales := [], bad := [], badScales := [] }

def Core.reset : Core :=
  { q := [], shift := 0, inx0 := false, ovf0 := false, inx1 := false, ovf1 := false, blocks := [], win0 := 0,
    win1 := 0, winSync := 0, b0 := BBuf.zero, b1 := BBuf.zero, mq := [], eng0 := Engine.reset,
    eng1 := Engine.reset, bars := [], brken := false, bscope := 0, frzeng := false, cmderr := false, wps := [],
    cycleBase := 0, cycleSince := 0, withdrawn := 0, lastHart := 0, stallTest := false }

def Block.zero : Block := { shift := 0, res := none, cells := [], vals := [], bad := [] }

/-- A press after reset: enabled, on the physical press of its own number, owned by no VF. -/
def Press.reset : Press :=
  { vf := none, resident := none, tenure := [], former := [], blocks := [], bars := [], cellarCtx := none, phys := 0, enabled := true,
    repair := false, mhz := 1800, stallMatrix := false, stallClock := false }

/-- Press number `n` after reset of a product: a CD-384 enables PRESSID 0 to 23 of each die (R21). -/
def Press.resetOf (pr : Product) (n : Nat) : Press :=
  { Press.reset with phys := n % 32, enabled := decide (pr ≠ .cd384) || decide (n % 32 < 24) }

def Die.reset : Die :=
  { bars := [], power := .normal, budget := 450000, mw := 0, tj := 0, hipress := 32, permitted := [], criticalMs := 0,
    throttle := 0, stopped := false, log := [], logged := 0, counters := [], spares := [32, 33] }

def Ctrl.reset : Ctrl := { sparesUsed := 0, remap := [], withdrawn := [] }

def Bin.empty : Bin := { chip := [], ring := [], tail := 0 }

def CtxCfg.zero : CtxCfg :=
  { presses := [], tbase := 0, savebase := 0, cellarimg := 0, mpol := 0, tslice := 0, t1 := 0 }

def Ctx.reset : Ctx :=
  { st := .free, cfg := CtxCfg.zero, missing := false, krec := 0, globals := 0, hartmask := 0, spill := 0,
    spilllog := 0, cwin := 0, header := KHeader.max, tag := 0, mgmt := false, wbound := 255, bins := [], flight := [], xflight := [],
    xsent := 0, xreceived := 0, asked := 0, sent := [], received := [], waveClean := false, waveTotals := (0, 0), pushed := false,
    alone := false, peer := none, xwave := none, terminated := true, leaving := false,
    slice := 0, savedOrder := 0, wear := 0, failSeq := 0, failCause := 0, saved := none }

def Vf.reset : Vf :=
  { tdisp := .unlocked, nonce := 0, ranges := [], remote := [], keyed := false, key := none, keyGen := 0, lostKey := false,
    resetting := false }

def SpdmSession.reset : SpdmSession :=
  { versioned := false, capable := false, negotiated := false, exchanged := none, secured := false, keyGen := 0 }

def Link.reset : Link :=
  { up := true, rx0 := none, rx1 := none, tx0 := none, tx1 := none, active := false, psn0 := 0, psn1 := 0, used := [], seen := [], gen := 0,
    newSeen := false, quiet := 0, dropped := 0, fails := 0, counted := 0, poisoned := 0 }

def Wear.reset : Wear := { w := 0, frac := 0, life := .nominal, mhz := 1800, charge := [] }

def WearCopy.reset : WearCopy := { gen := 0, wear := [], lasting := [], crc := 0 }

def Slot.reset : Slot := { magic := 0, version := 0, size := 0, digest := [], sig := [], image := [] }

/-- Olinath and the hub after reset. PLIM is 1800 W for every product, which R346 says of the CD-512M alone, and the CXL ports hold
2048 GiB each: DESIGN CHOICE, log entry 5. -/
def Hub.reset : Hub :=
  { product := .cd512, power := .standby, plim := 1800, seq := 0, time := 0, sessions := [], debugUnlocked := false,
    assigns := 0, mlog := [], identity := 0, xmss := 0, xmssWarned := false, flash0 := 0, flash1 := 0,
    fw0 := { Slot.reset with magic := 0xCD5AF1A500000001 }, fw1 := Slot.reset,
    fwSlot := false, fwMin := 0, wearCopy0 := { WearCopy.reset with crc := 2223678569 }, wearCopy1 := WearCopy.reset, wearTurn := true,
    wearTime := 0,
    lasting := [], ucie := [true, true, true, true], cxlPop0 := 2048, cxlPop1 := 2048, cxl0 := 2048, cxl1 := 2048, cxlDown0 := false, cxlDown1 := false,
    logClk := 0, logDie := 0, dropped := 0, data := [], summaries := [],
    resps := [], events := [] }

/-- The device right after a cold reset has completed (R347, R348): every field at the value the spec gives, and where it
gives none at the value log entries 1, 5 and 6 name. -/
def State.reset : State :=
  { cur := 0, agenda := [], clk := 0, coreClk := 0, harts := [], cores := [], presses := [], dies := [], ctxs := [], vfs := [],
    hub := Hub.reset, links := [], wear := [], ctrls := [], mem := [], tlb := [], flaws := [], flawClk := [],
    poison := [], recordOrder := [], inband := [], stale := [], marks := [], issued := [], selfTests := [], tests := [], recent := [], rowSpares := [], seqNo := 0, freeNo := 0 }

end Sys2Proof.Machine
end

