-- ==== Sys2Proof/Machine/Ops.lean ====
section
/-!
DEFINITION. Named reads and writes of the units of the device and of a hart's registers, retiring an instruction with the
end test of the hardware loops (R85), taking a trap (R94 to R96) and returning from one (R97), logging (R334 to R336).
-/
namespace Sys2Proof.Machine

/-! Numbering of units. -/

def coreOfHart (h : Nat) : Nat := h / 8
def pressOfCore (c : Nat) : Nat := c / 128 * 32 + c % 128 / 4
def pressOfHart (h : Nat) : Nat := pressOfCore (coreOfHart h)
def dieOfCore (c : Nat) : Nat := c / 128
def dieOfPress (p : Nat) : Nat := p / 32
def dieOfHart (h : Nat) : Nat := h / 1024
/-- The first core of a press. -/
def coreOfPress (p : Nat) : Nat := p / 32 * 128 + p % 32 * 4
/-- Context c belongs to VF c div 4 (R297). -/
def vfOfCtx (c : Nat) : Nat := c / 4

/-! Units of the state. -/

def State.hart (s : State) (h : Nat) : Hart := fget Hart.reset s.harts h
def State.setHart (s : State) (h : Nat) (v : Hart) : State := { s with harts := fset Hart.reset s.harts h v }
def State.core (s : State) (c : Nat) : Core := fget Core.reset s.cores c
def State.setCore (s : State) (c : Nat) (v : Core) : State := { s with cores := fset Core.reset s.cores c v }
def State.press (s : State) (p : Nat) : Press := fget (Press.resetOf s.hub.product p) s.presses p
def State.setPress (s : State) (p : Nat) (v : Press) : State :=
  { s with presses := fset (Press.resetOf s.hub.product p) s.presses p v }
def State.die (s : State) (d : Nat) : Die := fget Die.reset s.dies d
def State.setDie (s : State) (d : Nat) (v : Die) : State := { s with dies := fset Die.reset s.dies d v }
def State.ctx (s : State) (c : Nat) : Ctx := fget Ctx.reset s.ctxs c
def State.setCtx (s : State) (c : Nat) (v : Ctx) : State := { s with ctxs := fset Ctx.reset s.ctxs c v }
def State.vf (s : State) (v : Nat) : Vf := fget Vf.reset s.vfs v
def State.setVf (s : State) (v : Nat) (w : Vf) : State := { s with vfs := fset Vf.reset s.vfs v w }
def State.link (s : State) (p : Nat) : Link := fget Link.reset s.links p
def State.setLink (s : State) (p : Nat) (v : Link) : State := { s with links := fset Link.reset s.links p v }
def State.wearOf (s : State) (c : Nat) : Wear := fget Wear.reset s.wear c
def State.setWear (s : State) (c : Nat) (v : Wear) : State := { s with wear := fset Wear.reset s.wear c v }
def State.ctrl (s : State) (c : Nat) : Ctrl := fget Ctrl.reset s.ctrls c
def State.setCtrl (s : State) (c : Nat) (v : Ctrl) : State := { s with ctrls := fset Ctrl.reset s.ctrls c v }

/-- The acting hart. -/
def State.me (s : State) : Hart := s.hart s.cur
def State.setMe (s : State) (h : Hart) : State := s.setHart s.cur h
def State.myCoreId (s : State) : Nat := coreOfHart s.cur
def State.myCore (s : State) : Core := s.core s.myCoreId
def State.setMyCore (s : State) (c : Core) : State := s.setCore s.myCoreId c
def State.myPressId (s : State) : Nat := pressOfHart s.cur
def State.myPress (s : State) : Press := s.press s.myPressId
/-- The context resident on the acting hart's press; context 0 where none is. -/
def State.myCtxId (s : State) : Nat := s.myPress.resident.getD 0
def State.myCtx (s : State) : Ctx := s.ctx s.myCtxId

/-- Clocks of a press's clock in `t` device clocks of 1.8 GHz (R4, R343). -/
def State.pressClk (s : State) (p t : Nat) : Nat := t * (s.press p).mhz / 1800

/-- `CYCLE` of a core (R21), which stands still while the compute dies' clocks are gated (R347). -/
def State.cycle (s : State) (core : Nat) : Nat :=
  let c := s.core core
  c.cycleBase + (s.pressClk (pressOfCore core) s.coreClk - s.pressClk (pressOfCore core) c.cycleSince)

/-- The state seen by hart `h` acting. -/
def State.actAs (s : State) (h : Nat) : State := { s with cur := h }

/-! Registers of a hart (R12 to R16). -/

/-- x0 reads as zero (R13). -/
def Hart.getX (h : Hart) (r : XReg) : Word64 := if r = 0 then 0 else fget 0 h.x r.toNat

/-- A write to x0 is discarded (R13). -/
def Hart.setX (h : Hart) (r : XReg) (v : Word64) : Hart := if r = 0 then h else { h with x := fset 0 h.x r.toNat v }

/-- p0 reads all true (R16). -/
def Hart.getP (h : Hart) (r : PReg) : BitVec 256 := if r = 0 then BitVec.allOnes 256 else fget 0 h.p r.toNat

/-- A write to p0 is discarded (R16). -/
def Hart.setP (h : Hart) (r : PReg) (v : BitVec 256) : Hart :=
  if r = 0 then h else { h with p := fset 0 h.p r.toNat v }

def Hart.getV (h : Hart) (r : VReg) : VRegister := fget VRegister.zero h.v r.toNat
def Hart.setV (h : Hart) (r : VReg) (v : VRegister) : Hart := { h with v := fset VRegister.zero h.v r.toNat v }

def Hart.level (h : Hart) (n : Nat) : LoopLevel := fget LoopLevel.zero h.loops n
def Hart.setLevel (h : Hart) (n : Nat) (l : LoopLevel) : Hart := { h with loops := fset LoopLevel.zero h.loops n l }

/-- OR flags into `FFLAGS` (R37). -/
def Hart.addFlags (h : Hart) (f : BitVec 6) : Hart := { h with csr := { h.csr with fflags := h.csr.fflags ||| f } }

def State.x (s : State) (r : XReg) : Word64 := s.me.getX r
def State.setX (s : State) (r : XReg) (v : Word64) : State := s.setMe (s.me.setX r v)
def State.addFlags (s : State) (f : BitVec 6) : State := s.setMe (s.me.addFlags f)

/-- A 48-bit address as a 64-bit one, bit 47 extended. -/
def canon48 (a : BitVec 48) : Word64 := a.signExtend 64

/-! Retiring (R21 INSTRET, R85). -/

/-- The end test over levels n − 1 down to 0 for an instruction at `a` whose next sequential address is `nxt` (R85). -/
def endTest (a nxt : Word64) : Nat → Hart → Hart
  | 0, h => { h with pc := nxt }
  | n + 1, h =>
    let l := h.level n
    let a48 : BitVec 48 := a.setWidth 48
    let n48 : BitVec 48 := nxt.setWidth 48
    if !l.active then endTest a nxt n h
    else if !(decide (l.start ≤ a48) && decide (a48 < l.stop) && decide (l.stop ≤ n48)) then { h with pc := nxt }
    else
      let c := l.heldCount.getD l.count
      if c = 0 then
        endTest a nxt n (h.setLevel n { l with
          count := 0, active := false, heldCount := none,
          start := l.heldStart.getD l.start, stop := l.heldStop.getD l.stop, heldStart := none, heldStop := none })
      else
        { h.setLevel n { l with count := c - 1, startCount := c - 1, first := false, heldCount := none } with
          pc := canon48 l.start }

/-- Count one retired instruction. -/
def Hart.countRetired (h : Hart) : Hart := { h with csr := { h.csr with instret := h.csr.instret + 1 } }

/-- The hart after an instruction with a sequential next PC retires: outside handler mode the end test runs (R85, R96). -/
def Hart.retire (h : Hart) : Hart :=
  let h1 := { h.countRetired with wait := .none, waited := 0, parked := 0, wake := none }
  if h.handler then { h1 with pc := h.npc } else endTest h.pc h.npc 4 h1

/-- The hart after a taken branch, jump or return retires at `t`. -/
def Hart.retireTo (h : Hart) (t : Word64) : Hart :=
  { h.countRetired with pc := t, wait := .none, waited := 0, parked := 0, wake := none }

def State.retire (s : State) : State := s.setMe s.me.retire
def State.retireTo (s : State) (t : Word64) : State := s.setMe (s.me.retireTo t)

/-- Write xd and retire. -/
def State.retireX (s : State) (rd : XReg) (v : Word64) : State := (s.setX rd v).retire

/-! Traps (R94 to R97). -/

/-- Causes that go to a supervisor core whatever ETVEC holds (R95, marked S). -/
def supervisorCause (cause : Nat) : Bool := cause == 10 || cause == 14 || cause == 15 || cause == 19

/-- Stop the acting hart with a supervisor core, its state intact (R94) but for the restart index of a vector, function
or matrix instruction (R125, R127). The index delivered with poison that another instruction consumed is 0 (R328). -/
def Hart.stopForSupervisor (h : Hart) (cause : Nat) (eval : Word64) (vri : Option (BitVec 9)) : Hart :=
  { h with
    csr := { h.csr with vri := vri.getD h.csr.vri },
    sup := some { cause := BitVec.ofNat 6 cause, epc := h.pc.setWidth 48, eval := eval, source := eval,
                  vri := vri.getD (if cause = 10 then 0 else h.csr.vri), logSeq := none, emul := none },
    wait := .none, waited := 0, parked := 0, wake := none }

/-- A trap to the context's handler (R94): EPC, ECAUSE, EVAL, VRI for a vector, function or matrix instruction, handler
mode, PC = ETVEC.BASE. -/
def Hart.enterHandler (h : Hart) (cause : Nat) (eval : Word64) (vri : Option (BitVec 9)) : Hart :=
  { h with
    csr := { h.csr with
      epc := (h.pc.setWidth 48) &&& ~~~(3#48), ecause := BitVec.ofNat 6 cause, eval := eval,
      vri := vri.getD h.csr.vri },
    handler := true, pc := canon48 h.csr.etvec, wait := .none, waited := 0, parked := 0, wake := none }

/-- Taking an exception, the one operation every trapping meaning uses (R94 to R96): a trap raised in handler mode is a
double trap, cause 19 with the second cause in EVAL; causes marked S and causes without a handler stop the hart with a
supervisor core; any other cause enters the handler. -/
def Hart.trap (h : Hart) (cause : Nat) (eval : Word64) (vri : Option (BitVec 9)) : Hart :=
  if h.handler then h.stopForSupervisor 19 (BitVec.ofNat 64 cause) vri
  else if supervisorCause cause || h.csr.etvec == 0 then h.stopForSupervisor cause eval vri
  else h.enterHandler cause eval vri

/-- A trap of a scalar instruction: VRI is not written. -/
def State.trap (s : State) (cause : Nat) (eval : Word64) : State := s.setMe (s.me.trap cause eval none)

/-- A trap of a vector, function or matrix instruction with VRI = k (R94, R125, R127). -/
def State.trapV (s : State) (cause : Nat) (eval : Word64) (k : Nat) : State :=
  s.setMe (s.me.trap cause eval (some (BitVec.ofNat 9 k)))

/-- EVAL of an illegal instruction: word 0 in [31:0], with a class in [63:56] and a reason in [55:48] for the faults
that carry them (R57, R164, R172, R226, R248, R283). -/
def illegalEval (ir : Word32) (cls reason : Nat) : Word64 :=
  BitVec.ofNat 8 cls ++ BitVec.ofNat 8 reason ++ 0#16 ++ ir

/-- The illegal-instruction trap (R57). -/
def State.illegal (s : State) : State := s.trap 1 (illegalEval s.me.ir 0 0)

/-- The illegal-instruction trap with a class and reason, scalar. -/
def State.illegalR (s : State) (cls reason : Nat) : State := s.trap 1 (illegalEval s.me.ir cls reason)

/-- EVAL of a resource overrun (R95): kind in [63:56], index or address in [47:0]. -/
def overrunEval (kind : Nat) (i : Nat) : Word64 := BitVec.ofNat 8 kind ++ 0#8 ++ BitVec.ofNat 48 i

/-- `tret` (R97): PC = EPC; when EPC is the end of an active level whose body holds the address before it, the end test
runs as for an instruction that ends there. -/
def Hart.tret (h : Hart) : Hart :=
  let t := canon48 h.csr.epc
  let h1 := { h.countRetired with handler := false, wait := .none, waited := 0, parked := 0, wake := none }
  let prev := h.csr.epc - 1
  let hit := (List.range 4).any fun n =>
    let l := h.level n
    l.active && l.stop == h.csr.epc && decide (l.start ≤ prev) && decide (prev < l.stop)
  if hit then endTest (canon48 prev) t 4 h1 else { h1 with pc := t }

/-! Waits and stops. -/

/-- Whether the instruction a hart has issued is still to complete, in the matrix engine (R171), at a peer (R194) or with the write of
a control register it has read (R89): the hart halts only after it (R374 step 2). -/
def Wait.completes : Wait → Bool
  | .matrix | .tile _ _ _ _ _ | .csrPair _ _ _ _ => true
  | _ => false

/-- Whether a hart goes on of itself in what it has begun without issuing anything: leaving its task, or writing a control register
that it has read. -/
def Wait.goesOn : Wait → Bool
  | .leave _ | .csrPair _ _ _ _ => true
  | _ => false

/-- Whether a stop on its way to a hart has arrived (R374). -/
def Hart.stopArrived (h : Hart) : Bool := h.stopPend.any fun p => decide (6 ≤ p.clk)

/-- Whether a supervisor core holds a hart with an instruction that it is to complete in software (R251). -/
def Hart.emulated (h : Hart) : Bool :=
  match h.sup with
  | some k => k.emul.isSome
  | none => false

/-! Stable insertion sort, which reduces in the kernel. -/

def insertBy {α : Type} (le : α → α → Bool) (x : α) : List α → List α
  | [] => [x]
  | y :: t => if le x y then x :: y :: t else y :: insertBy le x t

def sortBy {α : Type} (le : α → α → Bool) : List α → List α
  | [] => []
  | x :: t => insertBy le x (sortBy le t)

/-! What one clock takes in a stated order (R392, R395): a resource, by number, and the rank taken last. -/

/-- Resources: `mattach` requests of a press (1), arrivals at a bound barrier (2), a sync word (3) and a future word (4) by
storage key, the worklist unit of a die (5), an engine's FIFO (6), the row pools of a core (7). -/
def turnOf (kind i : Nat) : Nat := kind + 8 * i

/-- Note that a resource has taken an event of a rank in this clock. -/
def State.mark (s : State) (resource rank : Nat) : State :=
  { s with marks := fset 0 s.marks resource (max (fget 0 s.marks resource) (rank + 1)) }

/-- Whether a resource may still take an event of a rank in this clock. -/
def State.inTurn (s : State) (e : Nat × Nat) : Bool := decide (fget 0 s.marks e.1 ≤ e.2 + 1)

/-! Logs, counters, events, responses (R322, R334 to R336, R354). -/

/-- Counter numbers in the order of R336. -/
def State.count (s : State) (die k : Nat) : State :=
  let d := s.die die
  s.setDie die { d with counters := fset 0 d.counters k (min (fget 0 d.counters k + 1) (2 ^ 32 - 1)) }

/-- The clock at which an event of a die is logged now (R335): the next one where a later die has logged in this clock, so that
SEQ rises with DIE within a clock, the hub last (log entry 74). -/
def State.logClock (s : State) (die : Nat) : Nat :=
  if s.hub.logClk < s.clk then s.clk
  else if die < s.hub.logDie then s.hub.logClk + 1
  else s.hub.logClk

/-- Append a log entry with the next device-wide SEQ to the log of its die, 4 for the hub, whose entries show DIE 0 (R334,
R335); a log keeps its newest 1024. -/
def State.logEntry (s : State) (e : LogEntry) : State :=
  let d := s.die e.die
  let c := s.logClock e.die
  let e1 := { e with
    seq := s.hub.seq, time := s.hub.time + (c / 1800 - s.clk / 1800), die := if e.die = 4 then 0 else e.die }
  let s1 := s.setDie e.die { d with log := (e1 :: d.log).take 1024, logged := d.logged + 1 }
  { s1 with hub := { s1.hub with seq := s1.hub.seq + 1, logClk := c, logDie := e.die } }

/-- The four doublewords of an entry (R334). -/
def LogEntry.words (e : LogEntry) : List Word64 :=
  [(BitVec.ofNat 32 e.seq ++ BitVec.ofNat 8 e.kind ++ BitVec.ofNat 8 e.code ++ BitVec.ofNat 8 e.result ++ BitVec.ofNat 2 e.die ++
      BitVec.ofNat 6 e.press),
   (BitVec.ofNat 8 e.ctx ++ BitVec.ofNat 3 e.hart ++ BitVec.ofNat 2 e.core ++ BitVec.ofBool e.pa ++ 0#2 ++
      BitVec.ofNat 48 e.addr),
   BitVec.ofNat 64 e.time, e.detail]

/-- A Gysko event (R322). -/
def State.event (s : State) (vf : Option Nat) (seq : Nat) (what : String) : State :=
  { s with hub := { s.hub with events := s.hub.events ++ [{ vf := vf, seq := seq, what := what }] } }

/-- A Gysko response. -/
def State.respond (s : State) (r : Resp) : State := { s with hub := { s.hub with resps := s.hub.resps ++ [r] } }

/-- A log entry of a hart. -/
def hartLog (h kind code ctx : Nat) (phys : Nat) (addr : Nat) (detail : Word64) : LogEntry :=
  { seq := 0, kind := kind, code := code, result := 0, die := dieOfHart h, press := phys, ctx := ctx, hart := h % 8,
    core := coreOfHart h % 4, pa := false, addr := addr, time := 0, detail := detail }

/-- The next value of the free-value counter. -/
def State.bumpFree (s : State) : State := { s with freeNo := s.freeNo + 1 }

end Sys2Proof.Machine
end

