-- ==== Sys2Proof/Machine/Translate.lean ====
section
/-!
DEFINITION. Storage and addresses: the one memory of bytes behind every window (R216), its errors and poison (R323 to R328),
the check order of R79 with the windows of R217 and the page walk of R301 to R303, watchpoints (R373) and the waits a
write wakes (R249).
-/
namespace Sys2Proof.Machine

/-! Storage keys: physical memory at its own address, then each core's scratchpad, each press's cellar slice, each VF's
host window, and memory of other devices behind REMOTE pages (R306). -/

def spadKey (core off : Nat) : Nat := 2 ^ 56 + core * 2 ^ 20 + off
def cellarKey (press off : Nat) : Nat := 2 ^ 57 + press * 2 ^ 25 + off
def hostKey (vf off : Nat) : Nat := 2 ^ 58 + vf * 2 ^ 16 + off
def remoteKey (dev pa : Nat) : Nat := 2 ^ 59 + dev * 2 ^ 52 + pa

/-- Whether a key is a physical memory address. -/
def isPhys (key : Nat) : Bool := decide (key < 2 ^ 56)

/-- Whether a key lies in a scratchpad. -/
def isSpad (key : Nat) : Bool := decide (2 ^ 56 ≤ key) && decide (key < 2 ^ 57)

/-- The core whose scratchpad a key lies in. -/
def spadCore (key : Nat) : Nat := (key - 2 ^ 56) / 2 ^ 20

/-- The unit that carries check bits and poison: a 64-byte sector of memory, a 32-byte bank word on chip (R323). -/
def poisonUnit (key : Nat) : Nat := if key < 2 ^ 56 then key / 64 * 2 else key / 32

/-- Bytes of that unit. -/
def poisonSize (key : Nat) : Nat := if key < 2 ^ 56 then 64 else 32

/-- The die whose supervisor handles errors at a key, 4 for the hub (log entry 23). -/
def dieOfKey (key : Nat) : Nat :=
  if key < 2 ^ 42 then key / 2 ^ 37 % 4
  else if key < 2 ^ 56 then 4
  else if key < 2 ^ 57 then spadCore key / 128
  else if key < 2 ^ 58 then (key - 2 ^ 57) / 2 ^ 25 / 32
  else 4

/-- The CXL port behind an offset in its addresses, for decoders that map `a` and `b` GiB at the two ports: in turn at 4 KiB
while both have memory left (R370; log entry 23 for ports of unlike size). -/
def cxlPort (a b off : Nat) : Nat :=
  if off < 2 * min a b * 2 ^ 30 then off / 4096 % 2 else if a ≤ b then 1 else 0

/-- Whether a key is CXL memory of a port that is down (R370). -/
def State.cxlDown (s : State) (key : Nat) : Bool :=
  decide (0x040000000000 ≤ key) && decide (key < 0x080000000000) &&
    (if cxlPort s.hub.cxl0 s.hub.cxl1 (key - 0x040000000000) = 0 then s.hub.cxlDown0 else s.hub.cxlDown1)

/-- Physical memory the device has: LPDDR 6 at addresses 0 to 0x007F_FFFF_FFFF, and what the HDM decoders map (R370). -/
def State.memExists (s : State) (pa : Nat) : Bool :=
  decide (pa < 0x008000000000) ||
    (decide (0x040000000000 ≤ pa) && decide (pa < 0x040000000000 + min 4096 (s.hub.cxl0 + s.hub.cxl1) * 2 ^ 30))

/-- Whether a key lies in a withdrawn page (R326). -/
def State.pageWithdrawn (s : State) (key : Nat) : Bool :=
  isPhys key && s.ctrls.any fun c => c.2.withdrawn.contains (key / 65536)

/-! Bytes. What an unlisted byte reads as: log entry 1. -/

/-- The byte at a key, as an agent with the memory's owner's key reads it (R366, R367): a free value where the mark of its area
says so. -/
def State.byte (s : State) (key : Nat) : Byte :=
  match s.stale with
  | [] => fget 0 s.mem key
  | l =>
    match l.find? fun a => decide (a.1 ≤ key) && decide (key < a.2.1) with
    | none => fget 0 s.mem key
    | some a => if a.2.2.1 % 4 = 3 then fget 0 s.mem key else Config.staleByte a.2.2.1 a.2.2.2 key (fget 0 s.mem key)

/-- `n` bytes from a key, lowest address first. -/
def State.bytes (s : State) (key : Nat) : Nat → List Byte
  | 0 => []
  | n + 1 => s.byte key :: s.bytes (key + 1) n

/-- A list of bytes as a little-endian number (R6). -/
def leNat : List Byte → Nat
  | [] => 0
  | b :: t => b.toNat + 256 * leNat t

/-- The `n` little-endian bytes of a number. -/
def leBytes : Nat → Nat → List Byte
  | 0, _ => []
  | n + 1, v => BitVec.ofNat 8 v :: leBytes n (v / 256)

/-- The little-endian value of `n` bytes at a key. -/
def State.readLe (s : State) (key n : Nat) : Nat := leNat (s.bytes key n)

/-- A list of areas without [lo, hi). -/
def cutArea (lo hi : Nat) : List (Nat × Nat × (Nat × Nat)) → List (Nat × Nat × (Nat × Nat))
  | [] => []
  | (a, b, m) :: t =>
    (if hi ≤ a ∨ b ≤ lo then [(a, b, m)]
     else (if a < lo then [(a, lo, m)] else []) ++ (if hi < b then [(hi, b, m)] else [])) ++ cutArea lo hi t

/-- The bytes of [lo, hi) become free values. -/
def State.forget (s : State) (lo hi : Nat) : State :=
  { s with stale := (lo, hi, 4 * s.freeNo, 0) :: cutArea lo hi s.stale, freeNo := s.freeNo + 1 }

/-! Memory keys (R366, R367; log entry 69). -/

/-- Whether a physical address lies in a VF's 1 GiB ranges (R297). -/
def State.ownsPa (s : State) (vf pa : Nat) : Bool := (s.vf vf).ranges.contains (pa / 2 ^ 30)

/-- The VF that owns a physical address. -/
def State.ownerOf (s : State) (pa : Nat) : Option Nat := (List.range 16).find? fun v => s.ownsPa v pa

/-- A VF's memory key as a number: each VF has one of its own before any is installed and after a loss, and the same key
installed again is the same key. -/
def State.vkey (s : State) (vf : Nat) : Nat :=
  if (s.vf vf).lostKey then 16 + vf else match (s.vf vf).key with
    | none => vf
    | some k => 32 + k

/-- The key of the VF that owns a physical address; 0 where none does. -/
def State.keyAt (s : State) (pa : Nat) : Nat := ((s.ownerOf pa).map s.vkey).getD 0

/-- The mark of memory at a physical address that was written under a key, and the key its owner has. -/
def State.markOf (s : State) (pa k : Nat) : Nat × Nat :=
  (4 * k + (if (s.ownerOf pa).any fun v => s.vkey v == k then 3 else 2), s.keyAt pa)

/-- The areas under a key are readable where their owner's key is that key. -/
def State.rekeyed (s : State) : State :=
  { s with stale := s.stale.map fun a => if a.2.2.1 % 4 < 2 then a else (a.1, a.2.1, s.markOf a.1 (a.2.2.1 / 4)) }

/-- Note that what a VF's range of memory holds was written under its present key, before the range or the key changes. -/
def State.tagRange (s : State) (vf range : Nat) : State :=
  { s with stale := s.stale ++ [(range * 2 ^ 30, (range + 1) * 2 ^ 30, 4 * s.vkey vf + 3, s.vkey vf)] }

/-- The byte at a key as an agent of a VF reads it, whoever owns the memory now (R366). -/
def State.byteFor (s : State) (vf key : Nat) : Byte :=
  if !isPhys key || s.ownsPa vf key then s.byte key
  else
    match s.stale.find? fun a => decide (a.1 ≤ key) && decide (key < a.2.1) with
    | some a => if a.2.2.1 / 4 = s.vkey vf ∧ 2 ≤ a.2.2.1 % 4 then fget 0 s.mem key
      else Config.staleByte a.2.2.1 (s.vkey vf) key (fget 0 s.mem key)
    | none => if (s.ownerOf key).any fun v => s.vkey v == s.vkey vf then fget 0 s.mem key
      else Config.staleByte (4 * s.keyAt key + 2) (s.vkey vf) key (fget 0 s.mem key)

def State.bytesFor (s : State) (vf key : Nat) : Nat → List Byte
  | 0 => []
  | n + 1 => s.byteFor vf key :: s.bytesFor vf (key + 1) n

/-- One byte takes a value under the key of its memory's owner. -/
def State.putByte (s : State) (key : Nat) (b : Byte) : State :=
  { s with mem := fset 0 s.mem key b, stale := cutArea key (key + 1) s.stale }

/-- Whether a key's 64-byte data unit holds bytes that its memory's owner reads under another key than they were written under. -/
def State.mixedUnit (s : State) (key : Nat) : Bool :=
  isPhys key && s.stale.any fun a => a.2.2.1 % 4 == 2 && decide (a.1 < key / 64 * 64 + 64) && decide (key / 64 * 64 < a.2.1)

/-- A key's data unit is written back whole as its owner reads it: what was written under another key stays lost (R366). -/
def State.wholeUnit (s : State) (key : Nat) : State :=
  (List.range 64).foldl (fun t i => t.putByte (key / 64 * 64 + i) (t.byte (key / 64 * 64 + i))) s

/-- Store one byte under the key of its memory's owner: a part of a data unit that holds bytes of another key rewrites the unit
(R366). -/
def State.setByte (s : State) (key : Nat) (b : Byte) : State :=
  (if s.mixedUnit key then s.wholeUnit key else s).putByte key b

/-- A data unit with the bytes an agent of a VF reads there. -/
def State.unitAs (s : State) (vf u : Nat) : State :=
  (List.range 64).foldl (fun t i => { t with mem := fset 0 t.mem (u + i) (s.byteFor vf (u + i)) }) s

/-- An agent of a VF stores one byte under its key, whoever owns the memory now: the whole data unit is under that key after (R366). -/
def State.setByteFor (s : State) (vf key : Nat) (b : Byte) : State :=
  if !isPhys key || s.ownsPa vf key then s.setByte key b
  else
    let u := key / 64 * 64
    let t := s.unitAs vf u
    { t with mem := fset 0 t.mem key b, stale := (u, u + 64, s.markOf key (s.vkey vf)) :: cutArea u (u + 64) s.stale }

def State.setBytesFor (s : State) (vf key : Nat) : List Byte → State
  | [] => s
  | b :: t => (s.setByteFor vf key b).setBytesFor vf (key + 1) t

/-- Store bytes from a key up. -/
def State.setBytes (s : State) (key : Nat) : List Byte → State
  | [] => s
  | b :: t => (s.setByte key b).setBytes (key + 1) t

/-! Poison (R323 to R328). -/

/-- Whether any unit of `n` bytes at a key is poisoned, and the lowest key that is. -/
def State.poisonedAt (s : State) (key n : Nat) : Option Nat :=
  if s.poison = [] ∧ s.inband = [] ∧ s.ctrls = [] ∧ s.hub.cxlDown0 = false ∧ s.hub.cxlDown1 = false then none
  else (List.range n).findSome? fun i =>
    let k := key + i
    let u := poisonUnit k
    if fget false s.poison u || fget false s.inband u || s.cxlDown k || s.pageWithdrawn k then some k else none

/-- The row or sector of a key: 32 bank words of one of 32 banks on chip (log entry 28), a 64-byte sector of memory
(R324, R329). -/
def testRow (key : Nat) : Nat := if key < 2 ^ 56 then key / 64 else key / 32768 * 32 + key / 32 % 32

/-- The self-test unit of an error at a key (R329). -/
def testUnitOf (key : Nat) : TestUnit := if key < 2 ^ 56 then .sector (testRow key) else .sramRow (testRow key)

/-- Whether a corrected error of a key's row or sector was logged in the last 1 s (R324), by time in µs. -/
def State.recentlyLogged (s : State) (key : Nat) : Bool :=
  s.recent.any fun e => e.1 == testRow key && decide (s.hub.time < e.2 + 1000000)

/-- Mark a unit poisoned: a memory sector enters its controller's record, an on-chip word gets its bit (R323, R325). -/
def State.markPoison (s : State) (key : Nat) : State :=
  let u := poisonUnit key
  { s with
    poison := fset false s.poison u true,
    recordOrder := if isPhys key && !fget false s.poison u then u :: s.recordOrder.filter (fun x => x != u)
      else s.recordOrder }

/-- The log entry of an error at a key (R334): SRAM kinds on chip, memory kinds for LPDDR 6 and CXL; DETAIL is the row or
the page. -/
def keyLog (s : State) (key kind : Nat) : LogEntry :=
  let press := if isSpad key then pressOfCore (spadCore key)
    else if 2 ^ 57 ≤ key ∧ key < 2 ^ 58 then (key - 2 ^ 57) / 2 ^ 25 else 0
  let onPress := decide (2 ^ 56 ≤ key) && decide (key < 2 ^ 58)
  { seq := 0, kind := kind, code := 0, result := 0, die := dieOfKey key,
    press := if onPress then (s.press press).phys else 0, ctx := 0xFF, hart := 0,
    core := if isSpad key then spadCore key % 4 else 0, pa := isPhys key, addr := key % 2 ^ 48, time := s.hub.time,
    detail := BitVec.ofNat 64 (if isPhys key then key / 65536 else testRow key) }

/-- Whether a unit's test runs or began in the last 1 ms (R329). -/
def State.unitBusy (s : State) (u : TestUnit) : Bool :=
  s.tests.any fun t => decide (t.1 = u) && (t.2.2 || decide (s.hub.time < t.2.1 + 1000))

/-- Log an error and have its unit tested, unless its errors go untested for now (R324, R329). -/
def State.logTested (s : State) (e : LogEntry) (u : TestUnit) : State :=
  if s.unitBusy u then s.logEntry { e with result := 3 }
  else
    let s1 := s.logEntry e
    if s1.selfTests.contains u then s1 else { s1 with selfTests := s1.selfTests ++ [u] }

/-- A read finds the latent flaw of a unit: a correctable one is corrected and written back, an uncorrectable one marks
the unit poisoned; counters, log and self-test follow R324. -/
def State.findFlaw (s : State) (key : Nat) : State :=
  let u := poisonUnit key
  let die := dieOfKey key
  match fget 0 s.flaws u with
  | 0 => s
  | 1 =>
    let s1 := { s with flaws := fset 0 s.flaws u 0 }
    let s2 := s1.count die (if isPhys key then 2 else 0)
    if s2.recentlyLogged key then s2
    else
      let s3 := s2.logTested (keyLog s2 key (if isPhys key then 3 else 1)) (testUnitOf key)
      { s3 with recent := (testRow key, s3.hub.time) :: s3.recent.filter fun e => e.1 != testRow key }
  | _ =>
    let s1 := { s with flaws := fset 0 s.flaws u 0 }
    let s2 := (s1.markPoison key).count die (if isPhys key then 3 else 1)
    s2.logTested (keyLog s2 key (if isPhys key then 4 else 2)) (testUnitOf key)

/-- A read of `n` bytes meets the latent flaws of their units. -/
def State.touch (s : State) (key : Nat) : Nat → State
  | 0 => s
  | n + 1 => if s.flaws = [] then s else (s.findFlaw key).touch (key + 1) n

/-- Units are written whole: their poison and latent flaws are gone (R325, R327). -/
def State.cleanUnits (s : State) (units : List Nat) : State :=
  units.foldl (fun t u => { t with
    poison := fset false t.poison u false, inband := fset false t.inband u false, flaws := fset 0 t.flaws u 0 }) s

/-- A write of `n` bytes at a key clears the poison of each unit it covers whole (R325, R327). -/
def State.clearPoison (s : State) (key n : Nat) : State :=
  if s.poison = [] ∧ s.inband = [] ∧ s.flaws = [] then s
  else s.cleanUnits ((List.range n).filterMap fun i =>
    let k := key + i
    if k % poisonSize k = 0 ∧ k + poisonSize k ≤ key + n then some (poisonUnit k) else none)

/-- First key of the unit of a key. -/
def unitStart (key : Nat) : Nat := key / poisonSize key * poisonSize key

/-- Starts of the units that `n` bytes at a key touch. -/
def unitStarts (key n : Nat) : List Nat :=
  (List.range ((key + (n - 1)) / poisonSize key - key / poisonSize key + 1)).map fun i => unitStart key + i * poisonSize key

/-- A write made of several pieces clears the poison of each unit they cover whole together. -/
def State.clearPoisonOf (s : State) (l : List (Nat × Nat)) : State :=
  if s.poison = [] ∧ s.inband = [] ∧ s.flaws = [] then s
  else
    let starts := (l.flatMap fun e => unitStarts e.1 e.2).eraseDups
    s.cleanUnits ((starts.filter fun u => (List.range (poisonSize u)).all fun j =>
      l.any fun e => decide (e.1 ≤ u + j) && decide (u + j < e.1 + e.2)).map poisonUnit)

/-! Waits a write wakes (R249) and watchpoints (R373). -/

/-- Whether [a, a+n) and [b, b+m) share a byte. -/
def overlaps (a n b m : Nat) : Bool := decide (a < b + m) && decide (b < a + n)

/-- A monitored wait on written bytes takes the value after the write (R249). -/
def wakeMonitor (s : State) (key n : Nat) (h : Hart) : Hart :=
  match h.wait with
  | .waitm k m _ _ _ =>
    if h.wake.isNone && overlaps key n k m then { h with wake := some (BitVec.ofNat 64 (s.readLe k m)) } else h
  | _ => h

/-- Every hart parked on a word `n` bytes of which were written is woken. -/
def State.noteWrite (s : State) (key n : Nat) : State :=
  { s with harts := fmapValues Hart.reset (fun _ h => wakeMonitor s key n h) s.harts }

/-- Every hart parked on a word that a write of several pieces touched is woken with the word after the whole write (R123,
R249). -/
def State.noteWrites (s : State) (l : List (Nat × Nat)) : State :=
  { s with harts := fmapValues Hart.reset (fun _ h => l.foldl (fun H e => wakeMonitor s e.1 e.2 H) h) s.harts }

/-- The watchpoints of the core of a scratchpad key that match an access to [key, key+n): their numbers, whether each
is ACT 1 or ACT 2 with its SCOPE, and the first matching byte's key. -/
def State.watchHits (s : State) (key n : Nat) (write : Bool) : List (Nat × WatchPoint × Nat) :=
  if !isSpad key then []
  else
    (s.core (spadCore key)).wps.filterMap fun (i, w) =>
      let on := w.mtch.getLsbD (if write then 0 else 1)
      let hit := (List.range n).find? fun j =>
        let off := (key + j - 2 ^ 56) % 2 ^ 20
        off / 32 == w.word.toNat && w.bytes.getLsbD (off % 32)
      match hit with
      | some j => if on then some (i, w, key + j) else none
      | none => none

/-- WPHIT of every hart of a core (R373). -/
def State.setWphit (s : State) (core : Nat) (bits : BitVec 8) : State :=
  (List.range 8).foldl (fun t i =>
    let h := t.hart (core * 8 + i)
    t.setHart (core * 8 + i) { h with csr := { h.csr with wphit := h.csr.wphit ||| bits } }) s

/-- A stop trigger is on its way to a hart that takes part in its launch, halted or not, for it may be resumed before the trigger
arrives (R374); of several in one clock the first stands (log entry 16). -/
def Hart.addStop (h : Hart) (source : Nat) : Hart :=
  if h.life == .running && !(h.stopPend.any fun p => p.clk == 0) then
    { h with stopPend := h.stopPend ++ [{ clk := 0, source := BitVec.ofNat 4 source, skid := 0, counted := false }] }
  else h

/-- A stop trigger (R374): every hart of the context resident on the press halts in six clocks, on that press or on its
whole die. -/
def State.stopTrigger (s : State) (press : Nat) (wholeDie : Bool) (source : Nat) : State :=
  match (s.press press).resident with
  | none => s
  | some c =>
    { s with harts := fmapValues Hart.reset (fun h H =>
        let p := pressOfHart h
        let inScope := if wholeDie then dieOfPress p == dieOfPress press else p == press
        if inScope && (s.press p).resident == some c then H.addStop source else H) s.harts }

/-- Watchpoints test an access: hits recorded, triggers raised, and the first byte of a match with ACT 2 when the
access is one that ACT 2 refuses. Debug locked: as if idle (R371). -/
def State.watch (s : State) (key n : Nat) (write refusable : Bool) : State × Option Nat :=
  if !s.hub.debugUnlocked then (s, none)
  else
    let hits := s.watchHits key n write
    match hits with
    | [] => (s, none)
    | _ =>
      let core := spadCore key
      let bits : BitVec 8 := hits.foldl (fun b e => b ||| (1#8 <<< e.1)) 0
      let s1 := s.setWphit core bits
      let s2 := hits.foldl (fun t e => if e.2.1.act = 1 then t.stopTrigger (pressOfCore core) e.2.1.scope 1 else t) s1
      let refuse := if refusable then (hits.filter fun e => e.2.1.act = 2).map (fun e => e.2.2) else []
      (s2, refuse.foldl (fun m k => match m with | none => some k | some j => some (min j k)) none)

/-! Translation and access checks. -/

/-- What an access is for (R59, R303). -/
inductive Acc where
  | load | store | atomic | fetch
deriving DecidableEq, Repr

/-- A failed check: its place in the order of R79 (6 for poison met by the walk), cause and whether EVAL carries an
overrun kind. -/
structure Fail where
  order : Nat
  cause : Nat
deriving DecidableEq, Repr

/-- Whether a physical address of another device lies in the VF's memory there (R306). -/
def State.ownsRemote (s : State) (vf dev pa : Nat) : Bool := (s.vf vf).remote.contains (dev, pa / 2 ^ 30)

/-- A table entry's fields (R302). -/
def pteV (e : Word64) : Bool := e.getLsbD 0
def pteLeaf (e : Word64) : Bool := e.getLsbD 1
def pteRd (e : Word64) : Bool := e.getLsbD 2
def pteW (e : Word64) : Bool := e.getLsbD 3
def pteX (e : Word64) : Bool := e.getLsbD 4
def pteRemote (e : Word64) : Bool := e.getLsbD 7
def pteDev (e : Word64) : Nat := (e.extractLsb 59 56).toNat
def pteAddr (e : Word64) : Nat := (e.extractLsb 51 8).toNat * 256

/-- The bits of an entry that must be zero (R302). -/
def pteZeroOk (e : Word64) : Bool :=
  e.extractLsb 63 60 == 0 && e.extractLsb 55 52 == 0 && e.extractLsb 6 5 == 0 &&
    (pteDev e == 0 || (pteLeaf e && pteRemote e))

/-- Page size a leaf of a level maps (R301). -/
def leafSize (level : Nat) : Nat := if level = 2 then 2 ^ 30 else if level = 3 then 2 ^ 21 else 2 ^ 16

/-- Index of a level's table (R301). -/
def vaIndex (level va : Nat) : Nat :=
  if level = 1 then va / 2 ^ 39 % 512 else if level = 2 then va / 2 ^ 30 % 512
  else if level = 3 then va / 2 ^ 21 % 512 else va / 2 ^ 16 % 32

/-- Permission of a leaf for an access (R59, R303): a store to an executable page of a running context is refused. Only the leaf
the store itself goes through is looked at, not another mapping of the same memory: DESIGN CHOICE, log entry 56. -/
def leafAllows (acc : Acc) (running : Bool) (e : Word64) : Bool :=
  match acc with
  | .load => pteRd e
  | .store => pteW e && !(running && pteX e)
  | .atomic => pteRd e && pteW e && !(running && pteX e)
  | .fetch => pteX e

/-- Whether an entry's page or next table lies in the VF's memory (R303 check 2): on this device, or for a REMOTE leaf on the
device it names (R306). -/
def State.ownsEntry (s : State) (vf : Nat) (e : Word64) : Bool :=
  if pteLeaf e && pteRemote e then s.ownsRemote vf (pteDev e) (pteAddr e) else s.ownsPa vf (pteAddr e)

/-- Check 1 of R303 on an entry read at a level. -/
def entryBad (level : Nat) (e : Word64) : Bool :=
  !pteV e || !pteZeroOk e || (pteLeaf e && level == 1) || (!pteLeaf e && level == 4) ||
    (pteLeaf e && pteAddr e % leafSize level != 0) || (!pteLeaf e && decide (level < 3) && pteAddr e % 4096 != 0)

/-- Whether a read of `n` bytes at a key is a read of poison, be it that it finds the error itself (R323). -/
def State.badAt (s : State) (key n : Nat) : Bool :=
  (s.poisonedAt key n).isSome ||
    (s.flaws != [] && (List.range n).any fun i => decide (2 ≤ fget 0 s.flaws (poisonUnit (key + i))))

/-- Whether a walk's read of an entry is a read of poison. -/
def State.entryPoisoned (s : State) (key : Nat) : Bool := s.badAt key 8

/-- The walk from a table at `table` over the levels left (R301 to R303), as an entry and its page size; `allows` is check 3 on
the leaf. The tables are read under the VF's key. -/
def State.walkFrom (s : State) (vf va : Nat) (allows : Word64 → Bool) : Nat → Nat → Nat → Except Fail (Word64 × Nat)
  | 0, _, _ => .error { order := 1, cause := 4 }
  | n + 1, level, table =>
    let key := table + vaIndex level va * 8
    let e : Word64 := BitVec.ofNat 64 (leNat (s.bytesFor vf key 8))
    if entryBad level e then .error { order := 1, cause := 4 }
    else if !s.ownsEntry vf e then .error { order := 2, cause := 5 }
    else if pteLeaf e && !allows e then .error { order := 2, cause := 5 }
    else if s.entryPoisoned key then .error { order := 6, cause := 10 }
    else if pteLeaf e then .ok (e, leafSize level)
    else s.walkFrom vf va allows n (level + 1) (pteAddr e)

/-- Keys of the entries a walk reads. -/
def State.walkKeys (s : State) (vf va : Nat) : Nat → Nat → Nat → List Nat
  | 0, _, _ => []
  | n + 1, level, table =>
    let key := table + vaIndex level va * 8
    let e : Word64 := BitVec.ofNat 64 (leNat (s.bytesFor vf key 8))
    if entryBad level e || !s.ownsEntry vf e || s.entryPoisoned key || pteLeaf e then [key]
    else key :: s.walkKeys vf va n (level + 1) (pteAddr e)

/-- The cached translation of a VA of a context. -/
def State.cached (s : State) (ctx va : Nat) : Option TlbEntry :=
  s.tlb.find? fun t => t.ctx == ctx && decide (t.va ≤ va) && decide (va < t.va + t.size)

/-- The leaf that maps a VA of a context: a cached one (R304, R305) or the walk's. A cached one gives what a walk would give of
it, so its page must still be the VF's (log entry 57). -/
def State.leafOf (s : State) (ctx va : Nat) (allows : Word64 → Bool) : Except Fail (Word64 × Nat) :=
  match s.cached ctx va with
  | some t =>
    if s.ownsEntry (vfOfCtx ctx) t.leaf && allows t.leaf then .ok (t.leaf, t.size) else .error { order := 2, cause := 5 }
  | none => s.walkFrom (vfOfCtx ctx) va allows 4 1 (s.ctx ctx).cfg.tbase

/-- Translation of a canonical global VA (its low 48 bits) to a storage key. -/
def State.translate (s : State) (ctx va : Nat) (acc : Acc) (running : Bool) : Except Fail Nat :=
  match s.leafOf ctx va (leafAllows acc running) with
  | .error f => .error f
  | .ok (e, size) =>
    let pa := pteAddr e + va % size
    .ok (if pteRemote e then remoteKey (pteDev e) pa else pa)

/-- Whether a VA lies in the range of the fixed windows (R216). -/
def inWindow (va : Nat) : Bool :=
  decide (va < 0x100000) || (decide (0x7F0000000000 ≤ va) && decide (va < 0x800000000000))

/-- A walk for a VA of a context meets the latent flaws of the entries it reads (R323). -/
def State.meetWalk (s : State) (ctx va : Nat) : State :=
  if s.flaws = [] then s
  else if (va / 2 ^ 47 ≠ 0 ∧ va / 2 ^ 47 ≠ 2 ^ 17 - 1) ∨ inWindow va = true ∨ (s.cached ctx (va % 2 ^ 48)).isSome then s
  else (s.walkKeys (vfOfCtx ctx) (va % 2 ^ 48) 4 1 (s.ctx ctx).cfg.tbase).foldl (fun t k => t.touch k 8) s

/-- The scratchpad of core `k` at an offset, for an issuing core and context (R217). -/
def State.spadAccess (s : State) (core ctx spad k off : Nat) : Except Fail Nat :=
  let p := pressOfCore k
  if !(s.press p).enabled then .error { order := 3, cause := 6 }
  else if !((s.ctx ctx).cfg.presses.contains p) then .error { order := 2, cause := 5 }
  else if k == core && decide (spad ≤ off) then .error { order := 4, cause := 2 }
  else .ok (spadKey k off)

/-- Check 1 to 5 of R79 for one byte address of an issuing core, context and `.spad` limit, and its storage key. -/
def State.resolve (s : State) (core ctx spad : Nat) (va : Nat) (acc : Acc) : Except Fail Nat :=
  let die := dieOfCore core
  if va / 2 ^ 47 ≠ 0 ∧ va / 2 ^ 47 ≠ 2 ^ 17 - 1 then .error { order := 1, cause := 4 }
  else if va < 0x100000 then
    if acc = .fetch then .error { order := 2, cause := 5 } else s.spadAccess core ctx spad core va
  else if 0x7F0000000000 ≤ va ∧ va < 0x7F0000400000 then
    if acc = .fetch then .error { order := 2, cause := 5 }
    else s.spadAccess core ctx spad (core / 4 * 4 + (va - 0x7F0000000000) / 2 ^ 20) (va % 2 ^ 20)
  else if 0x7F0010000000 ≤ va ∧ va < 0x7F0018000000 then
    if acc = .fetch then .error { order := 2, cause := 5 }
    else s.spadAccess core ctx spad (die * 128 + (va - 0x7F0010000000) / 2 ^ 20) (va % 2 ^ 20)
  else if 0x7F0100000000 ≤ va ∧ va < 0x7F0140000000 then
    if acc = .fetch then .error { order := 2, cause := 5 }
    else
      let p := die * 32 + (va - 0x7F0100000000) / 2 ^ 25
      let off := va % 2 ^ 25
      if !(s.press p).enabled || decide (20971520 ≤ off) then .error { order := 3, cause := 6 }
      else if !((s.ctx ctx).cfg.presses.contains p) then .error { order := 2, cause := 5 }
      else if acc = .store ∨ acc = .atomic then .error { order := 5, cause := 16 }
      else .ok (cellarKey p off)
  else if 0x7F0200000000 ≤ va ∧ va < 0x7F0200010000 then
    if acc = .fetch then .error { order := 2, cause := 5 } else .ok (hostKey (vfOfCtx ctx) (va % 2 ^ 16))
  else if 0x7F0000000000 ≤ va ∧ va < 0x800000000000 then .error { order := 1, cause := 4 }
  else s.translate ctx (va % 2 ^ 48) acc true

/-- Addresses of [va, va+n) at which the outcome of `resolve` can change: the first, each multiple of 64 KiB, and the
`.spad` limit in each own window. -/
def segmentStarts (va n : Nat) (spad core : Nat) : List Nat :=
  let pages := (List.range (n / 65536 + 2)).map fun i => (va / 65536 + i) * 65536
  let limits := [spad, 0x7F0000000000 + core % 4 * 2 ^ 20 + spad, 0x7F0010000000 + core % 128 * 2 ^ 20 + spad]
  (va :: pages ++ limits).filter fun a => decide (va ≤ a) && decide (a < va + n)

/-- Where the storage of a window address ends; global memory has no such end (R217). -/
def storageEnd (va : Nat) : Option Nat :=
  if va < 0x100000 then some 0x100000
  else if 0x7F0000000000 ≤ va ∧ va < 0x7F0000400000 ∨ 0x7F0010000000 ≤ va ∧ va < 0x7F0018000000 then
    some ((va / 2 ^ 20 + 1) * 2 ^ 20)
  else if 0x7F0100000000 ≤ va ∧ va < 0x7F0140000000 ∧ va % 2 ^ 25 < 20971520 then
    some (va / 2 ^ 25 * 2 ^ 25 + 20971520)
  else if 0x7F0200000000 ≤ va ∧ va < 0x7F0200010000 then some 0x7F0200010000
  else none

/-- The better of two failed checks: the lower order, then the lower address (R79). -/
def worseFail (best : Option (Fail × Nat)) (f : Fail) (a : Nat) : Option (Fail × Nat) :=
  match best with
  | none => some (f, a)
  | some (g, b) => if f.order < g.order ∨ (f.order = g.order ∧ a < b) then some (f, a) else best

/-- The first failing check over a range (R79): a range that starts in a window's storage and runs past it fails the
scratchpad-bounds check at the first byte beyond. -/
def State.rangeFail (s : State) (core ctx spad va n : Nat) (acc : Acc) : Option (Fail × Nat) :=
  let stop := (storageEnd va).getD (va + n)
  let inside := (segmentStarts va (min n (stop - va)) spad core).foldl (fun best a =>
    match s.resolve core ctx spad (a % 2 ^ 64) acc with
    | .ok _ => best
    | .error f => worseFail best f a) none
  if stop < va + n then worseFail inside { order := 3, cause := 6 } stop else inside

/-- The walks for a range of addresses of a context. -/
def State.meetRange (s : State) (ctx va n : Nat) : State :=
  if s.flaws = [] then s
  else ((List.range (n / 65536 + 2)).filterMap fun i =>
    let a := if i = 0 then va else (va / 65536 + i) * 65536
    if a < va + n then some (a % 2 ^ 64) else none).foldl (fun t a => t.meetWalk ctx a) s

/-- Starts and lengths of the 64 KiB pieces of a range. -/
def pieces (va n : Nat) : List (Nat × Nat) :=
  (List.range (n / 65536 + 2)).filterMap fun i =>
    let a := if i = 0 then va else (va / 65536 + i) * 65536
    let b := min (va + n) ((va / 65536 + i + 1) * 65536)
    if b ≤ a then none else some (a, b - a)

/-- The storage behind a range that has passed `rangeFail`: keys and lengths of its pieces, cut at 64 KiB. -/
def State.segments (s : State) (core ctx spad va n : Nat) (acc : Acc) : List (Nat × Nat) :=
  (List.range (n / 65536 + 2)).filterMap fun i =>
    let a := if i = 0 then va else (va / 65536 + i) * 65536
    let b := min (va + n) ((va / 65536 + i + 1) * 65536)
    if b ≤ a then none
    else
      match s.resolve core ctx spad (a % 2 ^ 64) acc with
      | .ok key => some (key, b - a)
      | .error _ => none

/-- The bytes of a range. -/
def State.readSegs (s : State) : List (Nat × Nat) → List Byte
  | [] => []
  | (k, n) :: t => s.bytes k n ++ s.readSegs t

/-- A read meets the latent flaws of a range. -/
def State.touchSegs (s : State) : List (Nat × Nat) → State
  | [] => s
  | (k, n) :: t => (s.touch k n).touchSegs t

/-- Offset in a range of its first poisoned byte. -/
def State.poisonedSegs (s : State) : List (Nat × Nat) → Nat → Option Nat
  | [], _ => none
  | (k, n) :: t, off =>
    match s.poisonedAt k n with
    | some j => some (off + (j - k))
    | none => s.poisonedSegs t (off + n)

/-- Whether a read of a range is a read of poison. -/
def State.badSegs (s : State) (l : List (Nat × Nat)) : Bool := l.any fun e => s.badAt e.1 e.2

/-- Watchpoints test a range: the state after, and the offset of the first byte an ACT 2 refuses. -/
def State.watchSegs (s : State) (write refusable : Bool) : List (Nat × Nat) → Nat → State × Option Nat
  | [], _ => (s, none)
  | (k, n) :: t, off =>
    let w := s.watch k n write refusable
    let r := w.1.watchSegs write refusable t (off + n)
    (r.1, match w.2 with | some j => some (off + (j - k)) | none => r.2)

/-- EVAL of a failed access check (R95): an overrun carries kind 7. -/
def failEval (f : Fail) (va : Nat) : Word64 :=
  if f.cause = 2 then overrunEval 7 va else BitVec.ofNat 64 va

/-- What a hart's access comes to: the state after its recorded side effects and the storage key, or a trap. -/
inductive Access where
  | ok (s : State) (key : Nat)
  | bad (s : State) (cause : Nat) (eval : Word64)
deriving Repr

/-- Resolve an address for the acting hart. -/
def State.resolveMe (s : State) (va : Nat) (acc : Acc) : Except Fail Nat :=
  s.resolve s.myCoreId s.myCtxId s.me.header.spad va acc

/-- Whether `n` bytes at a key run past what the kernel header declares of the acting hart's own scratchpad (R79 order 4,
R217). -/
def State.pastSpad (s : State) (key n : Nat) : Bool :=
  isSpad key && spadCore key == s.myCoreId && decide (s.me.header.spad < (key - 2 ^ 56) % 2 ^ 20 + n)

/-- The checks of R79 for every byte of one naturally aligned access of the acting hart: its bytes share page and window, so only
the `.spad` limit can tell them apart. -/
def State.resolveAll (s : State) (va n : Nat) (acc : Acc) : Except Fail Nat :=
  match s.resolveMe va acc with
  | .error f => .error f
  | .ok key => if s.pastSpad key n then .error { order := 4, cause := 2 } else .ok key

/-- Whether data at a key reaches the acting hart over the fabric in a flit that arrives poisoned (R323, R327). -/
def State.flitHits (s : State) (key : Nat) : Bool := s.me.flit && !(isSpad key && spadCore key == s.myCoreId)

/-- The poisoned flit has been delivered. -/
def State.flitOver (s : State) : State := if s.me.flit then s.setMe { s.me with flit := false } else s

/-- One access of `n` bytes by the acting hart: alignment to `align`, the checks of R79, the watchpoints (R373), then the
poison a read consumes (R328). `reads` and `writes` say which halves the access has. -/
def State.accessIn (s : State) (va n align : Nat) (acc : Acc) (reads writes refusable : Bool) : Access :=
  if va % align ≠ 0 then .bad s 3 (BitVec.ofNat 64 va)
  else
    match s.resolveAll va n acc with
    | .error f => .bad s f.cause (failEval f va)
    | .ok key =>
      let w1 := if reads then s.watch key n false refusable else (s, none)
      let w2 := if writes then w1.1.watch key n true refusable else (w1.1, none)
      let hit := match w1.2, w2.2 with
        | some a, some b => some (min a b)
        | some a, none => some a
        | none, b => b
      match hit with
      | some k => .bad w2.1 12 (BitVec.ofNat 64 (va + (k - key)))
      | none =>
        let s1 := if reads then w2.1.touch key n else w2.1
        if reads && s1.flitHits key then .bad s1.flitOver 10 (BitVec.ofNat 64 va)
        else if reads && (s1.poisonedAt key n).isSome then .bad s1 10 (BitVec.ofNat 64 va)
        else .ok s1 key

/-- The access, after the page walk it may take. -/
def State.access (s : State) (va n align : Nat) (acc : Acc) (reads writes refusable : Bool) : Access :=
  (if va % align ≠ 0 then s else s.meetWalk s.myCtxId va).accessIn va n align acc reads writes refusable

/-- A store of bytes at a key by any agent: the bytes, the poison they cover, the waits they wake. -/
def State.storeAt (s : State) (key : Nat) (bs : List Byte) : State :=
  ((s.setBytes key bs).clearPoison key bs.length).noteWrite key bs.length

/-- One write made of several pieces, in order (R123, R327): every byte, then the poison they cover together and the waits they
wake. -/
def State.storeMany (s : State) (l : List (Nat × List Byte)) : State :=
  let ranges := l.map fun e => (e.1, e.2.length)
  ((l.foldl (fun t e => t.setBytes e.1 e.2) s).clearPoisonOf ranges).noteWrites ranges

/-- Store bytes over a range. -/
def State.storeSegs (s : State) : List (Nat × Nat) → List Byte → State
  | [], _ => s
  | (k, n) :: t, bs => if bs = [] then s else (s.storeAt k (bs.take n)).storeSegs t (bs.drop n)

/-- The range checks and pieces of an access by the acting hart. -/
def State.rangeFailMe (s : State) (va n : Nat) (acc : Acc) : Option (Fail × Nat) :=
  s.rangeFail s.myCoreId s.myCtxId s.me.header.spad va n acc

def State.segmentsMe (s : State) (va n : Nat) (acc : Acc) : List (Nat × Nat) :=
  s.segments s.myCoreId s.myCtxId s.me.header.spad va n acc

end Sys2Proof.Machine
end

