-- ==== Sys2Proof/Machine/Operands.lean ====
section
/-!
DEFINITION. Operand forms: sign extension of immediates (R52), scalar values of a type in x registers (R74, R77, R78),
containers of vector elements (R100 to R103), allocation of rows (R129, R163), and the element loop every elementwise
vector instruction runs (R103, R125, R128, R328).
-/
namespace Sys2Proof.Machine

/-! Immediates. -/

/-- A two's-complement immediate extended to 64 bits. -/
def sext {n : Nat} (i : BitVec n) : Word64 := i.signExtend 64

/-- A word offset in bytes: counted in 4-byte words (R52). -/
def wordOff {n : Nat} (i : BitVec n) : Word64 := i.signExtend 64 <<< 2

/-! Scalar values. -/

/-- The low width(t) bits of an x register (R74, R77). -/
def lowBits (t : ElemTy) (x : Word64) : Nat := x.toNat % 2 ^ t.width

/-- A value of a type as all 64 bits of an x register: sN sign-extended, any other type zero-extended (R74, R77, R78). -/
def extendX (t : ElemTy) (bits : Nat) : Word64 :=
  if elemSigned t then BitVec.ofInt 64 (intOf t bits) else BitVec.ofNat 64 (bits % 2 ^ t.width)

/-- Bytes of a type. -/
def elemBytes (t : ElemTy) : Nat := t.width / 8

/-- Access size of a log2 field (R64). -/
def sizeOfLog (z : Nat) : Nat := 2 ^ z

/-! Vector registers. -/

/-- Rows per element container: two for ETYPE 1, one otherwise (R100). -/
def wideRows (etype : BitVec 2) : Nat := if etype = 1 then 2 else 1

/-- Row word `r` of element `e`. -/
def VRegister.row (v : VRegister) (e r : Nat) : Word32 := fget 0 v.data (e * 256 + r)

/-- Write row word `r` of element `e`: a part of its bank word, whose poison stays (R327). -/
def VRegister.setRow (v : VRegister) (e r : Nat) (w : Word32) : VRegister :=
  { v with data := fset 0 v.data (e * 256 + r) w }

/-- Whether the bank word that holds row `r` of element `e` is poisoned: 32 bytes, the row of eight elements (R323, R350; log
entry 28). -/
def VRegister.badRow (v : VRegister) (e r : Nat) : Bool := fget false v.bad (e / 8 * 256 + r)

/-- Bank words all of whose elements an instruction has written lose their poison (R327); `written` says which those are. -/
def VRegister.wrote (v : VRegister) (written : Nat → Bool) : VRegister :=
  { v with bad := v.bad.filter fun b => !((List.range 8).all fun i => written (b.1 / 256 * 8 + i)) }

/-- The container of element `e`: row 0, or rows 0 and 1 (R100, R102). -/
def VRegister.elem (v : VRegister) (e : Nat) : Nat :=
  if v.desc.etype = 1 then (v.row e 0).toNat + (v.row e 1).toNat * 2 ^ 32 else (v.row e 0).toNat

/-- Whether reading element `e` meets poison. -/
def VRegister.badElem (v : VRegister) (e : Nat) : Bool :=
  v.badRow e 0 || (v.desc.etype == 1 && v.badRow e 1)

/-- Write the container of element `e` with container bits. -/
def VRegister.setElem (v : VRegister) (e : Nat) (bits : Nat) : VRegister :=
  if v.desc.etype = 1 then (v.setRow e 0 (BitVec.ofNat 32 bits)).setRow e 1 (BitVec.ofNat 32 (bits / 2 ^ 32))
  else v.setRow e 0 (BitVec.ofNat 32 bits)

/-- A value of a type as container bits: sN with copies of the sign above, float and zN with zeros (R100). -/
def containerBits (t : ElemTy) (bits : Nat) : Nat := (extendX t bits).toNat

/-- ETYPE of a result (R101). -/
def etypeOf (t : ElemTy) : BitVec 2 :=
  if t.width = 64 then 1 else if t.isInt then 2 else 0

/-- Logical clusters that hold an element below `vl` (R105). -/
def spanned (vl : Nat) : BitVec 16 := BitVec.ofNat 16 (2 ^ ((vl + 15) / 16) - 1)

/-- The clusters of the mirrors of elements 0 to `vl` − 1 in protected mode on `g` clusters: the slots of elements e + 8G
(R128). -/
def mirrors (g vl : Nat) : BitVec 16 :=
  if vl = 0 then 0 else BitVec.ofNat 16 (2 ^ ((8 * g + vl - 1) / 16 + 1) - 2 ^ (8 * g / 16))

/-- The logical clusters in which a register written with `vl` elements holds rows: the spanned ones and, with
tail-undisturbed, those it held (R103, R129); in protected mode the mirrors' too (R163). -/
def heldAfter (h : Hart) (old : BitVec 16) : BitVec 16 :=
  let sp := spanned h.csr.vl.toNat
  let m := if h.csr.vpolTd then sp else sp ||| old
  if h.pmInForce then m ||| mirrors h.grant h.csr.vl.toNat else m

/-- Rows a register holds in logical cluster `c`. -/
def VRegister.rowsAt (v : VRegister) (c : Nat) : Nat := if v.held.getLsbD c then fget v.rows v.surplus c else 0

/-- The clusters that hold another number than `new` while an instruction that gives the register `new` rows in the clusters of
`mask` runs, and after it has faulted part-way: it frees rows when it completes only (R101, R129). -/
def VRegister.surplusDuring (v : VRegister) (new : Nat) (mask : BitVec 16) : FMap Nat :=
  (List.range 16).filterMap fun c =>
    let n := if mask.getLsbD c then max (v.rowsAt c) new else v.rowsAt c
    if v.held.getLsbD c && n != new then some (c, n) else none

/-- Rows a hart holds in physical cluster `p` of its core. -/
def hartRowsIn (h : Hart) (p : Nat) : Nat :=
  (List.range h.lmap.length).foldl (fun acc i =>
    if h.lmap[i]? = some p then
      h.v.foldl (fun a e => a + e.2.rowsAt i) acc
    else acc) 0

/-- Rows in use in physical cluster `p` of a core's pools, of 512 (R23). -/
def State.rowsIn (s : State) (core p : Nat) : Nat :=
  (List.range 8).foldl (fun acc i => acc + hartRowsIn (s.hart (core * 8 + i)) p) 0

/-- Rows a write of a register needs in logical cluster `c` beyond those it holds there (R163). -/
def rowsNeeded (v : VRegister) (newRows : Nat) (mask : BitVec 16) (c : Nat) : Nat :=
  if mask.getLsbD c then newRows - v.rowsAt c else 0

/-- The row request of the acting hart for registers with their new row counts and clusters (R129, R163): `none` when
every pool meets it, else the rows needed. -/
def State.rowRequest (s : State) (rs : List (VRegister × Nat × BitVec 16)) : Option Nat :=
  let h := s.me
  let core := s.myCoreId
  let need := fun c => (rs.map fun r => rowsNeeded r.1 r.2.1 r.2.2 c).sum
  let short := (List.range 16).any fun c =>
    let n := need c
    n != 0 && (match h.lmap[c]? with
      | some p => decide (512 < s.rowsIn core p + n)
      | none => false)
  if short then some ((List.range 16).map need).sum else none

/-- Rows of a register kept when its row count or its clusters change: rows below `keepRows` of elements in `mask`. -/
def VRegister.restrict (v : VRegister) (keepRows : Nat) (mask : BitVec 16) : VRegister :=
  let ok := fun (size k : Nat) => decide (k % 256 < keepRows) && mask.getLsbD (k / 256 / size)
  { v with data := ffilter (ok 16) v.data, bad := ffilter (ok 2) v.bad }

/-- The destination of a vector instruction while it runs (R101, R103): degree-0 point descriptor, the container width of
ETYPE, kept values narrowed or widened, rows in every cluster that held some or gets some. -/
def VRegister.vecDest (v : VRegister) (h : Hart) (etype : BitVec 2) : VRegister :=
  let w := wideRows etype
  let mask := v.held ||| heldAfter h v.held
  let v1 := v.restrict (min w (wideRows v.desc.etype)) mask
  { v1 with
    desc := { v.desc with shape := 0, deg := 0, basis := 0, etype := etype }, rows := w, held := mask,
    surplus := v.surplusDuring w (heldAfter h v.held) }

/-- The destination once the instruction completes: rows only where `held0`, its clusters before, and R103 leave them;
elements at or beyond VL read as zero under TD = 1. -/
def VRegister.settle (v : VRegister) (h : Hart) (held0 : BitVec 16) : VRegister :=
  let mask := heldAfter h held0
  let v1 := v.restrict 256 mask
  let v2 := { v1 with held := mask, surplus := [] }
  if h.csr.vpolTd then
    { v2 with data := ffilter (fun k => decide (k / 256 < h.csr.vl.toNat)) v2.data }
  else v2

/-- The elements that an instruction has written once it completes: the active ones and, under TD = 1, those at or beyond VL. -/
def Hart.wroteAll (h : Hart) (acts : List Nat) (e : Nat) : Bool :=
  acts.contains e || (h.csr.vpolTd && decide (h.csr.vl.toNat ≤ e))

/-- The elements that an instruction has written once it has faulted at element `k`. -/
def wroteBelow (acts : List Nat) (k e : Nat) : Bool := acts.contains e && decide (e < k)

/-- Whether element `e` is active under predicate bits (R103). -/
def Hart.active (h : Hart) (p : BitVec 256) (e : Nat) : Bool :=
  decide (e < h.csr.vl.toNat) && decide (h.csr.vri.toNat ≤ e) && p.getLsbD e

/-- Elements below VL whose predicate bit is 1, in increasing order: the active elements of an instruction that restarts whole,
which reads `VRI` only when it is zero (R126). -/
def Hart.setBelow (h : Hart) (p : BitVec 256) : List Nat := (List.range h.csr.vl.toNat).filter fun e => p.getLsbD e

/-- The active elements in increasing order. -/
def Hart.actives (h : Hart) (p : BitVec 256) : List Nat := (List.range h.csr.vl.toNat).filter (h.active p)

/-- How an element-by-element execution ends: after every element, or at element k with a cause and EVAL. -/
inductive VecEnd where
  | done
  | stop (k cause : Nat) (eval : Word64)
deriving DecidableEq, Repr

/-- Element results in increasing order until one faults: container bits and flags folded into a register. -/
def vecFold (f : Nat → Except (Nat × Word64) (Nat × FpFlags)) :
    List Nat → VRegister → FpFlags → VRegister × FpFlags × VecEnd
  | [], v, fl => (v, fl, .done)
  | e :: t, v, fl =>
    match f e with
    | .ok (b, g) => vecFold f t (v.setElem e b) (fl ||| g)
    | .error (c, ev) => (v, fl, .stop e c ev)

/-- The first element at which a protected copy differs, if the instruction reaches it (R128). -/
def Hart.mismatchAt (h : Hart) (acts : List Nat) : Option Nat :=
  match h.laneFault with
  | some m => if h.pmInForce && acts.contains m then some m else none
  | none => none

/-- The checks before the first element of an instruction that gives registers `w` rows per cluster (R129, R162, R163):
a cause and its EVAL. -/
def State.rowCheck (s : State) (vds : List VReg) (w : Nat) : Option (Nat × Word64) :=
  let h := s.me
  if h.header.rows < w then some (2, overrunEval 6 w)
  else
    (s.rowRequest (vds.map fun r =>
      let v := h.getV r
      (v, w, heldAfter h v.held))).map fun n => (7, BitVec.ofNat 64 n)

/-- Log entry of a hart's error, with its context and physical press (R334). -/
def State.myLog (s : State) (kind code addr : Nat) (detail : Word64) : LogEntry :=
  hartLog s.cur kind code s.myCtxId s.myPress.phys addr detail

/-- A mismatch between the two copies at element `m` (R128, R322): counted, logged, its lane cluster tested, cause 11. -/
def State.mismatch (s : State) (m vri : Nat) : State :=
  let s1 := (s.count (dieOfHart s.cur) 7).logTested (s.myLog 8 11 0 (BitVec.ofNat 64 m))
    (.cluster s.myCoreId (s.me.lmap.getD (m / 16) 0))
  (s1.setMe { s1.me with laneFault := none }).trapV 11 (BitVec.ofNat 64 m) vri

/-- Ending an element-by-element execution at element `k`: a mismatch or another cause. -/
def State.vecTrap (s : State) (cause : Nat) (eval : Word64) (k : Nat) : State :=
  if cause = 11 then s.mismatch eval.toNat k else s.trapV cause eval k

/-- Flags ORed in, VRI returned to 0, retired (R38, R125). -/
def State.vecRetire (s : State) (fl : FpFlags) : State :=
  let h := s.me.addFlags fl
  (s.setMe { h with csr := { h.csr with vri := 0 }, laneFault := none }).retire

/-- An elementwise vector instruction (R99 to R104, R125, R128, R129): rows first, then the elements `acts` in increasing
order. `bad` says whether what an element reads is poisoned (R328); `f` gives its container bits and flags. A fault at
element k commits the elements below it, flags and all; where there are none, nothing. -/
def State.vecRun (s : State) (vd : VReg) (acts : List Nat) (etype : BitVec 2) (bad : Nat → Bool)
    (f : Nat → Nat × FpFlags) : State :=
  let h := s.me
  if h.csr.vl = 0 then s.retire
  else
    match s.rowCheck [vd] (wideRows etype) with
    | some (c, ev) => s.trapV c ev 0
    | none =>
      let v := h.getV vd
      let mis := h.mismatchAt acts
      let g := fun e =>
        if mis = some e then .error (11, BitVec.ofNat 64 e)
        else if bad e then .error (10, 0)
        else .ok (f e)
      match vecFold g acts (v.vecDest h etype) 0 with
      | (v1, fl, .done) => (s.setMe (h.setV vd ((v1.wrote (h.wroteAll acts)).settle h v.held))).vecRetire fl
      | (v1, fl, .stop k c ev) =>
        if acts.any (fun e => decide (e < k)) then (s.setMe ((h.setV vd (v1.wrote (wroteBelow acts k))).addFlags fl)).vecTrap c ev k
        else s.vecTrap c ev k

/-- `vecRun` over the active elements of a predicate, reading the same element of the registers `srcs`. -/
def State.vecExec (s : State) (vd : VReg) (p : PReg) (etype : BitVec 2) (srcs : List VRegister)
    (f : Nat → Nat × FpFlags) : State :=
  s.vecRun vd (s.me.actives (s.me.getP p)) etype (fun e => srcs.any fun r => r.badElem e) f

/-- A vector instruction that commits nothing when it faults and leaves `VRI` at 0 (R126): it writes the listed elements of vd,
or nothing. `poisoned` says whether an element it reads is poisoned; `acts` are its active elements. -/
def State.vecWhole (s : State) (vd : VReg) (etype : BitVec 2) (acts : List Nat) (poisoned : Bool)
    (writes : List (Nat × Nat)) (fl : FpFlags) : State :=
  let h := s.me
  if h.csr.vl = 0 then s.retire
  else
    match s.rowCheck [vd] (wideRows etype) with
    | some (c, ev) => s.trapV c ev 0
    | none =>
      match h.mismatchAt acts with
      | some m => s.mismatch m 0
      | none =>
        if poisoned then s.trapV 10 0 0
        else
          let v := h.getV vd
          let v1 := writes.foldl (fun r w => r.setElem w.1 w.2) (v.vecDest h etype)
          (s.setMe (h.setV vd ((v1.wrote (h.wroteAll (writes.map Prod.fst))).settle h v.held))).vecRetire fl

/-- A predicate destination (R16, R112, R114): new bits below VL, beyond it zero or kept. -/
def Hart.predBits (h : Hart) (old new : BitVec 256) : BitVec 256 :=
  let below := BitVec.ofNat 256 (2 ^ h.csr.vl.toNat - 1)
  (new &&& below) ||| (if h.csr.vpolTd then 0 else old &&& ~~~below)

end Sys2Proof.Machine
end

