-- ==== Sys2Proof/Machine/Lease.lean ====
section
/-!
DEFINITION. Lane leases: the arbiter of a core (R203), what a change of grant does to function registers (R204), strip
boundaries (R201), the strip-mine branch (R207) and strip farms (R210).
-/
namespace Sys2Proof.Machine

/-! Waiting. -/

/-- Whether a wait's timer is one of R215, R222 (R250 too) and R232: it goes on from the count it had at a context switch
(R307) and while suspended stands still (R375). -/
def Wait.carries : Wait → Bool
  | .queuePush _ _ | .queuePop _ _ | .swWait _ _ _ | .futGet _ _ _ | .eqPop _ _ _ => true
  | _ => false

/-- The acting hart parks at its current instruction. A hart that issues again after a switch holds its count in `waited`;
every other hart's is 0. -/
def State.beginWait (s : State) (w : Wait) : State :=
  let t := if w.carries then s.me.waited else 0
  { s.setMe { s.me with wait := w, waited := t, waitSeq := s.seqNo, wake := none } with seqNo := s.seqNo + 1 }

/-- An event of hart `h`: `f` acts as `h`, then the acting hart is as before. -/
def State.atHart (s : State) (h : Nat) (f : State → State) : State := { f (s.actAs h) with cur := s.cur }

/-- The harts of a core. -/
def hartsOf (core : Nat) : List Nat := (List.range 8).map (fun i => core * 8 + i)

/-- Whether the timers of hart `h` are suspended: it and a halted hart belong to the core's pipeline (R212, R375). -/
def State.suspended (s : State) (h : Nat) : Bool :=
  (s.hart h).csr.role != 0 &&
    (hartsOf (coreOfHart h)).any fun k => (s.hart k).csr.role != 0 && (s.hart k).csr.halt

/-! Changes of a grant (R204). -/

/-- Rows that logical cluster `i` holds of the KEEP = 1 registers once a change of the grant has moved it to a pool or added it
(R204, R205). -/
def Hart.keepRowsAt (h : Hart) (i : Nat) : Nat :=
  h.v.foldl (fun a e =>
    if e.2.desc.keep then a + (if i < h.lmap.length then e.2.rowsAt i else e.2.rows) else a) 0

/-- Whether the pool of physical cluster `p` can take logical cluster `i` of hart `w` at a change of its grant, which frees what the
hart has there of others (R203, R205). -/
def State.roomFor1 (s : State) (w p i : Nat) : Bool :=
  let h := s.hart w
  h.keepRowsAt i == 0 || decide (s.rowsIn (coreOfHart w) p - hartRowsIn h p + h.keepRowsAt i ≤ 512)

/-- A KEEP = 0 register at a change of the grant: a degree-0 zero without rows. -/
def VRegister.forget (v : VRegister) : VRegister :=
  { v with desc := { v.desc with deg := 0, shape := 0, basis := 0, etype := 0 }, rows := 0, held := 0,
           surplus := [], data := [], bad := [] }

/-- A KEEP = 1 register when the grant goes from `old` to `new` logical clusters: dropped clusters lose their elements,
new ones receive the register's rows, reading +0. A register whose last cluster is dropped keeps its layout, and its row count is 0,
so that a later growth gives it no rows: DESIGN CHOICE, log entry 79. -/
def VRegister.carry (v : VRegister) (old new : Nat) : VRegister :=
  let below := BitVec.ofNat 16 (2 ^ min old new - 1)
  let added := BitVec.ofNat 16 (2 ^ new - 1) &&& ~~~ BitVec.ofNat 16 (2 ^ old - 1)
  let held := (v.held &&& below) ||| (if v.rows = 0 then 0 else added)
  let v1 := v.restrict 256 (v.held &&& below)
  { v1 with
    held := held, rows := if held = 0 then 0 else v.rows,
    surplus := if held = 0 then [] else ffilter (fun c => decide (c < min old new)) v.surplus }

/-- One register at a change of the grant. -/
def VRegister.regrant (old new : Nat) (v : VRegister) : VRegister :=
  if v.desc.keep then v.carry old new else v.forget

/-- A hart with logical clusters on the physical clusters `m`. -/
def Hart.regrant (h : Hart) (m : List Nat) : Hart :=
  if m = h.lmap ∧ h.grant = m.length then h
  else
    { h with
      v := fmapValues VRegister.zero (fun _ v => v.regrant h.lmap.length m.length) h.v,
      lmap := m, grant := m.length }

/-- The lanes released on entering a wait at `lease`: KEEP = 1 rows stay where they are (R202, R204). -/
def Hart.releaseLanes (h : Hart) : Hart :=
  { h with v := fmapValues VRegister.zero (fun _ v => if v.desc.keep then v else v.forget) h.v, grant := 0 }

/-- The hart without its withdrawn clusters, as a shrink (R330): the last logical cluster is dropped and its place
taken over by the one that moves. -/
def loseOne (m : List Nat) (p : Nat) : List Nat :=
  match m.getLast? with
  | none => m
  | some l => (m.dropLast).map (fun c => if c = p then l else c)

/-- Hart `w` loses its withdrawn clusters; where a pool has no room for what moves there, it shrinks to the clusters before the
first of them (R205). -/
def State.loseWithdrawn (s : State) (w : Nat) : State :=
  let h := s.hart w
  let gone := fun (p : Nat) => (s.core (coreOfHart w)).withdrawn.getLsbD p
  let lost := (h.lmap.take h.grant).filter gone
  let m := lost.foldl loseOne h.lmap
  if lost = [] then s
  else s.setHart w (h.regrant
    (if m.zipIdx.all fun e => h.lmap[e.2]? == some e.1 || s.roomFor1 w e.1 e.2 then m else h.lmap.takeWhile fun p => !gone p))

/-! The arbiter (R203). -/

/-- A hart that waits at `lease` and has not been granted. -/
def Hart.waitsLease (h : Hart) : Bool :=
  h.wake.isNone && (match h.wait with
    | .lease _ | .taskLease => true
    | _ => false)

def State.waitingAt (s : State) (core : Nat) : List Nat := (hartsOf core).filter fun k => (s.hart k).waitsLease

def State.anyPrecedence (s : State) (core : Nat) : Bool :=
  (s.waitingAt core).any fun k => decide (64 ≤ (s.hart k).age)

/-- Physical clusters whose lanes no hart holds, lowest first, without withdrawn ones (R330). -/
def State.freeClusters (s : State) (core : Nat) : List Nat :=
  (List.range 16).filter fun p =>
    !(s.core core).withdrawn.getLsbD p &&
      !(hartsOf core).any fun k => ((s.hart k).lmap.take (s.hart k).grant).contains p

/-- Physical clusters for logical clusters `i`, `i` + 1, …, `n` of them: one whose home is in `stays` stays there, every other takes
the first candidate whose pool has room for it; none where there is no such candidate. -/
def placeFrom (room : Nat → Nat → Bool) (home stays : List Nat) : Nat → Nat → List Nat → Option (List Nat)
  | 0, _, _ => some []
  | n + 1, i, cands =>
    match home[i]?.filter stays.contains with
    | some p => (placeFrom room home stays n (i + 1) cands).map (p :: ·)
    | none =>
      match cands.find? fun q => room q i with
      | some q => (placeFrom room home stays n (i + 1) (cands.erase q)).map (q :: ·)
      | none => none

/-- Where hart `w` holds its logical clusters with a grant of `n`: each stays where its rows are if it can, then the homes of its
other clusters come first, then free ones, lowest first (R203; log entry 7). -/
def State.placing (s : State) (w n : Nat) : Option (List Nat) :=
  let h := s.hart w
  let free := s.freeClusters (coreOfHart w)
  let homes := h.lmap.filter fun p => free.contains p || (h.lmap.take h.grant).contains p
  let stays := (h.lmap.take n).filter homes.contains
  placeFrom (s.roomFor1 w) h.lmap stays n 0
    ((homes ++ free.filter fun p => !homes.contains p).filter fun p => !stays.contains p)

/-- Clusters usable by hart `w`: those it would gain with the largest grant for which every pool has room for the rows that move
there or are added (R203, R205). -/
def State.usable (s : State) (w : Nat) : List Nat :=
  let h := s.hart w
  let most := (((List.range 17).map (s.placing w)).takeWhile Option.isSome).getLast?.join.getD []
  most.filter fun p => !(h.lmap.take h.grant).contains p

/-- `G[w]` becomes `n` clusters, or as many as it can have: those it holds stay, more come from the usable ones. -/
def State.grantTo (s : State) (w n : Nat) : State :=
  let h := s.hart w
  match s.placing w (min n (h.grant + (s.usable w).length)) with
  | some m => s.setHart w (h.regrant m)
  | none => s

/-- `Serve` over waiting harts in order. A halted hart's lease stays as it is (R375): it keeps its place and takes its grant once
it is resumed (log entry 7). -/
def serveList : List Nat → State → State
  | [], s => s
  | w :: t, s =>
    let h := s.hart w
    let n := (s.usable w).length
    if h.csr.leaseMin.toNat ≤ n ∧ h.csr.halt = false then
      let s1 := s.grantTo w (min n h.csr.leasePref.toNat)
      let h1 := s1.hart w
      serveList t (s1.setHart w { h1 with age := 0, wake := some (BitVec.ofNat 64 h1.grant) })
    else if 64 ≤ h.age then s
    else serveList t s

/-- Waiting harts with precedence by decreasing AGE, ties by `HARTID`, then the others by `HARTID`. -/
def State.serveOrder (s : State) (core : Nat) : List Nat :=
  let w := s.waitingAt core
  let pre := w.filter fun k => decide (64 ≤ (s.hart k).age)
  let rest := w.filter fun k => decide ((s.hart k).age < 64)
  sortBy (fun a b => decide ((s.hart b).age ≤ (s.hart a).age)) pre ++ rest

def State.serve (s : State) (core : Nat) : State := serveList (s.serveOrder core) s

/-- Step 1 of a strip boundary of the acting hart (R201, R203). -/
def State.arbitrate (s : State) : State :=
  let core := s.myCoreId
  let s0 := s.loseWithdrawn s.cur
  let low := s0.me.csr.leaseMin.toNat
  let s1 := if s0.anyPrecedence core && decide (low < s0.me.grant) then
    s0.setMe (s0.me.regrant (s0.me.lmap.take low)) else s0
  let s2 := s1.serve core
  let s3 := if !s2.anyPrecedence core && decide (s2.me.grant < s2.me.csr.leasePref.toNat) then
    s2.grantTo s2.cur s2.me.csr.leasePref.toNat else s2
  (s3.waitingAt core).foldl (fun t w =>
    if w = t.cur then t else t.setHart w { t.hart w with age := (t.hart w).age + 1 }) s3

/-- Elements of a full strip: 16 per cluster, 8 in protected mode (R201). -/
def Hart.stripCap (h : Hart) : Nat := (if h.pmInForce then 8 else 16) * h.grant

/-- Step 2: a pending `VPOL.PM` comes into force; `Stall` is cleared (R207) unless it is suspended (R375). -/
def State.applyPm (s : State) : State :=
  s.setMe { s.me with pmInForce := s.me.csr.vpolPm, stall := s.me.stall && s.suspended s.cur }

/-- Steps 2 and 3. -/
def State.endBoundary (s : State) : State :=
  let t := s.applyPm
  let h := t.me
  t.setMe { h with csr := { h.csr with vl := BitVec.ofNat 9 (min h.csr.vrem.toNat h.stripCap) } }

/-- A strip boundary (R201). -/
def State.stripBoundary (s : State) : State := s.arbitrate.endBoundary

/-- Release every cluster outside a strip boundary, as `yield`, a task's end and a context switch do (R203). -/
def State.releaseAll (s : State) : State := (s.setMe (s.me.regrant [])).serve s.myCoreId

/-! Instructions. -/

/-- `lease` (R202). A hart that cannot have its minimum releases its lanes and waits, and the arbiter runs `Serve` on what it has
released: DESIGN CHOICE, log entry 80. -/
def execLease (a b c : XReg) (s : State) : Host.Outcome State Fault Refusal :=
  let low := min (s.x b).toNat 16
  let pref := max low (min (s.x c).toNat 16)
  let h := s.me
  let h1 := { h with csr := { h.csr with leaseMin := BitVec.ofNat 5 low, leasePref := BitVec.ofNat 5 pref } }
  let h2 := if pref < h1.grant then h1.regrant (h1.lmap.take pref) else h1
  let s1 := (s.setMe h2).arbitrate
  if low ≤ s1.me.grant then
    let s2 := s1.endBoundary
    .next (s2.retireX a (BitVec.ofNat 64 s2.me.grant))
  else
    let s2 := s1.setMe s1.me.releaseLanes
    .next ((s2.beginWait (.lease a)).serve s2.myCoreId)

/-- LEASE_WAIT_GRANT (R202): a hart that the arbiter has granted retires its `lease`. -/
def State.leaseGranted (s : State) : State :=
  match s.me.wait with
  | .lease rd =>
    if s.me.wake.isSome && !s.me.csr.halt then
      let s1 := s.endBoundary
      s1.retireX rd (BitVec.ofNat 64 s1.me.grant)
    else s
  | _ => s

def execLeaseWaitGrant (hart : Nat) (s : State) : Host.Outcome State Fault Refusal :=
  .next (s.atHart hart State.leaseGranted)

/-- ARBITER_SERVE (R203): `Serve` after clusters were released outside a boundary. -/
def execArbiterServe (core : Nat) (s : State) : Host.Outcome State Fault Refusal := .next (s.serve core)

/-- `farm` (R210): steps 1 and 2 of a boundary, then the claim at the word's home. -/
def execFarm (a b : XReg) (s : State) : Host.Outcome State Fault Refusal :=
  let va := (s.x b).toNat
  match s.access va 16 16 .atomic true false true with
  | .bad s1 c e => .next (s1.trap c e)
  | .ok s1 key =>
    let s2 := s1.arbitrate.applyPm
    let d := s2.readLe key 8
    let start := d % 2 ^ 48
    let total := s2.readLe (key + 8) 8 % 2 ^ 48
    let n := min s2.me.stripCap (total - start)
    let fin := fun (t : State) =>
      let h := t.me
      (t.setMe { h with csr := { h.csr with vrem := BitVec.ofNat 48 n, vl := BitVec.ofNat 9 n } }).retireX a
        (BitVec.ofNat 64 start)
    if n = 0 then .next (fin s2)
    else
      let w := s2.watch key 8 true true
      match w.2 with
      | some k => .next ((s1.watch key 8 true true).1.trap 12 (BitVec.ofNat 64 (va + (k - key))))
      | none => .next (fin (w.1.storeAt key (leBytes 8 (d / 2 ^ 48 * 2 ^ 48 + (start + n) % 2 ^ 48))))

/-- The strip-mine branch with its address registers and strides (R207). -/
def State.smb (s : State) (target : Word64) (rs : List (XReg × BitVec 16)) : State :=
  let h := s.me
  let n := h.csr.vl.toNat
  let noStrip := n == 0 && h.csr.vrem != 0
  let frozen := s.suspended s.cur
  if noStrip && h.stall && !frozen then
    s.trap 9 (BitVec.ofNat 64 (n * 2 ^ 48 + target.toNat % 2 ^ 48))
  else
    let stall := if frozen then h.stall else noStrip
    let s1 := s.setMe { h with csr := { h.csr with vrem := h.csr.vrem - BitVec.ofNat 48 (min n h.csr.vrem.toNat) } }
    let s2 := rs.foldl (fun t r => t.setX r.1 (t.x r.1 + BitVec.ofNat 64 n * r.2.signExtend 64)) s1
    let s3 := s2.stripBoundary
    let s4 := s3.setMe { s3.me with stall := stall }
    if s4.me.csr.vrem = 0 then s4.retire else s4.retireTo target

/-- `smb` (R206, R207). -/
def execSmb (i : BitVec 14) (s : State) : Host.Outcome State Fault Refusal := .next (s.smb (s.me.pc + wordOff i) [])

/-- `smb` with address registers (R206, R207). -/
def execSmbStrides (i : BitVec 14) (r0 r1 r2 r3 : XReg) (s0 s1 s2 s3 : BitVec 16) (s : State) :
    Host.Outcome State Fault Refusal :=
  .next (s.smb (s.me.pc + wordOff i) [(r0, s0), (r1, s1), (r2, s2), (r3, s3)])

end Sys2Proof.Machine
end

