-- ==== Sys2Proof/Machine/Control.lean ====
section
/-!
DEFINITION. Branches and jumps (R81 to R83), hardware loops (R84 to R87), control registers (R19 to R22, R89) and the system
instructions (R90 to R93, R97).
-/
namespace Sys2Proof.Machine

/-! Branches and jumps. -/

/-- A conditional branch to word 0's address plus an offset (R81). -/
def State.branch (s : State) (taken : Bool) (off : Word64) : Host.Outcome State Fault Refusal :=
  .next (if taken then s.retireTo (s.me.pc + off) else s.retire)

/-- `beq` (R81). -/
def execBeq (b c : XReg) (o : BitVec 9) (s : State) : Host.Outcome State Fault Refusal :=
  s.branch (s.x b == s.x c) (wordOff o)

/-- `bne` (R81). -/
def execBne (b c : XReg) (o : BitVec 9) (s : State) : Host.Outcome State Fault Refusal :=
  s.branch (s.x b != s.x c) (wordOff o)

/-- `blt` (R81). -/
def execBlt (b c : XReg) (o : BitVec 9) (s : State) : Host.Outcome State Fault Refusal :=
  s.branch ((s.x b).slt (s.x c)) (wordOff o)

/-- `bge` (R81). -/
def execBge (b c : XReg) (o : BitVec 9) (s : State) : Host.Outcome State Fault Refusal :=
  s.branch (!(s.x b).slt (s.x c)) (wordOff o)

/-- `blo` (R81). -/
def execBlo (b c : XReg) (o : BitVec 9) (s : State) : Host.Outcome State Fault Refusal :=
  s.branch ((s.x b).ult (s.x c)) (wordOff o)

/-- `bhs` (R81). -/
def execBhs (b c : XReg) (o : BitVec 9) (s : State) : Host.Outcome State Fault Refusal :=
  s.branch (!(s.x b).ult (s.x c)) (wordOff o)

/-- `beq`, literal form (R81). -/
def execBeqLit (b c : XReg) (lit : Word64) (s : State) : Host.Outcome State Fault Refusal :=
  s.branch (s.x b == s.x c) lit

/-- `bne`, literal form (R81). -/
def execBneLit (b c : XReg) (lit : Word64) (s : State) : Host.Outcome State Fault Refusal :=
  s.branch (s.x b != s.x c) lit

/-- `blt`, literal form (R81). -/
def execBltLit (b c : XReg) (lit : Word64) (s : State) : Host.Outcome State Fault Refusal :=
  s.branch ((s.x b).slt (s.x c)) lit

/-- `bge`, literal form (R81). -/
def execBgeLit (b c : XReg) (lit : Word64) (s : State) : Host.Outcome State Fault Refusal :=
  s.branch (!(s.x b).slt (s.x c)) lit

/-- `blo`, literal form (R81). -/
def execBloLit (b c : XReg) (lit : Word64) (s : State) : Host.Outcome State Fault Refusal :=
  s.branch ((s.x b).ult (s.x c)) lit

/-- `bhs`, literal form (R81). -/
def execBhsLit (b c : XReg) (lit : Word64) (s : State) : Host.Outcome State Fault Refusal :=
  s.branch (!(s.x b).ult (s.x c)) lit

/-- Write the return address and jump (R82). -/
def State.jump (s : State) (rd : XReg) (t : Word64) : State := (s.setX rd s.me.npc).retireTo t

/-- `jal` (R82). -/
def execJal (a : XReg) (o : BitVec 19) (s : State) : Host.Outcome State Fault Refusal :=
  .next (s.jump a (s.me.pc + wordOff o))

/-- `jal`, literal form (R82). -/
def execJalLit (a : XReg) (lit : Word64) (s : State) : Host.Outcome State Fault Refusal :=
  .next (s.jump a (s.me.pc + lit))

/-- `jalr` (R82): a target that is not a multiple of 4 is a misaligned access. -/
def execJalr (a b : XReg) (i : BitVec 14) (s : State) : Host.Outcome State Fault Refusal :=
  let t := s.x b + sext i
  if t.toNat % 4 ≠ 0 then .next (s.trap 3 t) else .next (s.jump a t)

/-! Hardware loops. -/

/-- A level without held writes. -/
def LoopLevel.dropHeld (l : LoopLevel) : LoopLevel := { l with heldCount := none, heldStart := none, heldStop := none }

/-- The levels below and at `n` as a set-up leaves them: inner levels inactive, held writes of `n` discarded (R84). -/
def Hart.clearInner (h : Hart) (n : Nat) : Hart :=
  [1, 2, 3].foldl (fun k m => if n < m then k.setLevel m { (k.level m).dropHeld with active := false } else k) h

/-- `LoopSetup` (R84), with the end test that follows a set-up with count 0. -/
def Hart.loopSetup (h : Hart) (n : Nat) (count : Word32) (stop : Word64) : Hart :=
  let k := { (h.clearInner n).countRetired with wait := .none, waited := 0, parked := 0, wake := none }
  let l := { (k.level n).dropHeld with start := h.npc.setWidth 48, stop := stop.setWidth 48 }
  if count = 0 then endTest h.pc stop 4 (k.setLevel n { l with active := false, count := 0 })
  else
    { k.setLevel n { l with active := true, first := true, count := count - 1, startCount := count - 1 } with
      pc := h.npc }

/-- A set-up by the acting hart; in handler mode it is illegal (R96). -/
def State.loop (s : State) (n : BitVec 2) (count : Word32) (i : BitVec 14) : Host.Outcome State Fault Refusal :=
  if s.me.handler then .next s.illegal
  else .next (s.setMe (s.me.loopSetup n.toNat count (s.me.pc + wordOff i)))

/-- `loop` (R84): the count is bits [31:0] of xc. -/
def execLoop (l : BitVec 2) (b : XReg) (i : BitVec 14) (s : State) : Host.Outcome State Fault Refusal :=
  s.loop l ((s.x b).setWidth 32) i

/-- `loop`, literal form (R84). -/
def execLoopLit (l : BitVec 2) (i : BitVec 14) (count : Word32) (s : State) : Host.Outcome State Fault Refusal :=
  s.loop l count i

/-! Control registers. -/

/-- A value written to a field that holds `old` (R89). -/
def csrApply {w : Nat} (op : CsrOp) (old v : BitVec w) : BitVec w :=
  match op with
  | .write => v
  | .set => old ||| v
  | .clear => old &&& ~~~v

/-- The bits a write clears in a W1C field (R89). -/
def csrW1c {w : Nat} (op : CsrOp) (old v : BitVec w) : BitVec w :=
  match op with
  | .write | .set => old &&& ~~~v
  | .clear => old

/-- A field set in the acting hart's registers. -/
def State.updCsr (s : State) (f : HartCsr → HartCsr) : State := s.setMe { s.me with csr := f s.me.csr }

/-- A write of VL (R21): the value clamped to 16 × GRANTED, halved in protected mode. -/
def State.writeVl (s : State) (op : CsrOp) (v : Word64) : State :=
  let n := (csrApply op s.me.csr.vl (v.setWidth 9)).toNat
  s.updCsr fun c => { c with vl := BitVec.ofNat 9 (min n s.me.stripCap) }

/-- A write of VREM is a strip boundary (R201). -/
def State.writeVrem (s : State) (op : CsrOp) (v : Word64) : State :=
  (s.updCsr fun c => { c with vrem := csrApply op c.vrem (v.setWidth 48) }).stripBoundary

/-- A write of VPOL: TD at once, PM pending until the next strip boundary (R21). -/
def State.writeVpol (s : State) (op : CsrOp) (v : Word64) : State :=
  s.updCsr fun c =>
    let old : BitVec 2 := BitVec.ofBool c.vpolPm ++ BitVec.ofBool c.vpolTd
    let n := csrApply op old (v.setWidth 2)
    { c with vpolPm := n.getLsbD 1, vpolTd := n.getLsbD 0 }

/-- A write of FRM: RM is unchanged for 5, 6 and 7 (R21). -/
def State.writeFrm (s : State) (op : CsrOp) (v : Word64) : State :=
  s.updCsr fun c =>
    let old : BitVec 4 := BitVec.ofBool c.ftz ++ c.rm
    let n := csrApply op old (v.setWidth 4)
    let rm := n.setWidth 3
    { c with ftz := n.getLsbD 3, rm := if rm.toNat < 5 then rm else c.rm }

/-- A write of FFLAGS (R38). -/
def State.writeFflags (s : State) (op : CsrOp) (v : Word64) : State :=
  s.updCsr fun c => { c with fflags := csrApply op c.fflags (v.setWidth 6) }

/-- `SHIFT` clamped to −40 to +40 (R21). -/
def clampShift (x : BitVec 8) : BitVec 8 :=
  if x.toInt < -40 then BitVec.ofInt 8 (-40) else if 40 < x.toInt then 40 else x

/-- A write of AWIN lands: SHIFT, clamped, and the sticky bits, W1C (R21). -/
def State.landAwin (s : State) (shift : BitVec 8) (op : CsrOp) (v : Word64) : State :=
  let c := s.myCore
  let old : BitVec 4 := BitVec.ofBool c.ovf1 ++ BitVec.ofBool c.inx1 ++ BitVec.ofBool c.ovf0 ++ BitVec.ofBool c.inx0
  let st := csrW1c op old ((v >>> 16).setWidth 4)
  s.setMyCore { c with
    shift := clampShift shift, inx0 := st.getLsbD 0, ovf0 := st.getLsbD 1, inx1 := st.getLsbD 2, ovf1 := st.getLsbD 3 }

/-- A write of AWIN (R21). -/
def State.writeAwin (s : State) (op : CsrOp) (v : Word64) : State :=
  s.landAwin (csrApply op s.myCore.shift (v.setWidth 8)) op v

/-- A write of LCn (R86, R96): held inside the active body outside handler mode, at once otherwise. -/
def State.writeLc (s : State) (n : Nat) (op : CsrOp) (v : Word64) : State :=
  let h := s.me
  let l := h.level n
  let w := csrApply op l.count (v.setWidth 32)
  let pc : BitVec 48 := h.pc.setWidth 48
  if !h.handler && l.active && decide (l.start ≤ pc) && decide (pc < l.stop) then
    s.setMe (h.setLevel n { l with heldCount := some w })
  else s.setMe (h.setLevel n { l with count := w, heldCount := if h.handler then none else l.heldCount })

/-- A write of LSn or LEn (R87, R96): held while the level is active outside handler mode. -/
def State.writeBound (s : State) (isEnd : Bool) (n : Nat) (op : CsrOp) (v : Word64) : State :=
  let h := s.me
  let l := h.level n
  let w := csrApply op (if isEnd then l.stop else l.start) (v.setWidth 48) &&& ~~~3#48
  let held := l.active && !h.handler
  s.setMe (h.setLevel n
    (if isEnd then
      if held then { l with heldStop := some w }
      else { l with stop := w, heldStop := if h.handler then none else l.heldStop }
    else
      if held then { l with heldStart := some w }
      else { l with start := w, heldStart := if h.handler then none else l.heldStart }))

/-- A write of WBOUND lands. -/
def State.landWbound (s : State) (v : BitVec 8) : State := s.setCtx s.myCtxId { s.myCtx with wbound := v }

/-- A write of WBOUND, the run-ahead bound of the whole context (R21). -/
def State.writeWbound (s : State) (op : CsrOp) (v : Word64) : State :=
  s.landWbound (csrApply op s.myCtx.wbound (v.setWidth 8))

/-- A write of a register without behaviour of its own (R19): RW and W1C fields; RO fields ignore it. -/
def State.writePlain (s : State) (n : Nat) (op : CsrOp) (v : Word64) : State :=
  match n with
  | 0x004 => s.updCsr fun c => { c with vri := csrApply op c.vri (v.setWidth 9) }
  | 0x040 => s.updCsr fun c => { c with epc := csrApply op c.epc (v.setWidth 48) &&& ~~~3#48 }
  | 0x041 => s.updCsr fun c => { c with ecause := csrApply op c.ecause (v.setWidth 6) }
  | 0x042 => s.updCsr fun c => { c with eval := csrApply op c.eval v }
  | 0x043 => s.updCsr fun c => { c with etvec := csrApply op c.etvec (v.setWidth 48) &&& ~~~3#48 }
  | 0x050 => s.updCsr fun c => { c with role := csrApply op c.role (v.setWidth 2) }
  | 0x7B1 => s.updCsr fun c => { c with wphit := csrW1c op c.wphit ((v >>> 8).setWidth 8) }
  | _ => s

/-- A write of control register `n` (R20, R21). -/
def State.csrWrite (s : State) (n : Nat) (op : CsrOp) (v : Word64) : State :=
  match n with
  | 0x000 => s.writeVl op v
  | 0x001 => s.writeVrem op v
  | 0x003 => s.writeVpol op v
  | 0x008 => s.writeFrm op v
  | 0x009 => s.writeFflags op v
  | 0x011 => s.writeAwin op v
  | 0x020 | 0x021 | 0x022 | 0x023 => s.writeLc (n - 0x020) op v
  | 0x024 | 0x025 | 0x026 | 0x027 => s.writeBound false (n - 0x024) op v
  | 0x028 | 0x029 | 0x02A | 0x02B => s.writeBound true (n - 0x028) op v
  | 0x051 => s.writeWbound op v
  | _ => s.writePlain n op v

/-- AWIN as a register reads (R21). -/
def Core.awin (c : Core) : Word64 :=
  BitVec.ofBool c.ovf1 ++ BitVec.ofBool c.inx1 ++ BitVec.ofBool c.ovf0 ++ BitVec.ofBool c.inx0 ++ 0#8 ++ c.shift |>.setWidth 64

/-- The value a control register reads as (R20 to R22); `none` for a number that is not mapped. -/
def State.csrRead (s : State) (n : Nat) : Option Word64 :=
  let h := s.me
  let c := h.csr
  match n with
  | 0x000 => some (c.vl.setWidth 64)
  | 0x001 => some (c.vrem.setWidth 64)
  | 0x002 => some ((c.leasePref ++ 0#3 ++ c.leaseMin ++ 0#11 ++ BitVec.ofNat 5 h.grant).setWidth 64)
  | 0x003 => some ((BitVec.ofBool c.vpolPm ++ BitVec.ofBool c.vpolTd).setWidth 64)
  | 0x004 => some (c.vri.setWidth 64)
  | 0x008 => some ((BitVec.ofBool c.ftz ++ c.rm).setWidth 64)
  | 0x009 => some (c.fflags.setWidth 64)
  | 0x010 => some (BitVec.ofNat 64 (16 * s.myCore.blocks.length))
  | 0x011 => some s.myCore.awin
  | 0x020 | 0x021 | 0x022 | 0x023 => some ((h.level (n - 0x020)).count.setWidth 64)
  | 0x024 | 0x025 | 0x026 | 0x027 => some ((h.level (n - 0x024)).start.setWidth 64)
  | 0x028 | 0x029 | 0x02A | 0x02B => some ((h.level (n - 0x028)).stop.setWidth 64)
  | 0x040 => some (c.epc.setWidth 64)
  | 0x041 => some (c.ecause.setWidth 64)
  | 0x042 => some c.eval
  | 0x043 => some (c.etvec.setWidth 64)
  | 0x050 => some (c.role.setWidth 64)
  | 0x051 => some (s.myCtx.wbound.setWidth 64)
  | 0x052 => some (c.wclass.setWidth 64)
  | 0x7B0 => some (c.dskid.setWidth 64)
  | 0x7B1 => some ((c.wphit ++ 0#3 ++ c.stop ++ BitVec.ofBool c.halt).setWidth 64)
  | 0xC00 => some (BitVec.ofNat 64 (s.cycle s.myCoreId))
  | 0xC01 => some c.instret
  | 0xF00 => some (BitVec.ofNat 64 (s.cur % 8))
  | 0xF01 => some (BitVec.ofNat 64 (s.myCoreId % 128))
  | 0xF02 => some (BitVec.ofNat 64 (s.myPressId % 32))
  | 0xF03 => some (BitVec.ofNat 64 (dieOfHart s.cur))
  | _ => none

/-- `csrr` (R89); an unmapped number is illegal (R19). -/
def execCsrr (a : XReg) (n : BitVec 12) (s : State) : Host.Outcome State Fault Refusal :=
  match s.csrRead n.toNat with
  | some v => .next (s.retireX a v)
  | none => .next s.illegal

/-- A write instruction (R89): the write, then retiring. -/
def State.csrOp (s : State) (op : CsrOp) (b : XReg) (n : BitVec 12) : Host.Outcome State Fault Refusal :=
  if (s.csrRead n.toNat).isNone then .next s.illegal else .next (s.csrWrite n.toNat op (s.x b)).retire

/-- `csrw` (R89). -/
def execCsrw (b : XReg) (n : BitVec 12) (s : State) : Host.Outcome State Fault Refusal := s.csrOp .write b n

/-- `csrs` (R89). -/
def execCsrs (b : XReg) (n : BitVec 12) (s : State) : Host.Outcome State Fault Refusal := s.csrOp .set b n

/-- `csrc` (R89). -/
def execCsrc (b : XReg) (n : BitVec 12) (s : State) : Host.Outcome State Fault Refusal := s.csrOp .clear b n

/-! A `csrs` or `csrc` of a register that a core or a context owns reads, and then writes: other harts' writes may land between
(R89). As `csrOp` nothing does; the agenda may part the two. -/

/-- What a `csrs` or `csrc` of AWIN or WBOUND waits with, once it has read. -/
def State.pairRead (s : State) (i : Instr) : Option Wait :=
  let pair := fun (op : CsrOp) (b : XReg) (n : BitVec 12) =>
    let v := s.x b
    if n = 0x011 then some (Wait.csrPair true (csrApply op s.myCore.shift (v.setWidth 8)) op v)
    else if n = 0x051 then some (Wait.csrPair false (csrApply op s.myCtx.wbound (v.setWidth 8)) op v)
    else none
  match i with
  | .csrs b n => pair .set b n
  | .csrc b n => pair .clear b n
  | _ => none

/-- Its write, whole (R21). -/
def State.landPair (s : State) (awin : Bool) (w : BitVec 8) (op : CsrOp) (v : Word64) : State :=
  if awin then s.landAwin w op v else s.landWbound w

/-! The control-register sub-steps, as steps of their own: the write without retiring. -/

/-- VL_WRITE (R21). -/
def execVlWrite (op : CsrOp) (v : Word64) (s : State) : Host.Outcome State Fault Refusal := .next (s.writeVl op v)

/-- VREM_WRITE (R201). -/
def execVremWrite (op : CsrOp) (v : Word64) (s : State) : Host.Outcome State Fault Refusal := .next (s.writeVrem op v)

/-- VPOL_WRITE (R21). -/
def execVpolWrite (op : CsrOp) (v : Word64) (s : State) : Host.Outcome State Fault Refusal := .next (s.writeVpol op v)

/-- FRM_WRITE (R21). -/
def execFrmWrite (op : CsrOp) (v : Word64) (s : State) : Host.Outcome State Fault Refusal := .next (s.writeFrm op v)

/-- FFLAGS_WRITE (R38). -/
def execFflagsWrite (op : CsrOp) (v : Word64) (s : State) : Host.Outcome State Fault Refusal :=
  .next (s.writeFflags op v)

/-- AWIN_WRITE (R21). -/
def execAwinWrite (op : CsrOp) (v : Word64) (s : State) : Host.Outcome State Fault Refusal := .next (s.writeAwin op v)

/-- LC_WRITE (R86). -/
def execLcWrite (n : BitVec 2) (op : CsrOp) (v : Word64) (s : State) : Host.Outcome State Fault Refusal :=
  .next (s.writeLc n.toNat op v)

/-- LS_LE_WRITE (R87). -/
def execLsLeWrite (isEnd : Bool) (n : BitVec 2) (op : CsrOp) (v : Word64) (s : State) :
    Host.Outcome State Fault Refusal :=
  .next (s.writeBound isEnd n.toNat op v)

/-- WBOUND_WRITE (R21). -/
def execWboundWrite (op : CsrOp) (v : Word64) (s : State) : Host.Outcome State Fault Refusal :=
  .next (s.writeWbound op v)

/-! System instructions. -/

/-- `nop` (R90). -/
def execNop (s : State) : Host.Outcome State Fault Refusal := .next s.retire

/-- `tret` (R97); outside handler mode it is illegal. -/
def execTret (s : State) : Host.Outcome State Fault Refusal :=
  if s.me.handler then .next (s.setMe s.me.tret) else .next s.illegal

/-- Halt the acting hart with a stop source (R372). -/
def State.haltMe (s : State) (source : Nat) : State :=
  s.updCsr fun c => { c with halt := true, stop := BitVec.ofNat 4 source }

/-- `brk` (R92, R374): with breakpoint halting it retires, its hart halts with DSKID 0 and the stop goes out as BSCOPE
says (0: this hart alone, log entry 42); otherwise the breakpoint cause. -/
def execBrk (s : State) : Host.Outcome State Fault Refusal :=
  let c := s.myCore
  if s.hub.debugUnlocked && c.brken then
    let s1 := s.retire.haltMe 2
    let s2 := s1.updCsr fun k => { k with dskid := 0 }
    if c.bscope = 0 then .next s2 else .next (s2.stopTrigger s.myPressId (decide (c.bscope = 2)) 2)
  else .next (s.trap 18 0)

/-- `halt` (R90): the hart stops after it retires; while debug is locked a supervisor core takes it over, as cause 0. -/
def execHalt (s : State) : Host.Outcome State Fault Refusal :=
  let s1 := s.retire.haltMe 2
  if s.hub.debugUnlocked then .next s1
  else
    .next (s1.setMe { s1.me with
      sup := some { cause := 0, epc := s.me.pc.setWidth 48, eval := 0, source := 0, vri := 0, logSeq := none,
                    emul := none } })

/-- `fence.sv` (R91): in a model that performs every access in program order before the next instruction (log entry 3) the
fence only retires. -/
def execFenceSv (_sc : Scope) (s : State) : Host.Outcome State Fault Refusal := .next s.retire

/-- `fence.vs` (R91). -/
def execFenceVs (_sc : Scope) (s : State) : Host.Outcome State Fault Refusal := .next s.retire

/-- `fence.vv` (R91). -/
def execFenceVv (_sc : Scope) (s : State) : Host.Outcome State Fault Refusal := .next s.retire

/-- `fence.all` (R91). -/
def execFenceAll (_sc : Scope) (s : State) : Host.Outcome State Fault Refusal := .next s.retire

/-- Addresses `flush` skips: scratchpad, cellar and host-window ranges (R93, R216). -/
def flushSkips (va : Nat) : Bool :=
  decide (va < 0x100000) || (decide (0x7F0000000000 ≤ va) && decide (va < 0x7F0000400000)) ||
    (decide (0x7F0010000000 ≤ va) && decide (va < 0x7F0018000000)) ||
    (decide (0x7F0100000000 ≤ va) && decide (va < 0x7F0140000000)) ||
    (decide (0x7F0200000000 ≤ va) && decide (va < 0x7F0200010000))

/-- The first address of `flush`'s range from `va` up to `stop` whose page does not translate, with the walk's cause; at
most `n` pages of 64 KiB. A range that runs past 2^64 goes on there as addresses that translate to nothing, and EVAL shows the
low 64 bits of the first of them: DESIGN CHOICE, log entry 63. -/
def State.flushFail (s : State) (stop : Nat) : Nat → Nat → Option (Nat × Nat)
  | 0, _ => none
  | n + 1, va =>
    if stop ≤ va then none
    else
      let bad : Option Nat :=
        if flushSkips va then none
        else if (va / 2 ^ 47 ≠ 0 ∧ va / 2 ^ 47 ≠ 2 ^ 17 - 1) ∨ (0x7F0000000000 ≤ va ∧ va < 0x800000000000) then some 4
        else
          match s.leafOf s.myCtxId (va % 2 ^ 48) (fun _ => true) with
          | .error f => some f.cause
          | .ok _ => none
      match bad with
      | some c => some (va, c)
      | none => s.flushFail stop n ((va / 65536 + 1) * 65536)

/-- `flush` (R93): the model keeps no device copy of global memory, so only the translation of each page shows. -/
def execFlush (b c : XReg) (s : State) : Host.Outcome State Fault Refusal :=
  let va := (s.x b).toNat
  let n := (s.x c).toNat
  let s1 := s.meetRange s.myCtxId va n
  match s1.flushFail (va + n) (n / 65536 + 2) va with
  | some (a, cause) => .next (s1.trap cause (BitVec.ofNat 64 a))
  | none => .next s1.retire

/-- `trap` (R92). -/
def execTrap (i : BitVec 14) (s : State) : Host.Outcome State Fault Refusal := .next (s.trap 17 (i.setWidth 64))

end Sys2Proof.Machine
end

