-- ==== Sys2Proof/Machine/LoadStore.lean ====
section
/-!
DEFINITION. Scalar loads and stores (R78 to R80) and the acquire load and release store (R241, R242).
-/
namespace Sys2Proof.Machine

/-- The acting hart's access, then `f` on the state and key, or the trap the access raises (R79, R94). -/
def State.withAccess (s : State) (va : Word64) (n align : Nat) (acc : Acc) (reads writes refusable : Bool)
    (f : State → Nat → State) : Host.Outcome State Fault Refusal :=
  match s.access va.toNat n align acc reads writes refusable with
  | .ok s1 key => .next (f s1 key)
  | .bad s1 cause eval => .next (s1.trap cause eval)

/-- A load of a type into xd (R78). -/
def State.load (s : State) (rd : XReg) (va : Word64) (t : ElemTy) : Host.Outcome State Fault Refusal :=
  let n := elemBytes t
  s.withAccess va n n .load true false true fun s1 key => s1.retireX rd (extendX t (s1.readLe key n))

/-- A store of the low `n` bytes of xa (R78). -/
def State.store (s : State) (ra : XReg) (va : Word64) (n : Nat) : Host.Outcome State Fault Refusal :=
  s.withAccess va n n .store false true true fun s1 key => (s1.storeAt key (leBytes n (s1.x ra).toNat)).retire

/-- `ld` (R78): xb + off10 × size. -/
def execLd (a b : XReg) (t : ElemTy) (o : BitVec 10) (s : State) : Host.Outcome State Fault Refusal :=
  s.load a (s.x b + sext o * BitVec.ofNat 64 (elemBytes t)) t

/-- `ld`, literal form (R78). -/
def execLdLit (a b : XReg) (t : ElemTy) (lit : Word64) (s : State) : Host.Outcome State Fault Refusal :=
  s.load a (s.x b + lit) t

/-- `ld`, indexed (R78): xb + xc × s. -/
def execLdIndexed (a b c : XReg) (t : ElemTy) (k : BitVec 2) (s : State) : Host.Outcome State Fault Refusal :=
  s.load a (s.x b + s.x c <<< k.toNat) t

/-- `st` (R78). -/
def execSt (a b : XReg) (z : BitVec 2) (o : BitVec 10) (s : State) : Host.Outcome State Fault Refusal :=
  s.store a (s.x b + sext o * BitVec.ofNat 64 (sizeOfLog z.toNat)) (sizeOfLog z.toNat)

/-- `st`, literal form (R78). -/
def execStLit (a b : XReg) (z : BitVec 2) (lit : Word64) (s : State) : Host.Outcome State Fault Refusal :=
  s.store a (s.x b + lit) (sizeOfLog z.toNat)

/-- `st`, indexed (R78). -/
def execStIndexed (a b c : XReg) (k z : BitVec 2) (s : State) : Host.Outcome State Fault Refusal :=
  s.store a (s.x b + s.x c <<< k.toNat) (sizeOfLog z.toNat)

/-- `ld.acq` (R241): zero-extended. Its ordering holds in every run of a model in which accesses are performed whole and
in program order (log entry 3). -/
def execLdAcq (a b : XReg) (_sc : Scope) (z : BitVec 2) (s : State) : Host.Outcome State Fault Refusal :=
  let n := sizeOfLog z.toNat
  s.withAccess (s.x b) n n .load true false true fun s1 key => s1.retireX a (BitVec.ofNat 64 (s1.readLe key n))

/-- `st.rel` (R241). -/
def execStRel (a b : XReg) (_sc : Scope) (z : BitVec 2) (s : State) : Host.Outcome State Fault Refusal :=
  s.store a (s.x b) (sizeOfLog z.toNat)

end Sys2Proof.Machine
end

