-- ==== Sys2Proof/Machine/Atomic.lean ====
section
/-!
DEFINITION. Atomics and reductions at a location's home (R244 to R246). Each is one indivisible step; requests of `red` are
never merged, which R246 allows.
-/
namespace Sys2Proof.Machine

/-- Operations of R244. -/
inductive AmoOp where
  | add | min | max | and | or | xor | swap
deriving DecidableEq, Repr

/-- The value as a signed number of `n` bytes. -/
def signedOf (n v : Nat) : Int := (BitVec.ofNat (8 * n) v).toInt

/-- Home effect on the old value `v` with operand `b`, both of `n` bytes (R244). -/
def amoApply (op : AmoOp) (uns : Bool) (n v b : Nat) : Nat :=
  match op with
  | .add => (v + b) % 2 ^ (8 * n)
  | .min => if uns then Nat.min v b else if signedOf n v ≤ signedOf n b then v else b
  | .max => if uns then Nat.max v b else if signedOf n v ≤ signedOf n b then b else v
  | .and => v &&& b
  | .or => v ||| b
  | .xor => v ^^^ b
  | .swap => b

/-- Bytes of an atomic: F[4] chooses 32 or 64 bits. -/
def amoSize (z : BitVec 1) : Nat := if z = 0 then 4 else 8

/-- The old value in xd: sign-extended, or zero-extended for z32 and z64 (R244). -/
def amoOld (uns : Bool) (n v : Nat) : Word64 :=
  if uns then BitVec.ofNat 64 v else (BitVec.ofNat (8 * n) v).signExtend 64

/-- A fetching atomic (R244, R245). -/
def State.amo (s : State) (op : AmoOp) (uns : Bool) (rd rb rc : XReg) (z : BitVec 1) :
    Host.Outcome State Fault Refusal :=
  let n := amoSize z
  let b := (s.x rc).toNat % 2 ^ (8 * n)
  s.withAccess (s.x rb) n n .atomic true true true fun s1 key =>
    let v := s1.readLe key n
    (s1.storeAt key (leBytes n (amoApply op uns n v b))).retireX rd (amoOld uns n v)

/-- The log entry of poison that was only passed on (R327, KIND 7). -/
def State.logPassed (s : State) (key : Nat) : State := s.logEntry (keyLog s key 7)

/-- A non-returning reduction (R244, R245): a watchpoint never refuses it (R373), and at a poisoned home it is not applied
(R327). -/
def State.red (s : State) (op : AmoOp) (uns : Bool) (rb rc : XReg) (z : BitVec 1) : Host.Outcome State Fault Refusal :=
  let n := amoSize z
  let b := (s.x rc).toNat % 2 ^ (8 * n)
  s.withAccess (s.x rb) n n .atomic false true false fun s1 key =>
    let s2 := (s1.watch key n false false).1.touch key n
    if (s2.poisonedAt key n).isSome then (s2.logPassed key).retire
    else (s2.storeAt key (leBytes n (amoApply op uns n (s2.readLe key n) b))).retire

/-- `amo.add` (R244). -/
def execAmoAdd (a b c : XReg) (_sc : Scope) (z : BitVec 1) (s : State) : Host.Outcome State Fault Refusal :=
  s.amo .add false a b c z

/-- `amo.and` (R244). -/
def execAmoAnd (a b c : XReg) (_sc : Scope) (z : BitVec 1) (s : State) : Host.Outcome State Fault Refusal :=
  s.amo .and false a b c z

/-- `amo.or` (R244). -/
def execAmoOr (a b c : XReg) (_sc : Scope) (z : BitVec 1) (s : State) : Host.Outcome State Fault Refusal :=
  s.amo .or false a b c z

/-- `amo.xor` (R244). -/
def execAmoXor (a b c : XReg) (_sc : Scope) (z : BitVec 1) (s : State) : Host.Outcome State Fault Refusal :=
  s.amo .xor false a b c z

/-- `amo.swap` (R244). -/
def execAmoSwap (a b c : XReg) (_sc : Scope) (z : BitVec 1) (s : State) : Host.Outcome State Fault Refusal :=
  s.amo .swap false a b c z

/-- `amo.min` (R244): P[3] chooses the unsigned types. -/
def execAmoMin (a b c : XReg) (_sc : Scope) (u z : BitVec 1) (s : State) : Host.Outcome State Fault Refusal :=
  s.amo .min (u != 0) a b c z

/-- `amo.max` (R244): P[3] chooses the unsigned types. -/
def execAmoMax (a b c : XReg) (_sc : Scope) (u z : BitVec 1) (s : State) : Host.Outcome State Fault Refusal :=
  s.amo .max (u != 0) a b c z

/-- `amo.cas` (R244): a compare that fails writes nothing. -/
def execAmoCas (a b c d : XReg) (_sc : Scope) (z : BitVec 1) (s : State) : Host.Outcome State Fault Refusal :=
  let n := amoSize z
  let cmp := (s.x c).toNat % 2 ^ (8 * n)
  let writes := match s.resolveMe (s.x b).toNat .atomic with
    | .ok key => s.readLe key n == cmp
    | .error _ => true
  s.withAccess (s.x b) n n .atomic true writes true fun s1 key =>
    let v := s1.readLe key n
    let s2 := if v = cmp then s1.storeAt key (leBytes n ((s1.x d).toNat % 2 ^ (8 * n))) else s1
    s2.retireX a (amoOld false n v)

/-- `red.add` (R244). -/
def execRedAdd (b c : XReg) (_sc : Scope) (z : BitVec 1) (s : State) : Host.Outcome State Fault Refusal :=
  s.red .add false b c z

/-- `red.and` (R244). -/
def execRedAnd (b c : XReg) (_sc : Scope) (z : BitVec 1) (s : State) : Host.Outcome State Fault Refusal :=
  s.red .and false b c z

/-- `red.or` (R244). -/
def execRedOr (b c : XReg) (_sc : Scope) (z : BitVec 1) (s : State) : Host.Outcome State Fault Refusal :=
  s.red .or false b c z

/-- `red.xor` (R244). -/
def execRedXor (b c : XReg) (_sc : Scope) (z : BitVec 1) (s : State) : Host.Outcome State Fault Refusal :=
  s.red .xor false b c z

/-- `red.min` (R244). -/
def execRedMin (b c : XReg) (_sc : Scope) (u z : BitVec 1) (s : State) : Host.Outcome State Fault Refusal :=
  s.red .min (u != 0) b c z

/-- `red.max` (R244). -/
def execRedMax (b c : XReg) (_sc : Scope) (u z : BitVec 1) (s : State) : Host.Outcome State Fault Refusal :=
  s.red .max (u != 0) b c z

end Sys2Proof.Machine
end

