-- ==== Sys2Proof/Machine/Gll.lean ====
section
/-!
DEFINITION. The constants of the function instructions (R134, R136 to R138): exact reals held as fixed-point integers with
256 fraction bits, each rounded once to the working type by nearest-even. An entry below 2^-128 in magnitude is taken as an
exact zero (log entry 9).
-/
namespace Sys2Proof.Machine

def gllBits : Nat := 256

/-- 1 in fixed point. -/
def fxOne : Int := 2 ^ gllBits

def fxMul (a b : Int) : Int := a * b / fxOne
def fxDiv (a b : Int) : Int := a * fxOne / b

/-- P_i(x) and P_(i−1)(x) by the three-term recurrence. -/
def legPair (x : Int) : Nat → Int × Int
  | 0 => (fxOne, 0)
  | i + 1 =>
    let r := legPair x i
    (((2 * (i : Int) + 1) * fxMul x r.1 - (i : Int) * r.2) / ((i : Int) + 1), r.1)

/-- P_n(x) down to P_0(x). -/
def legDown (x : Int) : Nat → List Int
  | 0 => [fxOne]
  | 1 => [x, fxOne]
  | i + 2 =>
    match legDown x (i + 1) with
    | p :: q :: t => (((2 * (i : Int) + 3) * fxMul x p - ((i : Int) + 1) * q) / ((i : Int) + 2)) :: p :: q :: t
    | l => l

/-- P_0(x) to P_n(x). -/
def legUp (x : Int) (n : Nat) : List Int := (legDown x n).reverse

/-- P_p′(x) up to the positive factor p / (1 − x²). -/
def derivSign (p : Nat) (x : Int) : Int :=
  let r := legPair x p
  r.2 - fxMul x r.1

/-- One Newton step towards a zero of P_p′, with P_p″ from Legendre's equation. -/
def newtonStep (p : Nat) (x : Int) : Int :=
  let r := legPair x p
  let den := fxOne - fxMul x x
  let d1 := fxDiv ((p : Int) * (r.2 - fxMul x r.1)) den
  let d2 := fxDiv (2 * fxMul x d1 - (p : Int) * ((p : Int) + 1) * r.1) den
  x - fxDiv d1 d2

def newton (p : Nat) : Nat → Int → Int
  | 0, x => x
  | n + 1, x => newton p n (newtonStep p x)

/-- The positive zeros of P_p′, increasing: a sign change between odd multiples of 1/512, then Newton's iteration. -/
def positiveNodes (p : Nat) : List Int :=
  let pts := (List.range 256).map fun j => (2 * (j : Int) + 1) * fxOne / 512
  let signs := pts.map fun x => decide (0 < derivSign p x)
  ((pts.zip signs).zip signs.tail).filterMap fun e =>
    if e.1.2 != e.2 then some (newton p 10 (e.1.1 + fxOne / 512)) else none

/-- The GLL points of degree g, increasing (R133, R138). -/
def gllPoints (g : Nat) : List Int :=
  if g = 0 then [0]
  else
    let pos := positiveNodes g ++ [fxOne]
    (pos.map fun x => -x).reverse ++ (if g % 2 = 0 then [0] else []) ++ pos

/-- The GLL weights (R133, R138). -/
def gllWeights (g : Nat) : List Int :=
  if g = 0 then [2 * fxOne]
  else
    (gllPoints g).map fun x =>
      let v := (legPair x g).1
      fxDiv (2 * fxOne) ((g : Int) * ((g : Int) + 1) * fxMul v v)

/-- A matrix of reals in fixed point. -/
abbrev FxMatrix := List (List Int)

/-- E(p→g) (R136). -/
def matE (p g : Nat) : FxMatrix := (gllPoints g).map fun x => legUp x p

/-- The modal coefficients of each Lagrange polynomial ℓ_i of degree p: row i lists P_0 to P_p. They are the columns of
A(p→p), w_i P_j(η_i) / γ_j with γ_j = 2/(2j+1) and γ_p = 2/p. -/
def lagrangeModes (p : Nat) : FxMatrix :=
  ((gllPoints p).zip (gllWeights p)).map fun e =>
    (legUp e.1 p).zipIdx.map fun v =>
      let j := v.2
      let c : Int := if j = p ∧ p ≠ 0 then p else 2 * j + 1
      fxMul e.2 v.1 * c / 2

/-- Σ a_j b_j. -/
def fxDot (a b : List Int) : Int := ((a.zip b).map fun e => fxMul e.1 e.2).sum

/-- A(g→r), r ≤ g (R136). -/
def matA (g r : Nat) : FxMatrix :=
  let l := lagrangeModes g
  (List.range (r + 1)).map fun k => l.map fun row => row.getD k 0

/-- Values of a family of modal functions: for each point its basis values, dotted with each row of modal coefficients. -/
def evalModes (basis modes : FxMatrix) : FxMatrix := basis.map fun b => modes.map fun m => fxDot b m

/-- I(p→g) (R136). -/
def matI (p g : Nat) : FxMatrix := evalModes (matE p g) (lagrangeModes p)

/-- Pj(g→r), r < g (R136): the modal coefficients up to r, at the points of degree r. -/
def matPj (g r : Nat) : FxMatrix := evalModes (matE r r) (lagrangeModes g)

/-- Mc(n→c) (R136). -/
def matMc (n c : Nat) : FxMatrix :=
  let e := matE n c
  (matA c c).map fun row => (List.range (n + 1)).map fun i => fxDot row (e.map fun r => r.getD i 0)

/-- P_0′(x) to P_n′(x), from P_(j+1)′ = P_(j−1)′ + (2j+1) P_j. -/
def legDerivs (x : Int) (n : Nat) : List Int :=
  let p := legUp x n
  (List.range (n + 1)).map fun i =>
    ((List.range i).map fun k => if (i - k) % 2 = 1 then (2 * (k : Int) + 1) * p.getD k 0 else 0).sum

/-- Dn(p) (R136). -/
def matDn (p : Nat) : FxMatrix := evalModes ((gllPoints p).map fun x => legDerivs x p) (lagrangeModes p)

/-- ∫ from −1 to x of P_0 to P_n. -/
def legInts (x : Int) (n : Nat) : List Int :=
  let p := legUp x (n + 1)
  (List.range (n + 1)).map fun i =>
    if i = 0 then x + fxOne else (p.getD (i + 1) 0 - p.getD (i - 1) 0) / (2 * (i : Int) + 1)

/-- Fn(p) (R136). -/
def matFn (p : Nat) : FxMatrix := evalModes ((gllPoints (p + 1)).map fun x => legInts x p) (lagrangeModes p)

/-- Dm with `rows` rows for a source of degree p (R137). -/
def matDm (p rows : Nat) : FxMatrix :=
  (List.range rows).map fun k => (List.range (p + 1)).map fun i =>
    if k < i ∧ (i - k) % 2 = 1 then (2 * (k : Int) + 1) * fxOne else 0

/-- Fm for a source of degree p (R137). -/
def matFm (p : Nat) : FxMatrix :=
  (List.range (p + 2)).map fun j => (List.range (p + 1)).map fun i =>
    if i = 0 ∧ j = 0 then fxOne
    else if i + 1 = j then fxOne / (2 * (i : Int) + 1)
    else if i = j + 1 then -(fxOne / (2 * (i : Int) + 1))
    else 0

/-- A constant rounded once to the working type (R134); `none` for a structural zero. -/
def fxConst (t : ElemTy) (x : Int) : Option Nat :=
  if x.natAbs < 2 ^ 128 then none
  else some (roundMag .rne false t (decide (x < 0)) x.natAbs (-(gllBits : Int)) true).1

/-- A matrix of constants. -/
abbrev Consts := List (List (Option Nat))

def fxConsts (t : ElemTy) (m : FxMatrix) : Consts := m.map fun r => r.map (fxConst t)

/-- The weight M_k of a mode (R137): 2^d over the product of 2i + 1, rounded once. -/
def massConst (t : ElemTy) (idx : List Nat) : Nat :=
  let den := idx.foldl (fun a i => a * (2 * i + 1)) 1
  let num := 2 ^ (gllBits + idx.length)
  (roundMag .rne false t false (num / den) (-(gllBits : Int)) (num % den != 0)).1

/-- A rational constant rounded once (R159). -/
def ratioConst (t : ElemTy) (neg : Bool) (num den : Nat) : Nat :=
  let n := num * 2 ^ gllBits
  (roundMag .rne false t neg (n / den) (-(gllBits : Int)) (n % den != 0)).1

/-- The product of the one-axis weights of a node's indices, rounded once (R154). -/
def weightConst (t : ElemTy) (p : Nat) (idx : List Nat) : Nat :=
  let w := gllWeights p
  ((fxConst t (idx.foldl (fun a i => fxMul a (w.getD i 0)) fxOne))).getD 0

end Sys2Proof.Machine
end

