-- ==== Sys2Proof/Machine/VecArith.lean ====
section
/-!
DEFINITION. Vector arithmetic and conversion (R108 to R111): elementwise float operations rounded by `Round`, integer
operations exact and then wrapped or saturated.
-/
namespace Sys2Proof.Machine

/-- An elementwise result of type `t` from the containers of registers `srcs` (R100, R101). -/
def State.vecOp (s : State) (vd : VReg) (srcs : List VReg) (t : ElemTy) (p : PReg) (f : List Nat → FpRes) :
    Host.Outcome State Fault Refusal :=
  let rs := srcs.map s.me.getV
  .next (s.vecExec vd p (etypeOf t) rs fun e =>
    let r := f (rs.map fun v => v.elem e)
    (containerBits t r.1, r.2))

/-- Operands of a two-operand operation. -/
def arg (l : List Nat) (i : Nat) : Nat := l.getD i 0

/-- A float operation of one operand in mode `rm` (R109). -/
def State.vecF1 (s : State) (vd va : VReg) (t : ElemTy) (rm : Rm) (p : PReg) (f : Rm → Bool → ElemTy → Num → FpRes) :
    Host.Outcome State Fault Refusal :=
  let c := s.me.csr
  s.vecOp vd [va] t p fun l => f (modeOf rm c.rm) c.ftz t (numIn c.ftz t (arg l 0))

/-- A float operation of two operands. -/
def State.vecF2 (s : State) (vd va vb : VReg) (t : ElemTy) (rm : Rm) (p : PReg)
    (f : Rm → Bool → ElemTy → Num → Num → FpRes) : Host.Outcome State Fault Refusal :=
  let c := s.me.csr
  s.vecOp vd [va, vb] t p fun l => f (modeOf rm c.rm) c.ftz t (numIn c.ftz t (arg l 0)) (numIn c.ftz t (arg l 1))

/-- A float operation of three operands. -/
def State.vecF3 (s : State) (vd va vb vc : VReg) (t : ElemTy) (rm : Rm) (p : PReg)
    (f : Rm → Bool → ElemTy → Num → Num → Num → FpRes) : Host.Outcome State Fault Refusal :=
  let c := s.me.csr
  s.vecOp vd [va, vb, vc] t p fun l =>
    f (modeOf rm c.rm) c.ftz t (numIn c.ftz t (arg l 0)) (numIn c.ftz t (arg l 1)) (numIn c.ftz t (arg l 2))

/-- Minimum or maximum of floats. -/
def State.vecFMinMax (s : State) (vd va vb : VReg) (t : ElemTy) (p : PReg) (isMax : Bool) :
    Host.Outcome State Fault Refusal :=
  let c := s.me.csr
  s.vecOp vd [va, vb] t p fun l => fpMinMax isMax c.ftz t (arg l 0) (arg l 1)

/-- Sign cleared or flipped. -/
def State.vecFSign (s : State) (vd va : VReg) (t : ElemTy) (p : PReg) (flip : Bool) :
    Host.Outcome State Fault Refusal :=
  let c := s.me.csr
  s.vecOp vd [va] t p fun l => fpSign flip c.ftz t (arg l 0)

/-- An exact integer as the bits of its type: RM 1 saturates, RM 0 wraps (R110). -/
def finishInt (sat : Bool) (t : ElemTy) (x : Int) : Nat := intBits t (if sat then satInt x t else x)

/-- An integer operation on the operands' values: no flag. -/
def State.vecInt (s : State) (vd : VReg) (srcs : List VReg) (t : ElemTy) (rm : Rm) (p : PReg) (f : List Int → Int) :
    Host.Outcome State Fault Refusal :=
  s.vecOp vd srcs t p fun l => (finishInt (decide (rm = .rtz)) t (f (l.map (intOf t))), flNone)

/-- An operand value. -/
def argI (l : List Int) (i : Nat) : Int := l.getD i 0

/-! Exact results of R110. -/

def intAnd (t : ElemTy) (a b : Int) : Int := ((intBits t a &&& intBits t b : Nat) : Int)
def intOr (t : ElemTy) (a b : Int) : Int := ((intBits t a ||| intBits t b : Nat) : Int)
def intXor (t : ElemTy) (a b : Int) : Int := ((intBits t a ^^^ intBits t b : Nat) : Int)

/-- Shift count b mod N. -/
def shiftOf (t : ElemTy) (b : Int) : Nat := (b % (t.width : Int)).toNat

def intShl (t : ElemTy) (a b : Int) : Int := a * 2 ^ shiftOf t b
def intShr (t : ElemTy) (a b : Int) : Int := ((intBits t a / 2 ^ shiftOf t b : Nat) : Int)

/-- Copies of bit N − 1 come in, whatever the signedness. -/
def intSra (t : ElemTy) (a b : Int) : Int :=
  let n := intBits t a
  let signed : Int := if 2 ^ (t.width - 1) ≤ n then (n : Int) - 2 ^ t.width else n
  signed / 2 ^ shiftOf t b

/-- `vadd.f32` (R109). -/
def execVaddF32 (a b c : VReg) (p : PReg) (s : State) : Host.Outcome State Fault Refusal :=
  s.vecF2 a b c .f32 .dyn p fpAdd

/-- `vsub.f32` (R109). -/
def execVsubF32 (a b c : VReg) (p : PReg) (s : State) : Host.Outcome State Fault Refusal :=
  s.vecF2 a b c .f32 .dyn p fpSub

/-- `vmul.f32` (R109). -/
def execVmulF32 (a b c : VReg) (p : PReg) (s : State) : Host.Outcome State Fault Refusal :=
  s.vecF2 a b c .f32 .dyn p fpMul

/-- `vfma.f32` (R62, R109): vd = va × vb + vd. -/
def execVfmaF32 (a b c : VReg) (p : PReg) (s : State) : Host.Outcome State Fault Refusal :=
  s.vecF3 a b c a .f32 .dyn p fpFma

/-- `vdiv.f32` (R109). -/
def execVdivF32 (a b c : VReg) (p : PReg) (s : State) : Host.Outcome State Fault Refusal :=
  s.vecF2 a b c .f32 .dyn p fpDiv

/-- `vsqrt.f32` (R109). -/
def execVsqrtF32 (a b : VReg) (p : PReg) (s : State) : Host.Outcome State Fault Refusal :=
  s.vecF1 a b .f32 .dyn p fpSqrt

/-- `vrsqrt.f32` (R109). -/
def execVrsqrtF32 (a b : VReg) (p : PReg) (s : State) : Host.Outcome State Fault Refusal :=
  s.vecF1 a b .f32 .dyn p fpRsqrt

/-- `vrcp.f32` (R109). -/
def execVrcpF32 (a b : VReg) (p : PReg) (s : State) : Host.Outcome State Fault Refusal :=
  s.vecF1 a b .f32 .dyn p fpRcp

/-- `vexp2.f32` (R109). -/
def execVexp2F32 (a b : VReg) (p : PReg) (s : State) : Host.Outcome State Fault Refusal :=
  s.vecF1 a b .f32 .dyn p fpExp2

/-- `vlog2.f32` (R109). -/
def execVlog2F32 (a b : VReg) (p : PReg) (s : State) : Host.Outcome State Fault Refusal :=
  s.vecF1 a b .f32 .dyn p fpLog2

/-- `vmin.f32` (R109). -/
def execVminF32 (a b c : VReg) (p : PReg) (s : State) : Host.Outcome State Fault Refusal :=
  s.vecFMinMax a b c .f32 p false

/-- `vmax.f32` (R109). -/
def execVmaxF32 (a b c : VReg) (p : PReg) (s : State) : Host.Outcome State Fault Refusal :=
  s.vecFMinMax a b c .f32 p true

/-- `vabs.f32` (R109). -/
def execVabsF32 (a b : VReg) (p : PReg) (s : State) : Host.Outcome State Fault Refusal :=
  s.vecFSign a b .f32 p false

/-- `vneg.f32` (R109). -/
def execVnegF32 (a b : VReg) (p : PReg) (s : State) : Host.Outcome State Fault Refusal :=
  s.vecFSign a b .f32 p true

/-- `vadd.f64` (R109). -/
def execVaddF64 (a b c : VReg) (p : PReg) (s : State) : Host.Outcome State Fault Refusal :=
  s.vecF2 a b c .f64 .dyn p fpAdd

/-- `vsub.f64` (R109). -/
def execVsubF64 (a b c : VReg) (p : PReg) (s : State) : Host.Outcome State Fault Refusal :=
  s.vecF2 a b c .f64 .dyn p fpSub

/-- `vmul.f64` (R109). -/
def execVmulF64 (a b c : VReg) (p : PReg) (s : State) : Host.Outcome State Fault Refusal :=
  s.vecF2 a b c .f64 .dyn p fpMul

/-- `vfma.f64` (R62, R109): vd = va × vb + vd. -/
def execVfmaF64 (a b c : VReg) (p : PReg) (s : State) : Host.Outcome State Fault Refusal :=
  s.vecF3 a b c a .f64 .dyn p fpFma

/-- `vdiv.f64` (R109). -/
def execVdivF64 (a b c : VReg) (p : PReg) (s : State) : Host.Outcome State Fault Refusal :=
  s.vecF2 a b c .f64 .dyn p fpDiv

/-- `vsqrt.f64` (R109). -/
def execVsqrtF64 (a b : VReg) (p : PReg) (s : State) : Host.Outcome State Fault Refusal :=
  s.vecF1 a b .f64 .dyn p fpSqrt

/-- `vrsqrt.f64` (R109). -/
def execVrsqrtF64 (a b : VReg) (p : PReg) (s : State) : Host.Outcome State Fault Refusal :=
  s.vecF1 a b .f64 .dyn p fpRsqrt

/-- `vrcp.f64` (R109). -/
def execVrcpF64 (a b : VReg) (p : PReg) (s : State) : Host.Outcome State Fault Refusal :=
  s.vecF1 a b .f64 .dyn p fpRcp

/-- `vexp2.f64` (R109). -/
def execVexp2F64 (a b : VReg) (p : PReg) (s : State) : Host.Outcome State Fault Refusal :=
  s.vecF1 a b .f64 .dyn p fpExp2

/-- `vlog2.f64` (R109). -/
def execVlog2F64 (a b : VReg) (p : PReg) (s : State) : Host.Outcome State Fault Refusal :=
  s.vecF1 a b .f64 .dyn p fpLog2

/-- `vmin.f64` (R109). -/
def execVminF64 (a b c : VReg) (p : PReg) (s : State) : Host.Outcome State Fault Refusal :=
  s.vecFMinMax a b c .f64 p false

/-- `vmax.f64` (R109). -/
def execVmaxF64 (a b c : VReg) (p : PReg) (s : State) : Host.Outcome State Fault Refusal :=
  s.vecFMinMax a b c .f64 p true

/-- `vabs.f64` (R109). -/
def execVabsF64 (a b : VReg) (p : PReg) (s : State) : Host.Outcome State Fault Refusal :=
  s.vecFSign a b .f64 p false

/-- `vneg.f64` (R109). -/
def execVnegF64 (a b : VReg) (p : PReg) (s : State) : Host.Outcome State Fault Refusal :=
  s.vecFSign a b .f64 p true

/-- `vadd.s32` (R110), wrapping. -/
def execVaddS32 (a b c : VReg) (p : PReg) (s : State) : Host.Outcome State Fault Refusal :=
  s.vecInt a [b, c] .s32 .rne p fun l => argI l 0 + argI l 1

/-- `vsub.s32` (R110), wrapping. -/
def execVsubS32 (a b c : VReg) (p : PReg) (s : State) : Host.Outcome State Fault Refusal :=
  s.vecInt a [b, c] .s32 .rne p fun l => argI l 0 - argI l 1

/-- `vmul.s32` (R110), wrapping. -/
def execVmulS32 (a b c : VReg) (p : PReg) (s : State) : Host.Outcome State Fault Refusal :=
  s.vecInt a [b, c] .s32 .rne p fun l => argI l 0 * argI l 1

/-- `vfma.s32` (R110), wrapping. -/
def execVfmaS32 (a b c : VReg) (p : PReg) (s : State) : Host.Outcome State Fault Refusal :=
  s.vecInt a [b, c, a] .s32 .rne p fun l => argI l 0 * argI l 1 + argI l 2

/-- `vmin.s32` (R110), wrapping. -/
def execVminS32 (a b c : VReg) (p : PReg) (s : State) : Host.Outcome State Fault Refusal :=
  s.vecInt a [b, c] .s32 .rne p fun l => min (argI l 0) (argI l 1)

/-- `vmax.s32` (R110), wrapping. -/
def execVmaxS32 (a b c : VReg) (p : PReg) (s : State) : Host.Outcome State Fault Refusal :=
  s.vecInt a [b, c] .s32 .rne p fun l => max (argI l 0) (argI l 1)

/-- `vabs.s32` (R110), wrapping. -/
def execVabsS32 (a b : VReg) (p : PReg) (s : State) : Host.Outcome State Fault Refusal :=
  s.vecInt a [b] .s32 .rne p fun l => ((argI l 0).natAbs : Int)

/-- `vneg.s32` (R110), wrapping. -/
def execVnegS32 (a b : VReg) (p : PReg) (s : State) : Host.Outcome State Fault Refusal :=
  s.vecInt a [b] .s32 .rne p fun l => -argI l 0

/-- `vand.s32` (R110), wrapping. -/
def execVandS32 (a b c : VReg) (p : PReg) (s : State) : Host.Outcome State Fault Refusal :=
  s.vecInt a [b, c] .s32 .rne p fun l => intAnd .s32 (argI l 0) (argI l 1)

/-- `vor.s32` (R110), wrapping. -/
def execVorS32 (a b c : VReg) (p : PReg) (s : State) : Host.Outcome State Fault Refusal :=
  s.vecInt a [b, c] .s32 .rne p fun l => intOr .s32 (argI l 0) (argI l 1)

/-- `vxor.s32` (R110), wrapping. -/
def execVxorS32 (a b c : VReg) (p : PReg) (s : State) : Host.Outcome State Fault Refusal :=
  s.vecInt a [b, c] .s32 .rne p fun l => intXor .s32 (argI l 0) (argI l 1)

/-- `vshl.s32` (R110), wrapping. -/
def execVshlS32 (a b c : VReg) (p : PReg) (s : State) : Host.Outcome State Fault Refusal :=
  s.vecInt a [b, c] .s32 .rne p fun l => intShl .s32 (argI l 0) (argI l 1)

/-- `vshr.s32` (R110), wrapping. -/
def execVshrS32 (a b c : VReg) (p : PReg) (s : State) : Host.Outcome State Fault Refusal :=
  s.vecInt a [b, c] .s32 .rne p fun l => intShr .s32 (argI l 0) (argI l 1)

/-- `vsra.s32` (R110), wrapping. -/
def execVsraS32 (a b c : VReg) (p : PReg) (s : State) : Host.Outcome State Fault Refusal :=
  s.vecInt a [b, c] .s32 .rne p fun l => intSra .s32 (argI l 0) (argI l 1)

/-- `vadd`, extended form (R108). -/
def execVaddExt (a b c : VReg) (t : ElemTy) (rm : Rm) (p : PReg) (s : State) : Host.Outcome State Fault Refusal :=
  if t.isInt then
    s.vecInt a [b, c] t rm p fun l => argI l 0 + argI l 1
  else s.vecF2 a b c t rm p fpAdd

/-- `vsub`, extended form (R108). -/
def execVsubExt (a b c : VReg) (t : ElemTy) (rm : Rm) (p : PReg) (s : State) : Host.Outcome State Fault Refusal :=
  if t.isInt then
    s.vecInt a [b, c] t rm p fun l => argI l 0 - argI l 1
  else s.vecF2 a b c t rm p fpSub

/-- `vmul`, extended form (R108). -/
def execVmulExt (a b c : VReg) (t : ElemTy) (rm : Rm) (p : PReg) (s : State) : Host.Outcome State Fault Refusal :=
  if t.isInt then
    s.vecInt a [b, c] t rm p fun l => argI l 0 * argI l 1
  else s.vecF2 a b c t rm p fpMul

/-- `vfma`, extended form (R108). -/
def execVfmaExt (a b c d : VReg) (t : ElemTy) (rm : Rm) (p : PReg) (s : State) : Host.Outcome State Fault Refusal :=
  if t.isInt then
    s.vecInt a [b, c, d] t rm p fun l => argI l 0 * argI l 1 + argI l 2
  else s.vecF3 a b c d t rm p fpFma

/-- `vdiv`, extended form (R108). -/
def execVdivExt (a b c : VReg) (t : ElemTy) (rm : Rm) (p : PReg) (s : State) : Host.Outcome State Fault Refusal :=
  s.vecF2 a b c t rm p fpDiv

/-- `vsqrt`, extended form (R108). -/
def execVsqrtExt (a b : VReg) (t : ElemTy) (rm : Rm) (p : PReg) (s : State) : Host.Outcome State Fault Refusal :=
  s.vecF1 a b t rm p fpSqrt

/-- `vrsqrt`, extended form (R108). -/
def execVrsqrtExt (a b : VReg) (t : ElemTy) (rm : Rm) (p : PReg) (s : State) : Host.Outcome State Fault Refusal :=
  s.vecF1 a b t rm p fpRsqrt

/-- `vrcp`, extended form (R108). -/
def execVrcpExt (a b : VReg) (t : ElemTy) (rm : Rm) (p : PReg) (s : State) : Host.Outcome State Fault Refusal :=
  s.vecF1 a b t rm p fpRcp

/-- `vexp2`, extended form (R108). -/
def execVexp2Ext (a b : VReg) (t : ElemTy) (rm : Rm) (p : PReg) (s : State) : Host.Outcome State Fault Refusal :=
  s.vecF1 a b t rm p fpExp2

/-- `vlog2`, extended form (R108). -/
def execVlog2Ext (a b : VReg) (t : ElemTy) (rm : Rm) (p : PReg) (s : State) : Host.Outcome State Fault Refusal :=
  s.vecF1 a b t rm p fpLog2

/-- `vmin`, extended form (R108). -/
def execVminExt (a b c : VReg) (t : ElemTy) (rm : Rm) (p : PReg) (s : State) : Host.Outcome State Fault Refusal :=
  if t.isInt then
    s.vecInt a [b, c] t rm p fun l => min (argI l 0) (argI l 1)
  else s.vecFMinMax a b c t p false

/-- `vmax`, extended form (R108). -/
def execVmaxExt (a b c : VReg) (t : ElemTy) (rm : Rm) (p : PReg) (s : State) : Host.Outcome State Fault Refusal :=
  if t.isInt then
    s.vecInt a [b, c] t rm p fun l => max (argI l 0) (argI l 1)
  else s.vecFMinMax a b c t p true

/-- `vabs`, extended form (R108). -/
def execVabsExt (a b : VReg) (t : ElemTy) (rm : Rm) (p : PReg) (s : State) : Host.Outcome State Fault Refusal :=
  if t.isInt then
    s.vecInt a [b] t rm p fun l => ((argI l 0).natAbs : Int)
  else s.vecFSign a b t p false

/-- `vneg`, extended form (R108). -/
def execVnegExt (a b : VReg) (t : ElemTy) (rm : Rm) (p : PReg) (s : State) : Host.Outcome State Fault Refusal :=
  if t.isInt then
    s.vecInt a [b] t rm p fun l => -argI l 0
  else s.vecFSign a b t p true

/-- `vand`, extended form (R108). -/
def execVandExt (a b c : VReg) (t : ElemTy) (rm : Rm) (p : PReg) (s : State) : Host.Outcome State Fault Refusal :=
  s.vecInt a [b, c] t rm p fun l => intAnd t (argI l 0) (argI l 1)

/-- `vor`, extended form (R108). -/
def execVorExt (a b c : VReg) (t : ElemTy) (rm : Rm) (p : PReg) (s : State) : Host.Outcome State Fault Refusal :=
  s.vecInt a [b, c] t rm p fun l => intOr t (argI l 0) (argI l 1)

/-- `vxor`, extended form (R108). -/
def execVxorExt (a b c : VReg) (t : ElemTy) (rm : Rm) (p : PReg) (s : State) : Host.Outcome State Fault Refusal :=
  s.vecInt a [b, c] t rm p fun l => intXor t (argI l 0) (argI l 1)

/-- `vshl`, extended form (R108). -/
def execVshlExt (a b c : VReg) (t : ElemTy) (rm : Rm) (p : PReg) (s : State) : Host.Outcome State Fault Refusal :=
  s.vecInt a [b, c] t rm p fun l => intShl t (argI l 0) (argI l 1)

/-- `vshr`, extended form (R108). -/
def execVshrExt (a b c : VReg) (t : ElemTy) (rm : Rm) (p : PReg) (s : State) : Host.Outcome State Fault Refusal :=
  s.vecInt a [b, c] t rm p fun l => intShr t (argI l 0) (argI l 1)

/-- `vsra`, extended form (R108). -/
def execVsraExt (a b c : VReg) (t : ElemTy) (rm : Rm) (p : PReg) (s : State) : Host.Outcome State Fault Refusal :=
  s.vecInt a [b, c] t rm p fun l => intSra t (argI l 0) (argI l 1)

/-- `vcvt` (R111): each active element converted by R36. -/
def execVcvt (a b : VReg) (t tb : ElemTy) (rm : Rm) (p : PReg) (s : State) : Host.Outcome State Fault Refusal :=
  let c := s.me.csr
  s.vecOp a [b] t p fun l => convert (modeOf rm c.rm) c.ftz t tb (arg l 0)

end Sys2Proof.Machine
end

