-- ==== Sys2Proof/Machine/VecMisc.lean ====
section
/-!
DEFINITION. Compares, moves and predicates (R112 to R114), reductions and scans on the fixed tree (R46 to R48, R115, R116),
permutes and random numbers (R117, R118).
-/
namespace Sys2Proof.Machine

/-! Compare (R112). -/

/-- An integer relation. -/
def intCmp (x : Cond) (a b : Int) : Bool :=
  match x with
  | .eq => a == b
  | .ne => a != b
  | .lt => decide (a < b)
  | .le => decide (a ≤ b)
  | .gt => decide (b < a)
  | .ge => decide (b ≤ a)
  | .un => false

/-- A relation of two containers of a type. -/
def elemCmp (ftz : Bool) (t : ElemTy) (x : Cond) (a b : Nat) : Bool × FpFlags :=
  if t.isInt then (intCmp x (intOf t a) (intOf t b), flNone) else fpCmp x (numIn ftz t a) (numIn ftz t b)

/-- A predicate with bit `e` set or cleared. -/
def setBit (p : BitVec 256) (e : Nat) (v : Bool) : BitVec 256 :=
  if v then p ||| (1#256 <<< e) else p &&& ~~~(1#256 <<< e)

/-- An instruction that writes a predicate, commits nothing when it faults and leaves `VRI` at 0 (R126, R128): mismatch, poison,
then the write. -/
def State.predWrite (s : State) (pd : PReg) (acts : List Nat) (poisoned : Bool) (new : BitVec 256) (fl : FpFlags) :
    State :=
  let h := s.me
  if h.csr.vl = 0 then s.retire
  else
    match h.mismatchAt acts with
    | some m => s.mismatch m 0
    | none =>
      if poisoned then s.trapV 10 0 0
      else
        (s.setMe (h.setP pd (h.predBits (h.getP pd) new))).vecRetire fl

/-- An instruction with an x destination that restarts whole (R126): with VL = 0 it writes xd and nothing else (R104). -/
def State.wholeX (s : State) (rd : XReg) (v : Word64) (fl : FpFlags) : State :=
  if s.me.csr.vl = 0 then s.retireX rd v else (s.setX rd v).vecRetire fl

/-- `vcmp` on a type: inactive bits below VL keep their values. -/
def State.compare (s : State) (pd : PReg) (va vb : VReg) (p : PReg) (x : Cond) (t : ElemTy) :
    Host.Outcome State Fault Refusal :=
  let h := s.me
  let acts := h.setBelow (h.getP p)
  let a := h.getV va
  let b := h.getV vb
  let r := acts.foldl (fun (acc : BitVec 256 × FpFlags) e =>
    let c := elemCmp h.csr.ftz t x (a.elem e) (b.elem e)
    (setBit acc.1 e c.1, acc.2 ||| c.2)) (h.getP pd, flNone)
  .next (s.predWrite pd acts (acts.any fun e => a.badElem e || b.badElem e) r.1 r.2)

/-- Class of a one-word compare: F[4:3]. -/
def cmpClass (k : BitVec 2) : ElemTy :=
  match k.toNat with
  | 0 => .f32
  | 1 => .f64
  | 2 => .s32
  | _ => .z32

/-- `vcmp`, one word (R112). -/
def execVcmp (a : PReg) (b c : VReg) (p : PReg) (x : Cond) (k : BitVec 2) (s : State) :
    Host.Outcome State Fault Refusal :=
  s.compare a b c p x (cmpClass k)

/-- `vcmp`, extended form (R112). -/
def execVcmpExt (a : PReg) (b c : VReg) (x : Cond) (t : ElemTy) (p : PReg) (s : State) :
    Host.Outcome State Fault Refusal :=
  s.compare a b c p x t

/-! Moves (R113). -/

/-- The container of element `e` read at the width of ETYPE `et` (R102). -/
def VRegister.readAs (v : VRegister) (et : BitVec 2) (e : Nat) : Nat := if et = 1 then v.elem e else v.elem e % 2 ^ 32

/-- `vsel` (R113): P selects and does not mask. -/
def execVsel (a b c : VReg) (p : PReg) (s : State) : Host.Outcome State Fault Refusal :=
  let h := s.me
  let va := h.getV b
  let vb := h.getV c
  let pb := h.getP p
  let et := va.desc.etype
  .next (s.vecRun a (h.actives (BitVec.allOnes 256)) et
    (fun e => if pb.getLsbD e then va.badElem e else vb.badElem e)
    fun e => (if pb.getLsbD e then va.readAs et e else vb.readAs et e, flNone))

/-- `vmov` (R113). -/
def execVmov (a b : VReg) (p : PReg) (s : State) : Host.Outcome State Fault Refusal :=
  let va := s.me.getV b
  .next (s.vecExec a p va.desc.etype [va] fun e => (va.elem e, flNone))

/-- `vbcast` (R113): dd.ETYPE is kept. -/
def execVbcast (a : VReg) (b : XReg) (p : PReg) (s : State) : Host.Outcome State Fault Refusal :=
  let et := (s.me.getV a).desc.etype
  .next (s.vecExec a p et [] fun _ => ((s.x b).toNat % 2 ^ (32 * wideRows et), flNone))

/-- `vext` (R113): element Z(xc), or 0 at or beyond VL. -/
def execVext (a : XReg) (b : VReg) (c : XReg) (s : State) : Host.Outcome State Fault Refusal :=
  let v := s.me.getV b
  let e := (s.x c).toNat
  if s.me.csr.vl.toNat ≤ e then .next (s.wholeX a 0 flNone)
  else if v.badElem e then .next (s.trapV 10 0 0)
  else .next (s.wholeX a (BitVec.ofNat 64 (v.elem e)) flNone)

/-- `vid` (R113): e as s32. -/
def execVid (a : VReg) (p : PReg) (s : State) : Host.Outcome State Fault Refusal :=
  .next (s.vecExec a p 2 [] fun e => (e, flNone))

/-! Predicates (R114). -/

/-- A predicate instruction: bits computed for e < VL, no governing predicate. -/
def State.predOp (s : State) (pd : PReg) (new : BitVec 256) : Host.Outcome State Fault Refusal :=
  .next (s.predWrite pd (List.range s.me.csr.vl.toNat) false new flNone)

/-- `pand` (R114). -/
def execPand (a b c : PReg) (s : State) : Host.Outcome State Fault Refusal :=
  s.predOp a (s.me.getP b &&& s.me.getP c)

/-- `por` (R114). -/
def execPor (a b c : PReg) (s : State) : Host.Outcome State Fault Refusal :=
  s.predOp a (s.me.getP b ||| s.me.getP c)

/-- `pxor` (R114). -/
def execPxor (a b c : PReg) (s : State) : Host.Outcome State Fault Refusal :=
  s.predOp a (s.me.getP b ^^^ s.me.getP c)

/-- `pnot` (R114). -/
def execPnot (a b : PReg) (s : State) : Host.Outcome State Fault Refusal := s.predOp a (~~~ s.me.getP b)

/-- `pset` (R114): bit e is 1 when e < Z(xb). -/
def execPset (a : PReg) (b : XReg) (s : State) : Host.Outcome State Fault Refusal :=
  s.predOp a (BitVec.ofNat 256 (2 ^ min (s.x b).toNat 256 - 1))

/-- `pfirst` (R114): the least set bit below VL, or VL; with VL = 0 it still writes (R104). -/
def execPfirst (a : XReg) (b : PReg) (s : State) : Host.Outcome State Fault Refusal :=
  let h := s.me
  .next (s.wholeX a (BitVec.ofNat 64 ((h.setBelow (h.getP b)).head?.getD h.csr.vl.toNat)) flNone)

/-- `ppop` (R114). -/
def execPpop (a : XReg) (b : PReg) (s : State) : Host.Outcome State Fault Refusal :=
  let h := s.me
  .next (s.wholeX a (BitVec.ofNat 64 (h.setBelow (h.getP b)).length) flNone)

/-! Reductions and scans (R46 to R48, R115, R116). -/

/-- A node's value and the flags of every rounding in it; `none` when absent. -/
abbrev TreeVal := Option (Nat × FpFlags)

/-- A leaf as the tree takes it: a NaN is `Canon`, with NV when it signals (R31), and a subnormal is flushed under FTZ (R35), so
that a single present leaf is passed up by R46 without its payload (log entry 13). -/
def leafVal (ftz : Bool) (t : ElemTy) (bits : Nat) : FpRes :=
  if t.isInt then (bits, flNone)
  else
    match numOf t bits with
    | .nan sig => (canon t, if sig then flNV else flNone)
    | .inf _ | .fin _ _ _ => (flushIn ftz t bits, flNone)

/-- Two present children are combined, one is passed up unchanged (R46). -/
def joinTree (op : Nat → Nat → FpRes) (a b : TreeVal) : TreeVal :=
  match a, b with
  | some x, some y =>
    let r := op x.1 y.1
    some (r.1, x.2 ||| y.2 ||| r.2)
  | some x, none => some x
  | none, y => y

/-- The node of level `k` whose first leaf is `lo` (R46). -/
def treeNode (op : Nat → Nat → FpRes) (leaf : Nat → TreeVal) : Nat → Nat → TreeVal
  | 0, lo => leaf lo
  | k + 1, lo => joinTree op (treeNode op leaf k lo) (treeNode op leaf k (lo + 2 ^ k))

/-- Levels of the tree over `n` leaves: the least k with n ≤ 2^k. -/
def treeLevels (n : Nat) : Nat := if n ≤ 1 then 0 else (n - 1).log2 + 1

/-- The inclusive scan at index `i` (R47), from block size 2^k down. -/
def scanFrom (op : Nat → Nat → FpRes) (leaf : Nat → TreeVal) (i : Nat) : Nat → Nat → TreeVal → TreeVal
  | 0, lo, acc => if (i + 1) % 2 = 1 then joinTree op acc (treeNode op leaf 0 lo) else acc
  | k + 1, lo, acc =>
    if (i + 1) / 2 ^ (k + 1) % 2 = 1 then
      scanFrom op leaf i k (lo + 2 ^ (k + 1)) (joinTree op acc (treeNode op leaf (k + 1) lo))
    else scanFrom op leaf i k lo acc

/-- The operation of a node on a type: float add rounds, float min and max are those of `sfmin` and `sfmax`, integers
are exact and then wrapped or saturated (R116). -/
def redNode (op : RedOp) (ftz : Bool) (mode : Rm) (sat : Bool) (t : ElemTy) (a b : Nat) : FpRes :=
  if t.isInt then
    let x := intOf t a
    let y := intOf t b
    let r := match op with
      | .add => x + y
      | .min => min x y
      | .max => max x y
      | .and => intAnd t x y
      | .or => intOr t x y
      | .xor => intXor t x y
    (finishInt sat t r, flNone)
  else
    match op with
    | .min => fpMinMax false ftz t a b
    | .max => fpMinMax true ftz t a b
    | _ => fpAdd mode ftz t (numIn ftz t a) (numIn ftz t b)

/-- The empty value (R116). -/
def redEmpty (op : RedOp) (t : ElemTy) : Nat :=
  match op with
  | .add => 0
  | .min => if t.isInt then intBits t (intMax t) else infBits t false
  | .max => if t.isInt then intBits t (intMin t) else infBits t true
  | .and => 2 ^ t.width - 1
  | .or | .xor => 0

/-- The node operation with an instruction's fields under the hart's `FRM`. -/
def Hart.redFn (h : Hart) (op : RedOp) (t : ElemTy) (rm : Rm) : Nat → Nat → FpRes :=
  redNode op h.csr.ftz (modeOf rm h.csr.rm) (decide (rm = .rtz)) t

/-- The leaf of element `e`: its low bits when it is active. -/
def leafOfElem (ftz : Bool) (v : VRegister) (t : ElemTy) (acts : List Nat) (e : Nat) : TreeVal :=
  if acts.contains e then some (leafVal ftz t (v.elem e % 2 ^ t.width)) else none

/-- The first element of the segment of `e` (R48): element 0 or the last boundary at or below it. -/
def segStart (pb : BitVec 256) : Nat → Nat
  | 0 => 0
  | e + 1 => if pb.getLsbD (e + 1) then e + 1 else segStart pb e

/-- Elements of the segment that starts at `a`, below `vl`: those up to the next boundary. -/
def segLength (pb : BitVec 256) (vl a : Nat) : Nat :=
  (((List.range vl).filter fun e => decide (a < e) && pb.getLsbD e).head?.getD vl) - a

/-- A result or the empty value. -/
def treeBits (empty : Nat) (v : TreeVal) : FpRes := v.getD (empty, flNone)

/-- `vred` (R116): the root in xd, also with VL = 0 (R104). -/
def execVred (op : RedOp) (a : XReg) (b : VReg) (t : ElemTy) (rm : Rm) (p : PReg) (s : State) :
    Host.Outcome State Fault Refusal :=
  let h := s.me
  let v := h.getV b
  let acts := h.setBelow (h.getP p)
  match h.mismatchAt acts with
  | some m => .next (s.mismatch m 0)
  | none =>
    if acts.any fun e => v.badElem e then .next (s.trapV 10 0 0)
    else
      let r := treeBits (redEmpty op t)
        (treeNode (h.redFn op t rm) (leafOfElem h.csr.ftz v t acts) (treeLevels h.csr.vl.toNat) 0)
      .next (s.wholeX a (extendX t r.1) r.2)

/-- A reduction or scan into a vector: `f` gives each active element's value. -/
def State.vecTree (s : State) (vd va : VReg) (t : ElemTy) (p : PReg) (f : (Nat → TreeVal) → Nat → FpRes) :
    Host.Outcome State Fault Refusal :=
  let h := s.me
  let v := h.getV va
  let acts := h.setBelow (h.getP p)
  let rs := acts.map fun e => (e, f (leafOfElem h.csr.ftz v t acts) e)
  .next (s.vecWhole vd (etypeOf t) acts (acts.any fun e => v.badElem e)
    (rs.map fun r => (r.1, containerBits t r.2.1)) (rs.foldl (fun fl r => fl ||| r.2.2) flNone))

/-- The inclusive or exclusive scan at index `i` of a vector of `n` elements. -/
def scanValue (op : Nat → Nat → FpRes) (empty : Nat) (leaf : Nat → TreeVal) (n : Nat) (excl : Bool) (i : Nat) :
    FpRes :=
  if excl then
    match i with
    | 0 => (empty, flNone)
    | j + 1 => treeBits empty (scanFrom op leaf j (treeLevels n) 0 none)
  else treeBits empty (scanFrom op leaf i (treeLevels n) 0 none)

/-- `vsred` (R116): each active element gets the root of its segment's tree. -/
def execVsred (op : RedOp) (a b : VReg) (d : PReg) (t : ElemTy) (rm : Rm) (p : PReg) (s : State) :
    Host.Outcome State Fault Refusal :=
  let h := s.me
  let pb := h.getP d
  s.vecTree a b t p fun leaf e =>
    let st := segStart pb e
    let n := segLength pb h.csr.vl.toNat st
    treeBits (redEmpty op t)
      (treeNode (h.redFn op t rm) (fun i => if i < n then leaf (st + i) else none) (treeLevels n) 0)

/-- `vscan` (R116). -/
def execVscan (op : RedOp) (excl : Bool) (a b : VReg) (t : ElemTy) (rm : Rm) (p : PReg) (s : State) :
    Host.Outcome State Fault Refusal :=
  let h := s.me
  s.vecTree a b t p fun leaf e => scanValue (h.redFn op t rm) (redEmpty op t) leaf h.csr.vl.toNat excl e

/-- `vsscan` (R116). -/
def execVsscan (op : RedOp) (excl : Bool) (a b : VReg) (d : PReg) (t : ElemTy) (rm : Rm) (p : PReg) (s : State) :
    Host.Outcome State Fault Refusal :=
  let h := s.me
  let pb := h.getP d
  s.vecTree a b t p fun leaf e =>
    let st := segStart pb e
    let n := segLength pb h.csr.vl.toNat st
    scanValue (h.redFn op t rm) (redEmpty op t) (fun i => if i < n then leaf (st + i) else none) n excl (e - st)

/-! Permutes (R117) and random numbers (R118). -/

/-- A permutation into vd: `pick e` names the source element, `none` a zero container. -/
def State.vecPick (s : State) (vd va : VReg) (acts : List Nat) (bad : Bool) (elems : List Nat) (pick : Nat → Option Nat) :
    Host.Outcome State Fault Refusal :=
  let v := s.me.getV va
  let reads := elems.filterMap pick
  .next (s.vecWhole vd v.desc.etype acts (bad || reads.any fun e => v.badElem e)
    (elems.map fun e => (e, match pick e with
      | some i => v.elem i
      | none => 0)) flNone)

/-- The elements a permutation selects (R117). -/
def Hart.selected (h : Hart) (p : PReg) : List Nat := h.setBelow (h.getP p)

/-- `vcompress` (R117): elements past the selected ones become zero under TD = 1 and are kept under TD = 0. -/
def execVcompress (a b : VReg) (p : PReg) (s : State) : Host.Outcome State Fault Refusal :=
  let h := s.me
  let js := h.selected p
  let upto := if h.csr.vpolTd then h.csr.vl.toNat else js.length
  s.vecPick a b js false (List.range upto) fun i => js[i]?

/-- `vexpand` (R117). -/
def execVexpand (a b : VReg) (p : PReg) (s : State) : Host.Outcome State Fault Refusal :=
  let js := s.me.selected p
  s.vecPick a b js false js fun e => some (js.filter fun j => decide (j < e)).length

/-- An index inside 0 … VL − 1. -/
def Hart.inVl (h : Hart) (i : Int) : Option Nat := if 0 ≤ i ∧ i < h.csr.vl.toNat then some i.toNat else none

/-- `vperm` (R117): indices read as z32. -/
def execVperm (a b c : VReg) (p : PReg) (s : State) : Host.Outcome State Fault Refusal :=
  let h := s.me
  let acts := h.setBelow (h.getP p)
  let ix := h.getV c
  s.vecPick a b acts (acts.any fun e => ix.badElem e) acts fun e => h.inVl ((ix.elem e % 2 ^ 32 : Nat) : Int)

/-- `vslide` (R117): va[e + S(xc)]. -/
def execVslide (a b : VReg) (c : XReg) (p : PReg) (s : State) : Host.Outcome State Fault Refusal :=
  let h := s.me
  let acts := h.setBelow (h.getP p)
  s.vecPick a b acts false acts fun e => h.inVl ((e : Int) + (s.x c).toInt)

/-- `vpass` (R117): va[e − 1], and xc at element 0. -/
def execVpass (a b : VReg) (c : XReg) (p : PReg) (s : State) : Host.Outcome State Fault Refusal :=
  let h := s.me
  let v := h.getV b
  let acts := h.setBelow (h.getP p)
  let first := (s.x c).toNat % 2 ^ (32 * wideRows v.desc.etype)
  .next (s.vecWhole a v.desc.etype acts (acts.any fun e => e != 0 && v.badElem (e - 1))
    (acts.map fun e => (e, if e = 0 then first else v.elem (e - 1))) flNone)

/-- `Rand` (R118). -/
def randOf (key ctr : Word64) (e : Nat) : Word32 :=
  let x0 := (ctr.setWidth 32 + BitVec.ofNat 32 e) ^^^ key.setWidth 32
  let x1 := x0 * 0x6A5D39E9#32
  let x2 := (x1 ^^^ (x1 >>> 16)) ^^^ (key >>> 32).setWidth 32
  let x3 := x2 * 0x2F1B4C63#32
  x3 ^^^ (x3 >>> 16)

/-- `vrand` (R117, R118). -/
def execVrand (a : VReg) (b c : XReg) (p : PReg) (s : State) : Host.Outcome State Fault Refusal :=
  let h := s.me
  let acts := h.setBelow (h.getP p)
  .next (s.vecWhole a 2 acts false (acts.map fun e => (e, (randOf (s.x b) (s.x c) e).toNat)) flNone)

end Sys2Proof.Machine
end

