-- ==== Sys2Proof/Machine/VecMem.lean ====
section
/-!
DEFINITION. Vector loads and stores (R119 to R123, R125, R127): elements in increasing order, each aligned and checked by
R79, the elements below a failing one committed.
-/
namespace Sys2Proof.Machine

/-- What one element does: the new state and what it has gathered, or the state, cause and EVAL of its fault. -/
abbrev MemStep (α : Type) := Nat → State → α → Except (State × Nat × Word64) (State × α)

/-- Elements in increasing order until one faults. -/
def memLoop {α : Type} (f : MemStep α) : List Nat → State → α → State × α × VecEnd
  | [], s, vs => (s, vs, .done)
  | e :: t, s, vs =>
    match f e s vs with
    | .ok (s1, vs1) => memLoop f t s1 vs1
    | .error (s1, c, ev) => (s1, vs, .stop e c ev)

/-- The scratchpad windows of R121: own, same press, same die. -/
def inSpadWindow (va : Nat) : Bool :=
  decide (va < 0x100000) || (decide (0x7F0000000000 ≤ va) && decide (va < 0x7F0000400000)) ||
    (decide (0x7F0010000000 ≤ va) && decide (va < 0x7F0018000000))

/-- The address checks of one access of an element: alignment, then R79; an indexed form outside every scratchpad window is out
of bounds (R121). `fld` and `fst` check every active element so, and with VRI above 0 an unaligned xb + off is reported at element
VRI with that element's address, since R161's element 0 is then not active: DESIGN CHOICE, log entry 87. -/
def State.addrCheck (s : State) (indexed : Bool) (va n : Nat) (write : Bool) : Option (Nat × Word64) :=
  if va % n ≠ 0 then some (3, BitVec.ofNat 64 va)
  else if indexed && !inSpadWindow va then some (6, BitVec.ofNat 64 va)
  else
    match s.resolveAll va n (if write then .store else .load) with
    | .error f => some (f.cause, failEval f va)
    | .ok _ => none

/-- The accesses of an element's fields at successive addresses, their checks passed: the keys, or the first fault. -/
def State.fieldsDone (s : State) (n : Nat) (write : Bool) :
    List Word64 → Except (State × Nat × Word64) (State × List Nat)
  | [] => .ok (s, [])
  | va :: t =>
    match s.accessIn va.toNat n n (if write then .store else .load) (!write) write true with
    | .bad s1 c ev => .error (s1, c, ev)
    | .ok s1 key =>
      match s1.fieldsDone n write t with
      | .error x => .error x
      | .ok (s2, keys) => .ok (s2, key :: keys)

/-- The walks for an element's addresses. -/
def State.meetWalks (s : State) (addrs : List Word64) : State :=
  if s.flaws = [] then s else addrs.foldl (fun t va => t.meetWalk t.myCtxId va.toNat) s

/-- The accesses of one element: the checks of every address come before watchpoints and before the poison its data holds
(R161, R165), which is where `stop` is reported too: a mismatch of the element's two copies (R128), or poison in the rows it
stores. That an address's failure comes before a mismatch of the same element is DEDUCED, log entry 47. -/
def State.fieldAccess (s : State) (indexed : Bool) (n : Nat) (write : Bool) (stop : Option (Nat × Word64)) (addrs : List Word64) :
    Except (State × Nat × Word64) (State × List Nat) :=
  let t := s.meetWalks addrs
  match addrs.findSome? fun va => t.addrCheck indexed va.toNat n write with
  | some (c, ev) => .error (t, c, ev)
  | none =>
    match stop with
    | some (c, ev) => .error (t, c, ev)
    | none => t.fieldsDone n write addrs

/-- What an element reports once its addresses have passed: the mismatch at it, else poison in what it stores. -/
def elemStop (mis : Option Nat) (e : Nat) (bad : Bool) : Option (Nat × Word64) :=
  if mis = some e then some (11, BitVec.ofNat 64 e) else if bad then some (10, 0) else none

/-- How a memory access form is addressed: bytes, fields per element, address of an element's field, whether it is
indexed, and whether the index of an element is poisoned. -/
structure MemForm where
  size : Nat
  fields : Nat
  addr : Nat → Nat → Word64
  indexed : Bool
  badIndex : Nat → Bool

def MemForm.addrs (m : MemForm) (e : Nat) : List Word64 := (List.range m.fields).map (m.addr e)

/-- What one element stores: its fields' keys and bytes. -/
def storePieces (n : Nat) (l : List (Nat × Nat)) : List (Nat × List Byte) := l.map fun e => (e.1, leBytes n e.2)

/-- ETYPE of a loaded register (R120). -/
def loadEtype (size : Nat) (old : BitVec 2) : BitVec 2 := if size = 8 then 1 else if old = 2 then 2 else 0

/-- Registers vd to vd + n − 1. -/
def regsFrom (vd : VReg) (n : Nat) : List VReg := (List.range n).map fun i => vd + BitVec.ofNat 5 i

/-- Write the registers of a list. -/
def Hart.setVs (h : Hart) : List (VReg × VRegister) → Hart
  | [] => h
  | (r, v) :: t => (h.setV r v).setVs t

/-- A vector load (R120, R121, R125, R129). An element with a mismatch and a poisoned index or a failing address reports the latter:
DEDUCED, log entry 47. -/
def State.vload (s : State) (vd : VReg) (p : PReg) (m : MemForm) : Host.Outcome State Fault Refusal :=
  let h := s.me
  if h.csr.vl = 0 then .next s.retire
  else
    let regs := regsFrom vd m.fields
    match s.rowCheck regs (if m.size = 8 then 2 else 1) with
    | some (c, ev) => .next (s.trapV c ev 0)
    | none =>
      let acts := h.actives (h.getP p)
      let mis := h.mismatchAt acts
      let step : MemStep (List VRegister) := fun e t vs =>
        if m.badIndex e then .error (t, 10, 0)
        else
          match t.fieldAccess m.indexed m.size false (elemStop mis e false) (m.addrs e) with
          | .error x => .error x
          | .ok (t1, keys) =>
            .ok (t1, (vs.zip keys).map fun vk => vk.1.setElem e (t1.readLe vk.2 m.size))
      let olds := regs.map h.getV
      match memLoop step acts s (olds.map fun v => v.vecDest h (loadEtype m.size v.desc.etype)) with
      | (s1, vs, .done) =>
        let h1 := s1.me.setVs (regs.zip ((vs.zip olds).map fun vo => (vo.1.wrote (h.wroteAll acts)).settle h vo.2.held))
        .next ((s1.setMe h1).vecRetire flNone)
      | (s1, vs, .stop k c ev) =>
        if acts.any fun e => decide (e < k) then .next ((s1.setMe (s1.me.setVs (regs.zip (vs.map fun v => v.wrote (wroteBelow acts k))))).vecTrap c ev k)
        else .next (s1.vecTrap c ev k)

/-- A vector store (R120, R121, R123, R125): where active elements overlap, the higher one's bytes remain; the bytes of all the
elements that commit are one write, and every address is translated in the state before it (R304). An element with a mismatch and a
poisoned index or a failing address reports the latter: DEDUCED, log entry 47. -/
def State.vstore (s : State) (vs : VReg) (p : PReg) (m : MemForm) : Host.Outcome State Fault Refusal :=
  let h := s.me
  if h.csr.vl = 0 then .next s.retire
  else
    let regs := (regsFrom vs m.fields).map h.getV
    let acts := h.actives (h.getP p)
    let mis := h.mismatchAt acts
    let step : MemStep (List (Nat × List Byte)) := fun e t l =>
      if m.badIndex e then .error (t, 10, 0)
      else
        match t.fieldAccess m.indexed m.size true (elemStop mis e (regs.any fun v => v.badElem e)) (m.addrs e) with
        | .error x => .error x
        | .ok (t1, keys) => .ok (t1, l ++ storePieces m.size (keys.zip (regs.map fun v => v.elem e)))
    match memLoop step acts s [] with
    | (s1, l, .done) => .next ((s1.storeMany l).vecRetire flNone)
    | (s1, l, .stop k c ev) => .next ((s1.storeMany l).vecTrap c ev k)

/-- Unit stride: xb + off + e × size. -/
def unitForm (base : Word64) (z : BitVec 2) : MemForm :=
  let n := sizeOfLog z.toNat
  { size := n, fields := 1, addr := fun e _ => base + BitVec.ofNat 64 (e * n), indexed := false, badIndex := fun _ => false }

/-- Strided: xb + off + e × S(xc). -/
def strideForm (base stride : Word64) (z : BitVec 2) : MemForm :=
  { size := sizeOfLog z.toNat, fields := 1, addr := fun e _ => base + BitVec.ofNat 64 e * stride, indexed := false,
    badIndex := fun _ => false }

/-- Segments: field f of element e at xb + (e × n + f) × size. -/
def segForm (base : Word64) (z : BitVec 2) (n : Nat) : MemForm :=
  let size := sizeOfLog z.toNat
  { size := size, fields := n, addr := fun e f => base + BitVec.ofNat 64 ((e * n + f) * size), indexed := false,
    badIndex := fun _ => false }

/-- Indexed: xb + Z32(vi[e]) × size. -/
def indexForm (base : Word64) (vi : VRegister) (z : BitVec 2) : MemForm :=
  let size := sizeOfLog z.toNat
  { size := size, fields := 1, addr := fun e _ => base + BitVec.ofNat 64 (vi.elem e % 2 ^ 32 * size), indexed := true,
    badIndex := fun e => vi.badElem e }

/-- `vld` (R119). -/
def execVld (a : VReg) (b : XReg) (p : PReg) (z : BitVec 2) (s : State) : Host.Outcome State Fault Refusal :=
  s.vload a p (unitForm (s.x b) z)

/-- `vlds` (R119). -/
def execVlds (a : VReg) (b c : XReg) (p : PReg) (z : BitVec 2) (s : State) : Host.Outcome State Fault Refusal :=
  s.vload a p (strideForm (s.x b) (s.x c) z)

/-- `vst` (R119). -/
def execVst (a : VReg) (b : XReg) (p : PReg) (z : BitVec 2) (s : State) : Host.Outcome State Fault Refusal :=
  s.vstore a p (unitForm (s.x b) z)

/-- `vsts` (R119). -/
def execVsts (a : VReg) (b c : XReg) (p : PReg) (z : BitVec 2) (s : State) : Host.Outcome State Fault Refusal :=
  s.vstore a p (strideForm (s.x b) (s.x c) z)

/-- `vld` with an offset (R119). -/
def execVldOff (a : VReg) (b : XReg) (z : BitVec 2) (off : BitVec 30) (p : PReg) (s : State) :
    Host.Outcome State Fault Refusal :=
  s.vload a p (unitForm (s.x b + sext off) z)

/-- `vlds` with an offset (R119). -/
def execVldsOff (a : VReg) (b c : XReg) (z : BitVec 2) (off : BitVec 30) (p : PReg) (s : State) :
    Host.Outcome State Fault Refusal :=
  s.vload a p (strideForm (s.x b + sext off) (s.x c) z)

/-- `vst` with an offset (R119). -/
def execVstOff (a : VReg) (b : XReg) (z : BitVec 2) (off : BitVec 30) (p : PReg) (s : State) :
    Host.Outcome State Fault Refusal :=
  s.vstore a p (unitForm (s.x b + sext off) z)

/-- `vsts` with an offset (R119). -/
def execVstsOff (a : VReg) (b c : XReg) (z : BitVec 2) (off : BitVec 30) (p : PReg) (s : State) :
    Host.Outcome State Fault Refusal :=
  s.vstore a p (strideForm (s.x b + sext off) (s.x c) z)

/-- `vldg` (R119, R120): n − 1 in F[4:2]. -/
def execVldg (a : VReg) (b : XReg) (p : PReg) (z : BitVec 2) (n : BitVec 3) (s : State) :
    Host.Outcome State Fault Refusal :=
  s.vload a p (segForm (s.x b) z (n.toNat + 1))

/-- `vstg` (R119, R120). -/
def execVstg (a : VReg) (b : XReg) (p : PReg) (z : BitVec 2) (n : BitVec 3) (s : State) :
    Host.Outcome State Fault Refusal :=
  s.vstore a p (segForm (s.x b) z (n.toNat + 1))

/-- `vldx` (R119, R121). -/
def execVldx (a : VReg) (b : XReg) (c : VReg) (p : PReg) (z : BitVec 2) (s : State) :
    Host.Outcome State Fault Refusal :=
  s.vload a p (indexForm (s.x b) (s.me.getV c) z)

/-- `vstx` (R119, R121). -/
def execVstx (a : VReg) (b : XReg) (c : VReg) (p : PReg) (z : BitVec 2) (s : State) :
    Host.Outcome State Fault Refusal :=
  s.vstore a p (indexForm (s.x b) (s.me.getV c) z)

end Sys2Proof.Machine
end

