-- ==== Sys2Proof/Machine/Func.lean ====
section
/-!
DEFINITION. Function registers (R131 to R133, R139 to R144) and the instructions of majors 0x20 to 0x23 (R145 to R166, R408):
every coefficient sum is a chain of fused multiply-adds in increasing index order (R49, R135).
-/
namespace Sys2Proof.Machine

/-! Registers as functions. -/

/-- Dimension of a shape (R131). -/
def Desc.dim (d : Desc) : Nat := d.shape.toNat

/-- Coefficients per element: (DEG + 1)^d (R131). -/
def Desc.count (d : Desc) : Nat := (d.deg.toNat + 1) ^ d.dim

/-- Type of the coefficients (R14). -/
def coefType (et : BitVec 2) : ElemTy := if et = 1 then .f64 else if et = 2 then .s32 else .f32

/-- ETYPE of a working type (R139). -/
def workEtype (t : ElemTy) : BitVec 2 := if t = .f64 then 1 else 0

/-- DMAX (R132). -/
def dMax (shape : Nat) (et : BitVec 2) : Nat :=
  if et = 2 then 0
  else
    match shape with
    | 0 => 0
    | 1 => 15
    | 2 => if et = 1 then 10 else 15
    | _ => if et = 1 then 4 else 5

/-- Coefficient `k` of element `e` (R131). -/
def VRegister.coef (v : VRegister) (e k : Nat) : Nat :=
  if v.desc.etype = 1 then (v.row e (2 * k)).toNat + (v.row e (2 * k + 1)).toNat * 2 ^ 32 else (v.row e k).toNat

/-- Write coefficient `k` of element `e`. -/
def VRegister.setCoef (v : VRegister) (e k bits : Nat) : VRegister :=
  if v.desc.etype = 1 then
    (v.setRow e (2 * k) (BitVec.ofNat 32 bits)).setRow e (2 * k + 1) (BitVec.ofNat 32 (bits / 2 ^ 32))
  else v.setRow e k (BitVec.ofNat 32 bits)

/-- Write the first coefficients of an element. -/
def VRegister.setCoefs (v : VRegister) (e : Nat) : Nat → List Nat → VRegister
  | _, [] => v
  | k, b :: t => (v.setCoef e k b).setCoefs e (k + 1) t

/-- Whether a row of coefficient `k` of element `e` is poisoned. -/
def VRegister.badCoef (v : VRegister) (e k : Nat) : Bool :=
  if v.desc.etype = 1 then v.badRow e (2 * k) || v.badRow e (2 * k + 1) else v.badRow e k

/-- Whether an element meets poison in the coefficients `used` names: those that enter its result (R328). -/
def VRegister.badIn (v : VRegister) (used : Nat → Bool) (e : Nat) : Bool :=
  if v.bad = [] then false else (List.range v.desc.count).any fun k => used k && v.badCoef e k

/-- Whether any coefficient of element `e` is poisoned. -/
def VRegister.badAny (v : VRegister) (e : Nat) : Bool := v.badIn (fun _ => true) e

/-- Row `r` of an element in a register whose containers change width (R101, R144): narrowing keeps bits [31:0]. -/
def rowMove (old new : Nat) (k : Nat) : Option Nat :=
  if old = new then some k
  else if new = 1 then if k % 2 = 0 then some (k / 256 * 256 + k % 256 / 2) else none
  else if k % 256 < 128 then some (k / 256 * 256 + k % 256 * 2) else none

/-- The rows of a register moved to another container width. -/
def VRegister.relayout (v : VRegister) (new : Nat) : VRegister :=
  let mv := rowMove (wideRows v.desc.etype) new
  { v with data := v.data.filterMap fun e => (mv e.1).map fun k => (k, e.2),
           bad := v.bad.filterMap fun e => (mv e.1).map fun k => (k, e.2) }

/-- The destination of a function instruction while it runs (R144): new layout, kept coefficients by index. -/
def VRegister.fnDest (v : VRegister) (h : Hart) (deg : Nat) (shape basis et : BitVec 2) (rows : Nat) : VRegister :=
  let mask := v.held ||| heldAfter h v.held
  let v1 := (v.relayout (wideRows et)).restrict rows mask
  { v1 with
    desc := { v.desc with deg := BitVec.ofNat 4 deg, shape := shape, basis := basis, etype := et },
    rows := rows, held := mask, surplus := v.surplusDuring rows (heldAfter h v.held) }

/-! Arithmetic in the working type. -/

/-- Rounding mode, FTZ and working type of an instruction (R135, R139). -/
structure FnCtx where
  mode : Rm
  ftz : Bool
  t : ElemTy

/-- Coefficients in the working type, with the flags of what made them. -/
abbrev Coefs := Array Nat × FpFlags

def FnCtx.fma (c : FnCtx) (a b acc : Nat) : FpRes :=
  fpFma c.mode c.ftz c.t (numIn c.ftz c.t a) (numIn c.ftz c.t b) (numIn c.ftz c.t acc)

def FnCtx.mul (c : FnCtx) (a b : Nat) : FpRes := fpMul c.mode c.ftz c.t (numIn c.ftz c.t a) (numIn c.ftz c.t b)

def FnCtx.addSub (c : FnCtx) (minus : Bool) (a b : Nat) : FpRes :=
  if minus then fpSub c.mode c.ftz c.t (numIn c.ftz c.t a) (numIn c.ftz c.t b)
  else fpAdd c.mode c.ftz c.t (numIn c.ftz c.t a) (numIn c.ftz c.t b)

/-- A chain of fused multiply-adds over (constant, value) pairs from a first addend (R49, R135). -/
def FnCtx.chain (c : FnCtx) : List (Nat × Nat) → FpRes → FpRes
  | [], acc => acc
  | (k, x) :: t, acc =>
    let r := c.fma k x acc.1
    c.chain t (r.1, acc.2 ||| r.2)

/-- Results of a list with their flags together. -/
def gather (l : List FpRes) : Coefs := ((l.map Prod.fst).toArray, l.foldl (fun f r => f ||| r.2) flNone)

/-- Add earlier flags. -/
def Coefs.with (u : Coefs) (f : FpFlags) : Coefs := (u.1, u.2 ||| f)

/-- The first `n` coefficients of element `e` read in the working type (R139). -/
def FnCtx.read (c : FnCtx) (v : VRegister) (e n : Nat) : Coefs :=
  let ty := coefType v.desc.etype
  gather ((List.range n).map fun k =>
    let b := v.coef e k
    if ty = c.t then (b, flNone) else convert c.mode c.ftz c.t ty b)

/-- Transform along one axis (R135): `inner` and `outer` count the tuples of the axes before and after it, `n` the values
along it. A structural zero performs no arithmetic. -/
def FnCtx.transform (c : FnCtx) (m : Consts) (u : Array Nat) (inner n outer : Nat) : Coefs :=
  let rows := m.toArray
  let g := rows.size
  gather ((List.range (outer * g * inner)).map fun k =>
    let pairs := ((rows.getD (k / inner % g) []).zipIdx).filterMap fun e =>
      e.1.map fun t => (t, u.getD ((k / (inner * g) * n + e.2) * inner + k % inner) 0)
    c.chain pairs (0, flNone))

/-- The same matrix, `n` columns, along every axis of `d` in the order x, y, z. -/
def FnCtx.transformAll (c : FnCtx) (m : Consts) (n d : Nat) (u : Array Nat) : Coefs :=
  (List.range d).foldl (fun acc a =>
    (c.transform m acc.1 (m.length ^ a) n (n ^ (d - 1 - a))).with acc.2) (u, flNone)

/-- Whether a column of a matrix has an entry that is not a structural zero (R135). -/
def usesCol (m : Consts) (i : Nat) : Bool := m.any fun row => (row.getD i none).isSome

/-- The index tuple of coefficient `k` with `n` per axis (R131). -/
def digits (n d k : Nat) : List Nat := (List.range d).map fun a => k / n ^ a % n

/-- The coefficient of an index tuple. -/
def undigits (n : Nat) (idx : List Nat) : Nat := (idx.zipIdx.map fun e => e.1 * n ^ e.2).sum

/-- Copies into a modal layout of `m` per axis from one of `n`: truncation or zero-padding (R141, R156). -/
def remap (u : Array Nat) (d n m : Nat) : Array Nat :=
  ((List.range (m ^ d)).map fun k =>
    let idx := digits m d k
    if idx.all fun i => decide (i < n) then u.getD (undigits n idx) 0 else 0).toArray

/-- Zero modes added along the axes other than `axis` of an array that holds `m` values along `axis` and `n` along the others,
to `m` along each (R155). -/
def padAxes (u : Array Nat) (d n m axis : Nat) : Array Nat :=
  ((List.range (m ^ d)).map fun k =>
    let idx := digits m d k
    let weight := fun a => (List.range a).foldl (fun w b => w * (if b = axis then m else n)) 1
    if idx.zipIdx.all fun e => e.2 == axis || decide (e.1 < n) then
      u.getD (idx.zipIdx.map fun e => e.1 * weight e.2).sum 0
    else 0).toArray

/-- Conversion between bases at degree p (R157): at degree 0 and for a point a copy. -/
def FnCtx.toBasis (c : FnCtx) (u : Array Nat) (d p : Nat) (old new : BitVec 2) : Coefs :=
  if old = new ∨ p = 0 ∨ d = 0 then (u, flNone)
  else if new = 1 then c.transformAll (fxConsts c.t (matE p p)) (p + 1) d u
  else c.transformAll (fxConsts c.t (matA p p)) (p + 1) d u

/-- An exact raise or an L² projection to degree `k` (R148, R156). -/
def FnCtx.toDegree (c : FnCtx) (u : Array Nat) (d p k : Nat) (basis : BitVec 2) : Coefs :=
  if k = p then (u, flNone)
  else if basis = 0 then (remap u d (p + 1) (k + 1), flNone)
  else c.transformAll (fxConsts c.t (if p < k then matI p k else matPj p k)) (p + 1) d u

/-- A natural result of degree `n` brought under the cap (R141). -/
def FnCtx.cap (c : FnCtx) (u : Coefs) (d n cap : Nat) (basis policy : BitVec 2) : Coefs :=
  if n ≤ cap then u
  else
    (if policy = 1 then c.toDegree u.1 d n cap basis
     else c.transformAll (fxConsts c.t (if basis = 0 then matMc n cap else matI n cap)) (n + 1) d u.1).with u.2

/-- An operand raised to degree `k` on a shape of dimension `d`; a point is the constant function (R133, R148). -/
def FnCtx.lift (c : FnCtx) (u : Array Nat) (dim p k d : Nat) (basis : BitVec 2) : Coefs :=
  if dim = 0 ∧ d ≠ 0 then
    let v := u.getD 0 0
    ((if basis = 0 then v :: List.replicate ((k + 1) ^ d - 1) 0 else List.replicate ((k + 1) ^ d) v).toArray, flNone)
  else c.toDegree u d p k basis

/-- An operand at the GLL(g) nodes (R142). -/
def FnCtx.grid (c : FnCtx) (u : Array Nat) (dim p g d : Nat) (basis : BitVec 2) : Coefs :=
  if dim = 0 then ((List.replicate ((g + 1) ^ d) (u.getD 0 0)).toArray, flNone)
  else if basis = 1 ∧ p = g then (u, flNone)
  else c.transformAll (fxConsts c.t (if basis = 1 then matI p g else matE p g)) (p + 1) d u

/-- Pointwise results of two arrays (R135). -/
def pointwise (f : Nat → Nat → FpRes) (a b : Coefs) : Coefs :=
  (gather ((a.1.toList.zip b.1.toList).map fun e => f e.1 e.2)).with (a.2 ||| b.2)

/-! The common frame of an instruction that writes vd. -/

/-- Descriptor fault (R164): class 1 and a reason, VRI 0. -/
def State.descFault (s : State) (reason : Nat) : State := s.trapV 1 (illegalEval s.me.ir 1 reason) 0

/-- What an instruction has settled before it computes: natural degree, shape, basis, working context, whether what an
element reads is poisoned for a cap and a policy, and an element's result for these and the written degree. -/
structure FnPlan where
  nat : Nat
  shape : BitVec 2
  basis : BitVec 2
  ctx : FnCtx
  bad : Nat → BitVec 2 → Nat → Bool
  value : Nat → BitVec 2 → Nat → Nat → Coefs

/-- Elements in increasing order until the one that mismatches. -/
def fnFold (value : Nat → Coefs) (stop : Option Nat) : List Nat → VRegister → FpFlags → VRegister × FpFlags × Option Nat
  | [], v, fl => (v, fl, none)
  | e :: t, v, fl =>
    if stop = some e then (v, fl, some e)
    else
      let r := value e
      fnFold value stop t (v.setCoefs e 0 r.1.toList) (fl ||| r.2)

/-- Orders 2 to 8 of R165 for an instruction whose own descriptor checks have passed, and its writes (R141, R144, R162,
R163, R128, R328). The descriptor checks of an instruction's own, reasons 1 to 4 and 6, come before reason 5: DESIGN CHOICE, log
entry 60. With a mismatch at an element, poison that the elements below it read is consumed poison and nothing commits, while poison
from that element on is not read: DEDUCED, log entry 88. -/
def State.fnExec (s : State) (vd : VReg) (p : PReg) (f : FnPlan) : State :=
  let h := s.me
  let v := h.getV vd
  let et := workEtype f.ctx.t
  let cap := min v.desc.cap.toNat (dMax f.shape.toNat et)
  if v.desc.policy = 3 then s.descFault 5
  else if cap < f.nat ∧ v.desc.policy = 0 then s.trapV 8 (BitVec.ofNat 64 f.nat) 0
  else
    let r := min f.nat cap
    let rows := (r + 1) ^ f.shape.toNat * wideRows et
    match s.rowCheck [vd] rows with
    | some (c, ev) => s.trapV c ev 0
    | none =>
      let acts := h.actives (h.getP p)
      let mis := h.mismatchAt acts
      let reads := match mis with
        | some m => acts.filter fun e => decide (e < m)
        | none => acts
      if reads.any (f.bad cap v.desc.policy) then s.trapV 10 0 0
      else
        match fnFold (f.value cap v.desc.policy r) mis acts (v.fnDest h r f.shape f.basis et rows) flNone with
        | (v1, fl, none) => (s.setMe (h.setV vd ((v1.wrote (h.wroteAll acts)).settle h v.held))).vecRetire fl
        | (v1, fl, some m) =>
          if acts.any fun e => decide (e < m) then (s.setMe ((h.setV vd (v1.wrote (wroteBelow acts m))).addFlags fl)).mismatch m m
          else s.mismatch m m

/-- Working context of major 0x20 (R139): f64 if any source has ETYPE 1, dynamic rounding. -/
def Hart.fnCtx20 (h : Hart) (srcs : List VRegister) : FnCtx :=
  { mode := modeOf .dyn h.csr.rm, ftz := h.csr.ftz,
    t := if srcs.any fun v => v.desc.etype == 1 then .f64 else .f32 }

/-- Working context of major 0x21. -/
def Hart.fnCtx21 (h : Hart) (t : ElemTy) (rm : Rm) : FnCtx := { mode := modeOf rm h.csr.rm, ftz := h.csr.ftz, t := t }

/-- Two non-point sources of unlike shape (R164, reason 1). -/
def shapesDiffer (a b : Desc) : Bool := a.shape != 0 && b.shape != 0 && a.shape != b.shape

/-! Major 0x20. -/

/-- ROWS of a register (R14): the rows a cluster has allocated for it; after a part-way fault, which leaves clusters with unlike
counts until the instruction completes (R101), the highest count (log entry 76). -/
def VRegister.rowsShown (v : VRegister) : Nat :=
  if v.surplus = [] then v.rows else (List.range 16).foldl (fun m c => max m (v.rowsAt c)) v.rows

/-- The descriptor as `fget` shows it and `fset` takes it (R14). -/
def VRegister.descBits (v : VRegister) : Word64 :=
  let d := v.desc
  (BitVec.ofNat 9 v.rowsShown ++ BitVec.ofBool d.keep ++ d.cap ++ d.policy ++ d.etype ++ d.basis ++ d.shape ++ d.deg).setWidth 64

/-- The descriptor named by a register value. -/
def descOf (x : Word64) : Desc :=
  { keep := x.getLsbD 16, cap := x.extractLsb 15 12, policy := x.extractLsb 11 10, etype := x.extractLsb 9 8,
    basis := x.extractLsb 7 6, shape := x.extractLsb 5 4, deg := x.extractLsb 3 0 }

/-- Elements below `k` written +0. -/
def VRegister.zeroBelow (v : VRegister) (k : Nat) : VRegister :=
  { v with data := ffilter (fun i => decide (k ≤ i / 256)) v.data }

/-- `fset` (R146): a value it does not take before a destination that holds POLICY 3 (R164; log entry 60). A change of the layout
writes elements and runs twice in protected mode: a mismatch commits those below it (R128, R165; log entry 77). With VL = 0 the rows
of the new layout are held to `.rows` all the same: DESIGN CHOICE, log entry 78. -/
def execFset (a : VReg) (b : XReg) (s : State) : Host.Outcome State Fault Refusal :=
  let d := descOf (s.x b)
  let h := s.me
  let v := h.getV a
  if 2 ≤ d.basis.toNat ∨ d.etype = 3 ∨ d.policy = 3 ∨ (d.deg ≠ 0 ∧ d.shape = 0) ∨ (d.etype = 2 ∧ d.deg ≠ 0) then
    .next (s.descFault 7)
  else if v.desc.policy = 3 then .next (s.descFault 5)
  else if dMax d.dim d.etype < d.deg.toNat then .next (s.trapV 8 (BitVec.ofNat 64 d.deg.toNat) 0)
  else if d.deg = v.desc.deg ∧ d.shape = v.desc.shape ∧ d.basis = v.desc.basis ∧ d.etype = v.desc.etype then
    .next (s.setMe (h.setV a { v with desc := d })).retire
  else if d.deg = 0 ∧ d.shape = 0 ∧ d.basis = 0 ∧ d.etype = 0 then
    .next (s.setMe (h.setV a { v with desc := d, rows := 0, held := 0, surplus := [], data := [], bad := [] })).retire
  else
    let rows := d.count * wideRows d.etype
    match s.rowCheck [a] rows with
    | some (c, ev) => .next (s.trapV c ev 0)
    | none =>
      let acts := List.range h.csr.vl.toNat
      let v1 := { v.fnDest h d.deg.toNat d.shape d.basis d.etype rows with desc := d }
      match h.mismatchAt acts with
      | some m =>
        .next ((if m = 0 then s else s.setMe (h.setV a ((v1.zeroBelow m).wrote (wroteBelow acts m)))).mismatch m m)
      | none =>
        let v2 := ((v1.zeroBelow h.csr.vl.toNat).wrote (h.wroteAll acts)).settle h v.held
        .next (s.setMe { h.setV a { v2 with rows := if v2.held = 0 then 0 else rows } with laneFault := none }).retire

/-- `fget` (R147). -/
def execFget (a : XReg) (b : VReg) (s : State) : Host.Outcome State Fault Refusal :=
  .next (s.retireX a (s.me.getV b).descBits)

/-- Shape, basis and dimension of a two-operand result (R140): the non-point operand's. -/
def pairShape (a b : Desc) : BitVec 2 × BitVec 2 := if a.shape = 0 then (b.shape, b.basis) else (a.shape, a.basis)

/-- The second operand in the basis of the first (R139). -/
def FnCtx.second (c : FnCtx) (a b : VRegister) (e : Nat) : Coefs :=
  let u := c.read b e b.desc.count
  if a.desc.shape ≠ 0 ∧ b.desc.shape ≠ 0 then
    (c.toBasis u.1 b.desc.dim b.desc.deg.toNat b.desc.basis a.desc.basis).with u.2
  else u

/-- `fadd` and `fsub` (R148). -/
def State.fnAdd (s : State) (vd va vb : VReg) (p : PReg) (minus : Bool) : Host.Outcome State Fault Refusal :=
  let h := s.me
  let a := h.getV va
  let b := h.getV vb
  let c := h.fnCtx20 [a, b]
  let sb := pairShape a.desc b.desc
  let d := sb.1.toNat
  let n := max a.desc.deg.toNat b.desc.deg.toNat
  let old := h.getV vd
  let top := min old.desc.cap.toNat (dMax d (workEtype c.t))
  let keeps := fun (v : VRegister) (k : Nat) =>
    !(sb.2 == 0 && old.desc.policy == 1 && v.desc.basis == 0) ||
      (digits (v.desc.deg.toNat + 1) v.desc.dim k).all fun i => decide (i ≤ top)
  if h.csr.vl = 0 then .next s.retire
  else if shapesDiffer a.desc b.desc then .next (s.descFault 1)
  else .next (s.fnExec vd p
    { nat := n, shape := sb.1, basis := sb.2, ctx := c, bad := fun _ _ e => a.badIn (keeps a) e || b.badIn (keeps b) e,
      value := fun cap policy _ e =>
        let ua := c.read a e a.desc.count
        let ub := c.second a b e
        let crop := sb.2 == 0 && policy == 1 && decide (cap < n)
        let k := if crop then cap else n
        let la := (c.lift ua.1 a.desc.dim a.desc.deg.toNat k d sb.2).with ua.2
        let lb := (c.lift ub.1 b.desc.dim b.desc.deg.toNat k d sb.2).with ub.2
        let z := pointwise (c.addSub minus) la lb
        if crop then z else c.cap z d n cap sb.2 policy })

/-- `fadd` (R148). -/
def execFadd (a b c : VReg) (p : PReg) (s : State) : Host.Outcome State Fault Refusal := s.fnAdd a b c p false

/-- `fsub` (R148). -/
def execFsub (a b c : VReg) (p : PReg) (s : State) : Host.Outcome State Fault Refusal := s.fnAdd a b c p true

/-- `fmul` (R142, R149). -/
def execFmul (vd va vb : VReg) (p : PReg) (s : State) : Host.Outcome State Fault Refusal :=
  let h := s.me
  let a := h.getV va
  let b := h.getV vb
  let c := h.fnCtx20 [a, b]
  let sb := pairShape a.desc b.desc
  let d := sb.1.toNat
  let n := a.desc.deg.toNat + b.desc.deg.toNat
  if h.csr.vl = 0 then .next s.retire
  else if shapesDiffer a.desc b.desc then .next (s.descFault 1)
  else .next (s.fnExec vd p
    { nat := n, shape := sb.1, basis := sb.2, ctx := c, bad := fun _ _ e => a.badAny e || b.badAny e,
      value := fun cap policy r e =>
        let ua := c.read a e a.desc.count
        let ub := c.second a b e
        let g := if policy = 2 ∧ cap < n then cap else n
        let ga := (c.grid ua.1 a.desc.dim a.desc.deg.toNat g d sb.2).with ua.2
        let gb := (c.grid ub.1 b.desc.dim b.desc.deg.toNat g d sb.2).with ub.2
        let z := pointwise c.mul ga gb
        if sb.2 = 0 then (c.transformAll (fxConsts c.t (matA g r)) (g + 1) d z.1).with z.2
        else if r < g then (c.transformAll (fxConsts c.t (matPj g r)) (g + 1) d z.1).with z.2
        else z })

/-- An instruction of one source that has passed its own checks: natural degree, shape, basis, which coefficients enter the
result for a cap and a policy, and an element's natural result from its coefficients, then R141. Every coefficient of the source is
converted to the working type, and the flags of all those conversions are set: DESIGN CHOICE, log entry 75. -/
def State.fnUnaryCap (s : State) (vd va : VReg) (p : PReg) (c : FnCtx) (n : Nat) (shape basis : BitVec 2)
    (used : Nat → BitVec 2 → Nat → Bool) (f : Array Nat → Nat → Coefs) : Host.Outcome State Fault Refusal :=
  let a := s.me.getV va
  .next (s.fnExec vd p
    { nat := n, shape := shape, basis := basis, ctx := c, bad := fun cap policy => a.badIn (used cap policy),
      value := fun cap policy _ e =>
        let u := c.read a e a.desc.count
        c.cap ((f u.1 e).with u.2) shape.toNat n cap basis policy })

/-- The same where the coefficients that enter the result do not depend on the cap. -/
def State.fnUnary (s : State) (vd va : VReg) (p : PReg) (c : FnCtx) (n : Nat) (shape basis : BitVec 2) (used : Nat → Bool)
    (f : Array Nat → Nat → Coefs) : Host.Outcome State Fault Refusal :=
  s.fnUnaryCap vd va p c n shape basis (fun _ _ => used) f

/-- `fscale` (R150). -/
def execFscale (a b : VReg) (c : XReg) (p : PReg) (s : State) : Host.Outcome State Fault Refusal :=
  let h := s.me
  let v := h.getV b
  let k := h.fnCtx20 [v]
  let x := lowBits k.t (s.x c)
  if h.csr.vl = 0 then .next s.retire
  else s.fnUnary a b p k v.desc.deg.toNat v.desc.shape v.desc.basis (fun _ => true) fun u _ =>
    gather (u.toList.map fun ck => k.mul ck x)

/-- A source of an inner product in modal form at its own degree (R151). -/
def FnCtx.modal (c : FnCtx) (v : VRegister) (e : Nat) : Coefs :=
  let u := c.read v e v.desc.count
  if v.desc.shape = 0 then u else (c.toBasis u.1 v.desc.dim v.desc.deg.toNat v.desc.basis 0).with u.2

/-- Whether a coefficient of a source enters an inner product over the modes up to `m`: all of a nodal source, which is converted
whole. -/
def dotUses (v : VRegister) (m k : Nat) : Bool :=
  v.desc.basis != 0 || (digits (v.desc.deg.toNat + 1) v.desc.dim k).all fun i => decide (i ≤ m)

/-- `fdot` and `fnorm` (R151). -/
def State.fnDot (s : State) (vd va vb : VReg) (p : PReg) (self : Bool) : Host.Outcome State Fault Refusal :=
  let h := s.me
  let a := h.getV va
  let b := h.getV vb
  let c := h.fnCtx20 [a, b]
  let d := (pairShape a.desc b.desc).1.toNat
  let m := min a.desc.deg.toNat b.desc.deg.toNat
  if h.csr.vl = 0 then .next s.retire
  else if shapesDiffer a.desc b.desc then .next (s.descFault 1)
  else .next (s.fnExec vd p
    { nat := 0, shape := 0, basis := 0, ctx := c,
      bad := fun _ _ e => a.badIn (dotUses a m) e || b.badIn (dotUses b m) e,
      value := fun _ _ _ e =>
        let ua := c.modal a e
        let ub := if self then ua else c.modal b e
        let ix := fun (v : VRegister) (idx : List Nat) =>
          if v.desc.shape = 0 then 0 else undigits (v.desc.deg.toNat + 1) idx
        let r := (List.range ((m + 1) ^ d)).foldl (fun (acc : FpRes) k =>
          let idx := digits (m + 1) d k
          let t := c.mul (ua.1.getD (ix a idx) 0) (ub.1.getD (ix b idx) 0)
          let q := c.fma t.1 (massConst c.t idx) acc.1
          (q.1, acc.2 ||| t.2 ||| q.2)) (0, flNone)
        (#[r.1], ua.2 ||| ub.2 ||| r.2) })

/-- `fdot` (R151). -/
def execFdot (a b c : VReg) (p : PReg) (s : State) : Host.Outcome State Fault Refusal := s.fnDot a b c p false

/-- `fnorm` (R151). -/
def execFnorm (a b : VReg) (p : PReg) (s : State) : Host.Outcome State Fault Refusal := s.fnDot a b b p true

/-! Major 0x21. -/

/-- `fdiff` (R153). -/
def execFdiff (a b : VReg) (axis : BitVec 2) (t : ElemTy) (rm : Rm) (p : PReg) (s : State) :
    Host.Outcome State Fault Refusal :=
  let h := s.me
  let v := h.getV b
  let c := h.fnCtx21 t rm
  let d := v.desc.dim
  let q := v.desc.deg.toNat
  let line := v.desc.basis == 0 && d == 1
  let n := if line then q - 1 else q
  if h.csr.vl = 0 then .next s.retire
  else if d ≤ axis.toNat then .next (s.descFault 2)
  else
    let m := fxConsts t (if v.desc.basis = 1 then matDn q else matDm q (n + 1))
    s.fnUnary a b p c n v.desc.shape v.desc.basis (fun k => usesCol m (k / (q + 1) ^ axis.toNat % (q + 1))) fun u _ =>
      c.transform m u ((q + 1) ^ axis.toNat) (q + 1) ((q + 1) ^ (d - 1 - axis.toNat))

/-- `fint` (R154). -/
def execFint (a b : VReg) (t : ElemTy) (rm : Rm) (p : PReg) (s : State) : Host.Outcome State Fault Refusal :=
  let h := s.me
  let v := h.getV b
  let c := h.fnCtx21 t rm
  let d := v.desc.dim
  let q := v.desc.deg.toNat
  if h.csr.vl = 0 then .next s.retire
  else .next (s.fnExec a p
    { nat := 0, shape := 0, basis := 0, ctx := c, bad := fun _ _ => v.badIn fun k => v.desc.basis != 0 || k == 0,
      value := fun _ _ _ e =>
        if v.desc.basis = 0 then
          let u := c.read v e 1
          let r := c.mul (ratioConst t false (2 ^ d) 1) (u.1.getD 0 0)
          (#[r.1], u.2 ||| r.2)
        else
          let u := c.read v e v.desc.count
          let r := c.chain ((List.range v.desc.count).map fun k =>
            (weightConst t q (digits (q + 1) d k), u.1.getD k 0)) (0, flNone)
          (#[r.1], u.2 ||| r.2) })

/-- `fanti` (R155): nodal axes in the order x, y, z; modal, the axis itself and then the new modes along the others, +0. -/
def execFanti (a b : VReg) (axis : BitVec 2) (t : ElemTy) (rm : Rm) (p : PReg) (s : State) :
    Host.Outcome State Fault Refusal :=
  let h := s.me
  let v := h.getV b
  let c := h.fnCtx21 t rm
  let d := v.desc.dim
  let q := v.desc.deg.toNat
  if h.csr.vl = 0 then .next s.retire
  else if d ≤ axis.toNat then .next (s.descFault 2)
  else s.fnUnary a b p c (q + 1) v.desc.shape v.desc.basis (fun _ => true) fun u _ =>
    if v.desc.basis = 1 then
      (List.range d).foldl (fun acc k =>
        (c.transform (fxConsts t (if k = axis.toNat then matFn q else matI q (q + 1))) acc.1 ((q + 2) ^ k) (q + 1)
          ((q + 1) ^ (d - 1 - k))).with acc.2) (u, flNone)
    else
      let r := c.transform (fxConsts t (matFm q)) u ((q + 1) ^ axis.toNat) (q + 1) ((q + 1) ^ (d - 1 - axis.toNat))
      (padAxes r.1 d (q + 1) (q + 2) axis.toNat, r.2)

/-- The highest mode along an axis that enters a modal result of degree `k` under a cap: POLICY 1 drops the others (R141). -/
def keptMode (k cap : Nat) (policy : BitVec 2) : Nat := if policy = 1 then min k cap else k

/-- `fproj` and `fraise` (R156): to degree `k`, or a copy. -/
def State.fnDegree (s : State) (vd va : VReg) (k : Nat) (t : ElemTy) (rm : Rm) (p : PReg) :
    Host.Outcome State Fault Refusal :=
  let h := s.me
  let v := h.getV va
  let c := h.fnCtx21 t rm
  if h.csr.vl = 0 then .next s.retire
  else s.fnUnaryCap vd va p c k v.desc.shape v.desc.basis
    (fun cap policy j => v.desc.basis != 0 ||
      (digits (v.desc.deg.toNat + 1) v.desc.dim j).all fun i => decide (i ≤ keptMode k cap policy)) fun u _ =>
    c.toDegree u v.desc.dim v.desc.deg.toNat k v.desc.basis

/-- `fproj` (R156). -/
def execFproj (a b : VReg) (deg : BitVec 4) (t : ElemTy) (rm : Rm) (p : PReg) (s : State) :
    Host.Outcome State Fault Refusal :=
  s.fnDegree a b (min deg.toNat (s.me.getV b).desc.deg.toNat) t rm p

/-- `fraise` (R156). -/
def execFraise (a b : VReg) (deg : BitVec 4) (t : ElemTy) (rm : Rm) (p : PReg) (s : State) :
    Host.Outcome State Fault Refusal :=
  s.fnDegree a b (max deg.toNat (s.me.getV b).desc.deg.toNat) t rm p

/-- `fcvt` (R157). -/
def execFcvt (a b : VReg) (basis : BitVec 1) (t : ElemTy) (rm : Rm) (p : PReg) (s : State) :
    Host.Outcome State Fault Refusal :=
  let h := s.me
  let v := h.getV b
  let c := h.fnCtx21 t rm
  let new : BitVec 2 := basis.setWidth 2
  if h.csr.vl = 0 then .next s.retire
  else s.fnUnary a b p c v.desc.deg.toNat v.desc.shape new (fun _ => true) fun u _ =>
    c.toBasis u v.desc.dim v.desc.deg.toNat v.desc.basis new

/-- The index tuple of a source with normal index `i` on axis `na` and face indices `f` on the other axes. -/
def faceIndex (na i : Nat) (f : List Nat) : List Nat := f.take na ++ i :: f.drop na

/-- One value of a trace (R158): result indices `m`, ORIENT flips and transpose. -/
def FnCtx.traceAt (c : FnCtx) (u : Array Nat) (d q : Nat) (basis : BitVec 2) (face orient : BitVec 3) (m : List Nat) :
    FpRes :=
  let na := face.toNat / 2
  let plus := face.getLsbD 0
  let js := if orient.getLsbD 2 then m.getD 1 0 else m.getD 0 0
  let jt := if orient.getLsbD 2 then m.getD 0 0 else m.getD 1 0
  let val := fun (i js jt : Nat) => u.getD (undigits (q + 1) (faceIndex na i ([js, jt].take (d - 1)))) 0
  if basis = 1 then
    (val (if plus then q else 0) (if orient.getLsbD 0 then q - js else js) (if orient.getLsbD 1 then q - jt else jt),
      flNone)
  else
    let odd := ((if orient.getLsbD 0 then js else 0) + (if orient.getLsbD 1 then jt else 0)) % 2
    c.chain ((List.range (q + 1)).map fun i =>
      let neg := (odd + (if plus then 0 else i)) % 2 == 1
      (ratioConst c.t neg 1 1, val i js jt)) (0, flNone)

/-- `ftrace` (R158). -/
def execFtrace (a b : VReg) (face orient : BitVec 3) (t : ElemTy) (rm : Rm) (p : PReg) (s : State) :
    Host.Outcome State Fault Refusal :=
  let h := s.me
  let v := h.getV b
  let c := h.fnCtx21 t rm
  let d := v.desc.dim
  let q := v.desc.deg.toNat
  if h.csr.vl = 0 then .next s.retire
  else if 2 * d ≤ face.toNat then .next (s.descFault 3)
  else if (d = 2 ∧ 2 ≤ orient.toNat) ∨ (d = 1 ∧ orient ≠ 0) then .next (s.descFault 4)
  else
    let normal := fun (k : Nat) => (digits (q + 1) d k).getD (face.toNat / 2) 0
    s.fnUnary a b p c (if d = 1 then 0 else q) (v.desc.shape - 1) v.desc.basis
      (fun k => v.desc.basis == 0 || normal k == (if face.getLsbD 0 then q else 0)) fun u _ =>
      gather ((List.range ((q + 1) ^ (d - 1))).map fun k =>
        c.traceAt u d q v.desc.basis face orient (digits (q + 1) (d - 1) k))

/-- P_0(ξ) to P_p(ξ), last first, with three roundings per step (R159). -/
def FnCtx.legendre (c : FnCtx) (xi : Nat) : Nat → List Nat × FpFlags
  | 0 => ([ratioConst c.t false 1 1], flNone)
  | 1 => ([xi, ratioConst c.t false 1 1], flNone)
  | i + 2 =>
    let r := c.legendre xi (i + 1)
    let j := i + 1
    match r.1 with
    | p :: q :: t =>
      let x := c.mul (ratioConst c.t false (2 * j + 1) (j + 1)) xi
      let u := c.mul (ratioConst c.t true j (j + 1)) q
      let n := c.fma x.1 p u.1
      (n.1 :: p :: q :: t, r.2 ||| x.2 ||| u.2 ||| n.2)
    | l => (l, r.2)

/-- The sum contracted axis by axis, x first (R159). -/
def FnCtx.contract (c : FnCtx) (q d : Nat) (u : Array Nat) (basis : List (List Nat)) : Coefs :=
  (List.range d).foldl (fun acc a =>
    let ps := basis.getD a []
    let outer := (q + 1) ^ (d - 1 - a)
    (gather ((List.range outer).map fun o =>
      c.chain (ps.zipIdx.map fun e => (e.1, acc.1.getD (o * (q + 1) + e.2) 0)) (0, flNone))).with acc.2) (u, flNone)

/-- `feval` (R159): vy and vz are named by the source's dimension and checked here, after the descriptor faults (R165); of two that
lie beyond `.vregs` vy is reported: DESIGN CHOICE, log entry 61. -/
def execFeval (a b vx vy : VReg) (t : ElemTy) (rm : Rm) (p : PReg) (s : State) : Host.Outcome State Fault Refusal :=
  let h := s.me
  let v := h.getV b
  let c := h.fnCtx21 t rm
  let d := v.desc.dim
  let q := v.desc.deg.toNat
  let y := vy.toNat
  if h.csr.vl = 0 then .next s.retire
  else if d = 3 ∧ y = 31 then .next (s.descFault 6)
  else if (h.getV a).desc.policy = 3 then .next (s.descFault 5)
  else if 2 ≤ d ∧ h.header.vregs ≤ y then .next (s.trapV 2 (overrunEval 2 y) 0)
  else if d = 3 ∧ h.header.vregs ≤ y + 1 then .next (s.trapV 2 (overrunEval 2 (y + 1)) 0)
  else
    let xs := ([h.getV vx, h.getV vy, h.getV (vy + 1)]).take d
    .next (s.fnExec a p
      { nat := 0, shape := 0, basis := 0, ctx := c, bad := fun _ _ e => v.badIn (fun k => decide (d ≠ 0) || k == 0) e || xs.any fun x => x.badElem e,
        value := fun _ _ _ e =>
          if d = 0 then c.read v e 1
          else
            let u0 := c.read v e v.desc.count
            let u := (c.toBasis u0.1 d q v.desc.basis 0).with u0.2
            let pts := xs.map fun x => c.read x e 1
            let ps := pts.map fun x => c.legendre (x.1.getD 0 0) q
            let fl := pts.foldl (fun f x => f ||| x.2) u.2 ||| ps.foldl (fun f x => f ||| x.2) flNone
            (c.contract q d u.1 (ps.map fun x => x.1.reverse)).with fl })

/-! Majors 0x22 and 0x23. -/

/-- Addresses of the `n` coefficients of `sz` bytes of element `e` (R160). -/
def coefAddrs (base : Word64) (n sz e : Nat) : List Word64 :=
  (List.range n).map fun k => base + BitVec.ofNat 64 ((e * n + k) * sz)

/-- `fld` (R160, R161, R165). -/
def execFld (a : VReg) (b : XReg) (i : BitVec 14) (s : State) : Host.Outcome State Fault Refusal :=
  let h := s.me
  let v := h.getV a
  let n := v.desc.count
  let w := wideRows v.desc.etype
  let base := s.x b + sext i
  if h.csr.vl = 0 then .next s.retire
  else if v.desc.policy = 3 then .next (s.descFault 5)
  else
    match s.rowCheck [a] (n * w) with
    | some (c, ev) => .next (s.trapV c ev 0)
    | none =>
      let acts := h.actives (BitVec.allOnes 256)
      let mis := h.mismatchAt acts
      let step : MemStep VRegister := fun e t r =>
        match t.fieldAccess false (4 * w) false (elemStop mis e false) (coefAddrs base n (4 * w) e) with
        | .error x => .error x
        | .ok (t1, keys) => .ok (t1, r.setCoefs e 0 (keys.map fun k => t1.readLe k (4 * w)))
      let v0 := v.fnDest h v.desc.deg.toNat v.desc.shape v.desc.basis v.desc.etype (n * w)
      match memLoop step acts s v0 with
      | (s1, r, .done) => .next ((s1.setMe (s1.me.setV a ((r.wrote (h.wroteAll acts)).settle h v.held))).vecRetire flNone)
      | (s1, r, .stop k c ev) =>
        if acts.any fun e => decide (e < k) then .next ((s1.setMe (s1.me.setV a (r.wrote (wroteBelow acts k)))).vecTrap c ev k)
        else .next (s1.vecTrap c ev k)

/-- `fst` (R160, R161, R165): a register without rows stores one +0 coefficient per element, at the addresses of N = 1 whatever its
layout: DESIGN CHOICE, log entry 62. -/
def execFst (a : VReg) (b : XReg) (i : BitVec 14) (s : State) : Host.Outcome State Fault Refusal :=
  let h := s.me
  let v := h.getV a
  let n := if v.rows = 0 then 1 else v.desc.count
  let sz := 4 * wideRows v.desc.etype
  let base := s.x b + sext i
  if h.csr.vl = 0 then .next s.retire
  else
    let acts := h.actives (BitVec.allOnes 256)
    let mis := h.mismatchAt acts
    let step : MemStep (List (Nat × List Byte)) := fun e t l =>
      match t.fieldAccess false sz true (elemStop mis e (v.badAny e)) (coefAddrs base n sz e) with
      | .error x => .error x
      | .ok (t1, keys) => .ok (t1, l ++ storePieces sz (keys.zip ((List.range n).map fun k => v.coef e k)))
    match memLoop step acts s [] with
    | (s1, l, .done) => .next ((s1.storeMany l).vecRetire flNone)
    | (s1, l, .stop k c ev) => .next ((s1.storeMany l).vecTrap c ev k)

end Sys2Proof.Machine
end

