-- ==== Sys2Proof/Decode.lean ====
section
/-!
DEFINITION. Decoding and encoding of instruction words (R50 to R65). A word 0 is held by its fields (R51), words 1 and 2
by theirs (R54, R55). `encodeEnc` writes the fields of a well-formed instruction from the tables of the spec; decoding
reads a candidate off the selector fields and accepts it exactly when it is well-formed and its own encoding is the
words read, so a nonzero bit in any field an instruction does not use is never dropped (R57). The word noncomputable
stands where a definition builds a constructor beyond the 245th: the compiled runtime has no tag for it, the kernel
evaluates it all the same.
-/
namespace Sys2Proof

/-- The fields of word 0 (R51). -/
structure W0 where
  f : BitVec 5
  p : BitVec 4
  c : BitVec 5
  b : BitVec 5
  a : BitVec 5
  maj : BitVec 6
  len : BitVec 2
deriving DecidableEq, Repr

/-- The fields of word 1 (R54). -/
structure W1 where
  d : BitVec 5
  orient : BitVec 3
  face : BitVec 3
  shape : BitVec 2
  rm : BitVec 3
  type2 : BitVec 4
  type : BitVec 4
  xop : BitVec 8
deriving DecidableEq, Repr

def W0.toWord (w : W0) : Word32 := w.f ++ w.p ++ w.c ++ w.b ++ w.a ++ w.maj ++ w.len

def W0.ofWord (w : Word32) : W0 :=
  { f := w.extractLsb 31 27, p := w.extractLsb 26 23, c := w.extractLsb 22 18, b := w.extractLsb 17 13,
    a := w.extractLsb 12 8, maj := w.extractLsb 7 2, len := w.extractLsb 1 0 }

def W1.toWord (w : W1) : Word32 :=
  w.d ++ w.orient ++ w.face ++ w.shape ++ w.rm ++ w.type2 ++ w.type ++ w.xop

def W1.ofWord (w : Word32) : W1 :=
  { d := w.extractLsb 31 27, orient := w.extractLsb 26 24, face := w.extractLsb 23 21, shape := w.extractLsb 20 19,
    rm := w.extractLsb 18 16, type2 := w.extractLsb 15 12, type := w.extractLsb 11 8, xop := w.extractLsb 7 0 }

/-- An instruction's fields in its shortest form: word 0, words 1 and 2 of the extended form (word 2 without its loop
flags), and the literal. -/
structure Enc where
  w0 : W0
  ext : Option (W1 × BitVec 30)
  lit : Option Word64
deriving DecidableEq, Repr

/-- A decoded instruction, its loop flags (R55) and its size in bytes (R50). -/
structure Decoded where
  instr : Instr
  first : Bool
  last : Bool
  size : Nat
deriving DecidableEq, Repr

/-- Why bytes are no instruction: too few of them, an encoding illegal by word 0 alone, or by a later word (R58). -/
inductive DecodeError where
  | short
  | illegalWord0
  | illegalLater
deriving DecidableEq, Repr

/-- Type codes of R26. -/
def ElemTy.toCode : ElemTy → BitVec 4
  | .s8 => 0 | .z8 => 1 | .s16 => 2 | .z16 => 3 | .s32 => 4 | .z32 => 5 | .s64 => 6 | .z64 => 7
  | .f8a => 8 | .f8b => 9 | .f16 => 10 | .bf16 => 11 | .f32 => 12 | .f64 => 13 | .t2 => 14

def ElemTy.ofCode (c : BitVec 4) : Option ElemTy :=
  [ElemTy.s8, .z8, .s16, .z16, .s32, .z32, .s64, .z64, .f8a, .f8b, .f16, .bf16, .f32, .f64, .t2][c.toNat]?

/-- Rounding-mode codes of R32. -/
def Rm.toCode : Rm → BitVec 3
  | .rne => 0 | .rtz => 1 | .rdn => 2 | .rup => 3 | .rna => 4 | .dyn => 7

def Rm.ofCode (c : BitVec 3) : Option Rm :=
  match c.toNat with
  | 0 => some .rne | 1 => some .rtz | 2 => some .rdn | 3 => some .rup | 4 => some .rna | 7 => some .dyn
  | _ => none

/-- Scope codes of R60. -/
def Scope.toCode : Scope → BitVec 3
  | .hart => 0 | .core => 1 | .press => 2 | .die => 3 | .device => 4 | .system => 5

def Scope.ofCode (c : BitVec 3) : Option Scope :=
  [Scope.hart, .core, .press, .die, .device, .system][c.toNat]?

/-- Condition codes of R62 and R186. -/
def Cond.toCode : Cond → BitVec 3
  | .eq => 0 | .ne => 1 | .lt => 2 | .le => 3 | .gt => 4 | .ge => 5 | .un => 6

def Cond.ofCode (c : BitVec 3) : Option Cond :=
  [Cond.eq, .ne, .lt, .le, .gt, .ge, .un][c.toNat]?

/-- Operation codes of R115. -/
def RedOp.toCode : RedOp → BitVec 8
  | .add => 0 | .min => 1 | .max => 2 | .and => 3 | .or => 4 | .xor => 5

def RedOp.ofCode (c : BitVec 8) : Option RedOp :=
  [RedOp.add, .min, .max, .and, .or, .xor][c.toNat]?

def bit (b : Bool) : BitVec 1 := BitVec.ofBool b

/-- imm14 of the immediate variant occupies F, P and C (R52). -/
def W0.imm14 (w : W0) : BitVec 14 := w.f ++ w.p ++ w.c

/-- off9 of the branch variant occupies F and P (R52). -/
def W0.off9 (w : W0) : BitVec 9 := w.f ++ w.p

/-- off19 of the jump variant occupies F, P, C and B (R52). -/
def W0.off19 (w : W0) : BitVec 19 := w.f ++ w.p ++ w.c ++ w.b

/-- Word 0 of a register form (R52). -/
def regW (maj len : Nat) (f : BitVec 5) (p : BitVec 4) (c b a : BitVec 5) : W0 :=
  { f, p, c, b, a, maj := BitVec.ofNat 6 maj, len := BitVec.ofNat 2 len }

/-- Word 0 of an immediate form (R52). -/
def immW (maj len : Nat) (i : BitVec 14) (b a : BitVec 5) : W0 :=
  regW maj len (i.extractLsb 13 9) (i.extractLsb 8 5) (i.extractLsb 4 0) b a

def one (w : W0) : Option Enc := some { w0 := w, ext := none, lit := none }
def lit (w : W0) (l : Word64) : Option Enc := some { w0 := w, ext := none, lit := some l }
def ext (w : W0) (w1 : W1) (cls : BitVec 30) : Option Enc := some { w0 := w, ext := some (w1, cls), lit := none }

/-- Word 1 with an extension opcode, a type, a second type and a rounding mode. -/
def modW (xop : BitVec 8) (type type2 : BitVec 4) (rm : BitVec 3) (d : BitVec 5) : W1 :=
  { d, orient := 0, face := 0, shape := 0, rm, type2, type, xop }


/-- The fields of a well-formed instruction, from the opcode map (R61 to R65) and the chapter of its class; `none` for a
device event, which has no encoding. -/
def encodeEnc : Instr → Option Enc
  | .add a b c => one (regW 0x00 0 0 0 c b a)
  | .sub a b c => one (regW 0x00 0 1 0 c b a)
  | .mul a b c => one (regW 0x00 0 2 0 c b a)
  | .mulh a b c => one (regW 0x00 0 3 0 c b a)
  | .mulhz a b c => one (regW 0x00 0 4 0 c b a)
  | .div a b c => one (regW 0x00 0 5 0 c b a)
  | .divz a b c => one (regW 0x00 0 6 0 c b a)
  | .rem a b c => one (regW 0x00 0 7 0 c b a)
  | .remz a b c => one (regW 0x00 0 8 0 c b a)
  | .and a b c => one (regW 0x00 0 9 0 c b a)
  | .or a b c => one (regW 0x00 0 10 0 c b a)
  | .xor a b c => one (regW 0x00 0 11 0 c b a)
  | .sll a b c => one (regW 0x00 0 12 0 c b a)
  | .srl a b c => one (regW 0x00 0 13 0 c b a)
  | .sra a b c => one (regW 0x00 0 14 0 c b a)
  | .slt a b c => one (regW 0x00 0 15 0 c b a)
  | .sltz a b c => one (regW 0x00 0 16 0 c b a)
  | .min a b c => one (regW 0x00 0 17 0 c b a)
  | .max a b c => one (regW 0x00 0 18 0 c b a)
  | .minz a b c => one (regW 0x00 0 19 0 c b a)
  | .maxz a b c => one (regW 0x00 0 20 0 c b a)
  | .clz a b => one (regW 0x00 0 21 0 0 b a)
  | .ctz a b => one (regW 0x00 0 22 0 0 b a)
  | .popc a b => one (regW 0x00 0 23 0 0 b a)
  | .addi a b i => one (immW 0x01 0 i b a)
  | .addiLit a b l => lit (immW 0x01 1 0 b a) l
  | .andi a b i => one (immW 0x02 0 i b a)
  | .andiLit a b l => lit (immW 0x02 1 0 b a) l
  | .ori a b i => one (immW 0x03 0 i b a)
  | .oriLit a b l => lit (immW 0x03 1 0 b a) l
  | .xori a b i => one (immW 0x04 0 i b a)
  | .xoriLit a b l => lit (immW 0x04 1 0 b a) l
  | .slli a b s => one (regW 0x05 0 0 (0#3 ++ (s.extractLsb 5 5)) (s.extractLsb 4 0) b a)
  | .srli a b s => one (regW 0x05 0 8 (0#3 ++ (s.extractLsb 5 5)) (s.extractLsb 4 0) b a)
  | .srai a b s => one (regW 0x05 0 16 (0#3 ++ (s.extractLsb 5 5)) (s.extractLsb 4 0) b a)
  | .lea a b c k => one (regW 0x06 0 (0#3 ++ k) 0 c b a)
  | .li a i => one (immW 0x07 0 i 0 a)
  | .liLit a l => lit (immW 0x07 1 0 0 a) l
  | .pcrel a i => one (immW 0x08 0 i 0 a)
  | .pcrelLit a l => lit (immW 0x08 1 0 0 a) l
  | .sfadd a b c t => one (regW 0x09 0 0 t.toCode c b a)
  | .sfsub a b c t => one (regW 0x09 0 1 t.toCode c b a)
  | .sfmul a b c t => one (regW 0x09 0 2 t.toCode c b a)
  | .sfdiv a b c t => one (regW 0x09 0 3 t.toCode c b a)
  | .sfsqrt a b t => one (regW 0x09 0 4 t.toCode 0 b a)
  | .sfmin a b c t => one (regW 0x09 0 5 t.toCode c b a)
  | .sfmax a b c t => one (regW 0x09 0 6 t.toCode c b a)
  | .sfcmpEq a b c t => one (regW 0x09 0 7 t.toCode c b a)
  | .sfcmpLt a b c t => one (regW 0x09 0 8 t.toCode c b a)
  | .sfcmpLe a b c t => one (regW 0x09 0 9 t.toCode c b a)
  | .sfcmpUn a b c t => one (regW 0x09 0 10 t.toCode c b a)
  | .sfcvt a b s t => one (regW 0x09 0 11 t.toCode (0#1 ++ s.toCode) b a)
  | .sfaddExt a b c t rm => ext (regW 0x09 2 0 0 c b a) (modW 0 t.toCode 0 rm.toCode 0) 0
  | .sfsubExt a b c t rm => ext (regW 0x09 2 0 0 c b a) (modW 1 t.toCode 0 rm.toCode 0) 0
  | .sfmulExt a b c t rm => ext (regW 0x09 2 0 0 c b a) (modW 2 t.toCode 0 rm.toCode 0) 0
  | .sfdivExt a b c t rm => ext (regW 0x09 2 0 0 c b a) (modW 3 t.toCode 0 rm.toCode 0) 0
  | .sfsqrtExt a b t rm => ext (regW 0x09 2 0 0 0 b a) (modW 4 t.toCode 0 rm.toCode 0) 0
  | .sfminExt a b c t rm => ext (regW 0x09 2 0 0 c b a) (modW 5 t.toCode 0 rm.toCode 0) 0
  | .sfmaxExt a b c t rm => ext (regW 0x09 2 0 0 c b a) (modW 6 t.toCode 0 rm.toCode 0) 0
  | .sfcmpEqExt a b c t rm => ext (regW 0x09 2 0 0 c b a) (modW 7 t.toCode 0 rm.toCode 0) 0
  | .sfcmpLtExt a b c t rm => ext (regW 0x09 2 0 0 c b a) (modW 8 t.toCode 0 rm.toCode 0) 0
  | .sfcmpLeExt a b c t rm => ext (regW 0x09 2 0 0 c b a) (modW 9 t.toCode 0 rm.toCode 0) 0
  | .sfcmpUnExt a b c t rm => ext (regW 0x09 2 0 0 c b a) (modW 10 t.toCode 0 rm.toCode 0) 0
  | .sfcvtExt a b t tb rm => ext (regW 0x09 2 0 0 0 b a) (modW 11 t.toCode tb.toCode rm.toCode 0) 0
  | .sffma a b c d t rm => ext (regW 0x09 2 0 0 c b a) (modW 12 t.toCode 0 rm.toCode d) 0
  | .beq b c o => one (regW 0x0A 0 (o.extractLsb 8 4) (o.extractLsb 3 0) c b 0)
  | .bne b c o => one (regW 0x0A 0 (o.extractLsb 8 4) (o.extractLsb 3 0) c b 1)
  | .blt b c o => one (regW 0x0A 0 (o.extractLsb 8 4) (o.extractLsb 3 0) c b 2)
  | .bge b c o => one (regW 0x0A 0 (o.extractLsb 8 4) (o.extractLsb 3 0) c b 3)
  | .blo b c o => one (regW 0x0A 0 (o.extractLsb 8 4) (o.extractLsb 3 0) c b 4)
  | .bhs b c o => one (regW 0x0A 0 (o.extractLsb 8 4) (o.extractLsb 3 0) c b 5)
  | .beqLit b c l => lit (regW 0x0A 1 0 0 c b 0) l
  | .bneLit b c l => lit (regW 0x0A 1 0 0 c b 1) l
  | .bltLit b c l => lit (regW 0x0A 1 0 0 c b 2) l
  | .bgeLit b c l => lit (regW 0x0A 1 0 0 c b 3) l
  | .bloLit b c l => lit (regW 0x0A 1 0 0 c b 4) l
  | .bhsLit b c l => lit (regW 0x0A 1 0 0 c b 5) l
  | .jal a o => one (regW 0x0B 0 (o.extractLsb 18 14) (o.extractLsb 13 10) (o.extractLsb 9 5) (o.extractLsb 4 0) a)
  | .jalLit a l => lit (regW 0x0B 1 0 0 0 0 a) l
  | .jalr a b i => one (immW 0x0C 0 i b a)
  | .loop l b i => one (immW 0x0D 0 i b (0#3 ++ l))
  | .loopLit l i count => lit (immW 0x0D 1 i 0 (0#3 ++ l)) (0#32 ++ count)
  | .smb i => ext (immW 0x0E 2 i 0 0) (modW 0 0 0 0 0) 0
  | .smbStrides i r0 r1 r2 r3 s0 s1 s2 s3 => some { w0 := immW 0x0E 3 i 0 0, ext := some (modW 0 0 0 0 0, 0#10 ++ r3 ++ r2 ++ r1 ++ r0), lit := some (s3 ++ s2 ++ s1 ++ s0) }
  | .csrr a n => one (regW 0x0F 0 (0#2 ++ (n.extractLsb 11 9)) (n.extractLsb 8 5) (n.extractLsb 4 0) 0 a)
  | .csrw b n => one (regW 0x0F 0 (1#2 ++ (n.extractLsb 11 9)) (n.extractLsb 8 5) (n.extractLsb 4 0) b 0)
  | .csrs b n => one (regW 0x0F 0 (2#2 ++ (n.extractLsb 11 9)) (n.extractLsb 8 5) (n.extractLsb 4 0) b 0)
  | .csrc b n => one (regW 0x0F 0 (3#2 ++ (n.extractLsb 11 9)) (n.extractLsb 8 5) (n.extractLsb 4 0) b 0)
  | .vlWrite _ _ => none
  | .vremWrite _ _ => none
  | .vpolWrite _ _ => none
  | .frmWrite _ _ => none
  | .fflagsWrite _ _ => none
  | .awinWrite _ _ => none
  | .lcWrite _ _ _ => none
  | .lsLeWrite _ _ _ _ => none
  | .wboundWrite _ _ => none
  | .registerWrite _ _ _ => none
  | .nop => one (regW 0x3C 0 0 0 0 0 0)
  | .tret => one (regW 0x3C 0 1 0 0 0 0)
  | .brk => one (regW 0x3C 0 2 0 0 0 0)
  | .halt => one (regW 0x3C 0 3 0 0 0 0)
  | .fenceSv s => one (regW 0x3C 0 4 0 0 0 (0#2 ++ s.toCode))
  | .fenceVs s => one (regW 0x3C 0 5 0 0 0 (0#2 ++ s.toCode))
  | .fenceVv s => one (regW 0x3C 0 6 0 0 0 (0#2 ++ s.toCode))
  | .fenceAll s => one (regW 0x3C 0 7 0 0 0 (0#2 ++ s.toCode))
  | .flush b c => one (regW 0x3C 0 8 0 c b 0)
  | .trap i => one (immW 0x3D 0 i 0 0)
  | .ld a b t o => one (regW 0x30 0 (o.extractLsb 9 5) (o.extractLsb 4 1) ((o.extractLsb 0 0) ++ t.toCode) b a)
  | .ldLit a b t l => lit (regW 0x30 1 0 0 (0#1 ++ t.toCode) b a) l
  | .ldIndexed a b c t k => one (regW 0x31 0 (0#3 ++ k) t.toCode c b a)
  | .st a b z o => one (regW 0x32 0 (o.extractLsb 9 5) (o.extractLsb 4 1) ((o.extractLsb 0 0) ++ z ++ 0#2) b a)
  | .stLit a b z l => lit (regW 0x32 1 0 0 (0#1 ++ z ++ 0#2) b a) l
  | .stIndexed a b c k z => one (regW 0x33 0 (0#1 ++ z ++ k) 0 c b a)
  | .ldAcq a b s z => one (regW 0x34 0 (0#3 ++ z) (0#1 ++ s.toCode) 0 b a)
  | .stRel a b s z => one (regW 0x34 0 (1#3 ++ z) (0#1 ++ s.toCode) 0 b a)
  | .amoAdd a b c s z => one (regW 0x35 0 (z ++ 0#4) (0#1 ++ s.toCode) c b a)
  | .amoMin a b c s u z => one (regW 0x35 0 (z ++ 1#4) (u ++ s.toCode) c b a)
  | .amoMax a b c s u z => one (regW 0x35 0 (z ++ 2#4) (u ++ s.toCode) c b a)
  | .amoAnd a b c s z => one (regW 0x35 0 (z ++ 3#4) (0#1 ++ s.toCode) c b a)
  | .amoOr a b c s z => one (regW 0x35 0 (z ++ 4#4) (0#1 ++ s.toCode) c b a)
  | .amoXor a b c s z => one (regW 0x35 0 (z ++ 5#4) (0#1 ++ s.toCode) c b a)
  | .amoSwap a b c s z => one (regW 0x35 0 (z ++ 6#4) (0#1 ++ s.toCode) c b a)
  | .amoCas a b c d s z => ext (regW 0x35 2 (z ++ 0b0111#4) (0#1 ++ s.toCode) c b a) (modW 7 0 0 0 d) 0
  | .redAdd b c s z => one (regW 0x35 0 (z ++ 8#4) (0#1 ++ s.toCode) c b 0)
  | .redMin b c s u z => one (regW 0x35 0 (z ++ 9#4) (u ++ s.toCode) c b 0)
  | .redMax b c s u z => one (regW 0x35 0 (z ++ 10#4) (u ++ s.toCode) c b 0)
  | .redAnd b c s z => one (regW 0x35 0 (z ++ 11#4) (0#1 ++ s.toCode) c b 0)
  | .redOr b c s z => one (regW 0x35 0 (z ++ 12#4) (0#1 ++ s.toCode) c b 0)
  | .redXor b c s z => one (regW 0x35 0 (z ++ 13#4) (0#1 ++ s.toCode) c b 0)
  | .vaddF32 a b c p => one (regW 0x10 0 0 p c b a)
  | .vsubF32 a b c p => one (regW 0x10 0 1 p c b a)
  | .vmulF32 a b c p => one (regW 0x10 0 2 p c b a)
  | .vfmaF32 a b c p => one (regW 0x10 0 3 p c b a)
  | .vdivF32 a b c p => one (regW 0x10 0 4 p c b a)
  | .vsqrtF32 a b p => one (regW 0x10 0 5 p 0 b a)
  | .vrsqrtF32 a b p => one (regW 0x10 0 6 p 0 b a)
  | .vrcpF32 a b p => one (regW 0x10 0 7 p 0 b a)
  | .vexp2F32 a b p => one (regW 0x10 0 8 p 0 b a)
  | .vlog2F32 a b p => one (regW 0x10 0 9 p 0 b a)
  | .vminF32 a b c p => one (regW 0x10 0 10 p c b a)
  | .vmaxF32 a b c p => one (regW 0x10 0 11 p c b a)
  | .vabsF32 a b p => one (regW 0x10 0 12 p 0 b a)
  | .vnegF32 a b p => one (regW 0x10 0 13 p 0 b a)
  | .vaddF64 a b c p => one (regW 0x11 0 0 p c b a)
  | .vsubF64 a b c p => one (regW 0x11 0 1 p c b a)
  | .vmulF64 a b c p => one (regW 0x11 0 2 p c b a)
  | .vfmaF64 a b c p => one (regW 0x11 0 3 p c b a)
  | .vdivF64 a b c p => one (regW 0x11 0 4 p c b a)
  | .vsqrtF64 a b p => one (regW 0x11 0 5 p 0 b a)
  | .vrsqrtF64 a b p => one (regW 0x11 0 6 p 0 b a)
  | .vrcpF64 a b p => one (regW 0x11 0 7 p 0 b a)
  | .vexp2F64 a b p => one (regW 0x11 0 8 p 0 b a)
  | .vlog2F64 a b p => one (regW 0x11 0 9 p 0 b a)
  | .vminF64 a b c p => one (regW 0x11 0 10 p c b a)
  | .vmaxF64 a b c p => one (regW 0x11 0 11 p c b a)
  | .vabsF64 a b p => one (regW 0x11 0 12 p 0 b a)
  | .vnegF64 a b p => one (regW 0x11 0 13 p 0 b a)
  | .vaddS32 a b c p => one (regW 0x12 0 0 p c b a)
  | .vsubS32 a b c p => one (regW 0x12 0 1 p c b a)
  | .vmulS32 a b c p => one (regW 0x12 0 2 p c b a)
  | .vfmaS32 a b c p => one (regW 0x12 0 3 p c b a)
  | .vminS32 a b c p => one (regW 0x12 0 10 p c b a)
  | .vmaxS32 a b c p => one (regW 0x12 0 11 p c b a)
  | .vabsS32 a b p => one (regW 0x12 0 12 p 0 b a)
  | .vnegS32 a b p => one (regW 0x12 0 13 p 0 b a)
  | .vandS32 a b c p => one (regW 0x12 0 14 p c b a)
  | .vorS32 a b c p => one (regW 0x12 0 15 p c b a)
  | .vxorS32 a b c p => one (regW 0x12 0 16 p c b a)
  | .vshlS32 a b c p => one (regW 0x12 0 17 p c b a)
  | .vshrS32 a b c p => one (regW 0x12 0 18 p c b a)
  | .vsraS32 a b c p => one (regW 0x12 0 19 p c b a)
  | .vaddExt a b c t rm p => ext (regW 0x13 2 0 p c b a) (modW 0 t.toCode 0 rm.toCode 0) 0
  | .vsubExt a b c t rm p => ext (regW 0x13 2 0 p c b a) (modW 1 t.toCode 0 rm.toCode 0) 0
  | .vmulExt a b c t rm p => ext (regW 0x13 2 0 p c b a) (modW 2 t.toCode 0 rm.toCode 0) 0
  | .vfmaExt a b c d t rm p => ext (regW 0x13 2 0 p c b a) (modW 3 t.toCode 0 rm.toCode d) 0
  | .vdivExt a b c t rm p => ext (regW 0x13 2 0 p c b a) (modW 4 t.toCode 0 rm.toCode 0) 0
  | .vsqrtExt a b t rm p => ext (regW 0x13 2 0 p 0 b a) (modW 5 t.toCode 0 rm.toCode 0) 0
  | .vrsqrtExt a b t rm p => ext (regW 0x13 2 0 p 0 b a) (modW 6 t.toCode 0 rm.toCode 0) 0
  | .vrcpExt a b t rm p => ext (regW 0x13 2 0 p 0 b a) (modW 7 t.toCode 0 rm.toCode 0) 0
  | .vexp2Ext a b t rm p => ext (regW 0x13 2 0 p 0 b a) (modW 8 t.toCode 0 rm.toCode 0) 0
  | .vlog2Ext a b t rm p => ext (regW 0x13 2 0 p 0 b a) (modW 9 t.toCode 0 rm.toCode 0) 0
  | .vminExt a b c t rm p => ext (regW 0x13 2 0 p c b a) (modW 10 t.toCode 0 rm.toCode 0) 0
  | .vmaxExt a b c t rm p => ext (regW 0x13 2 0 p c b a) (modW 11 t.toCode 0 rm.toCode 0) 0
  | .vabsExt a b t rm p => ext (regW 0x13 2 0 p 0 b a) (modW 12 t.toCode 0 rm.toCode 0) 0
  | .vnegExt a b t rm p => ext (regW 0x13 2 0 p 0 b a) (modW 13 t.toCode 0 rm.toCode 0) 0
  | .vandExt a b c t rm p => ext (regW 0x13 2 0 p c b a) (modW 14 t.toCode 0 rm.toCode 0) 0
  | .vorExt a b c t rm p => ext (regW 0x13 2 0 p c b a) (modW 15 t.toCode 0 rm.toCode 0) 0
  | .vxorExt a b c t rm p => ext (regW 0x13 2 0 p c b a) (modW 16 t.toCode 0 rm.toCode 0) 0
  | .vshlExt a b c t rm p => ext (regW 0x13 2 0 p c b a) (modW 17 t.toCode 0 rm.toCode 0) 0
  | .vshrExt a b c t rm p => ext (regW 0x13 2 0 p c b a) (modW 18 t.toCode 0 rm.toCode 0) 0
  | .vsraExt a b c t rm p => ext (regW 0x13 2 0 p c b a) (modW 19 t.toCode 0 rm.toCode 0) 0
  | .vcvt a b t tb rm p => ext (regW 0x13 2 0 p 0 b a) (modW 32 t.toCode tb.toCode rm.toCode 0) 0
  | .vcmp a b c p x k => one (regW 0x14 0 (k ++ x.toCode) p c b (0#1 ++ a))
  | .vcmpExt a b c x t p => ext (regW 0x14 2 0 p c b (0#1 ++ a)) (modW (0#5 ++ x.toCode) t.toCode 0 0 0) 0
  | .vsel a b c p => one (regW 0x15 0 0 p c b a)
  | .vmov a b p => one (regW 0x15 0 1 p 0 b a)
  | .vbcast a b p => one (regW 0x15 0 2 p 0 b a)
  | .vext a b c => one (regW 0x15 0 3 0 c b a)
  | .vid a p => one (regW 0x15 0 4 p 0 0 a)
  | .vred op a b t rm p => ext (regW 0x16 2 0 p 0 b a) (modW op.toCode t.toCode 0 rm.toCode 0) 0
  | .vsred op a b d t rm p => ext (regW 0x16 2 0 p 0 b a) (modW op.toCode t.toCode 0 rm.toCode (0#1 ++ d)) 1
  | .vscan op excl a b t rm p => ext (regW 0x16 2 0 p 0 b a) (modW op.toCode t.toCode 0 rm.toCode 0) (0#27 ++ bit excl ++ 2#2)
  | .vsscan op excl a b d t rm p => ext (regW 0x16 2 0 p 0 b a) (modW op.toCode t.toCode 0 rm.toCode (0#1 ++ d)) (0#27 ++ bit excl ++ 3#2)
  | .vcompress a b p => one (regW 0x17 0 0 p 0 b a)
  | .vexpand a b p => one (regW 0x17 0 1 p 0 b a)
  | .vperm a b c p => one (regW 0x17 0 2 p c b a)
  | .vslide a b c p => one (regW 0x17 0 3 p c b a)
  | .vpass a b c p => one (regW 0x17 0 4 p c b a)
  | .vrand a b c p => one (regW 0x17 0 5 p c b a)
  | .pand a b c => one (regW 0x18 0 0 0 (0#1 ++ c) (0#1 ++ b) (0#1 ++ a))
  | .por a b c => one (regW 0x18 0 1 0 (0#1 ++ c) (0#1 ++ b) (0#1 ++ a))
  | .pxor a b c => one (regW 0x18 0 2 0 (0#1 ++ c) (0#1 ++ b) (0#1 ++ a))
  | .pnot a b => one (regW 0x18 0 3 0 0 (0#1 ++ b) (0#1 ++ a))
  | .pset a b => one (regW 0x18 0 4 0 0 b (0#1 ++ a))
  | .pfirst a b => one (regW 0x18 0 5 0 0 (0#1 ++ b) a)
  | .ppop a b => one (regW 0x18 0 6 0 0 (0#1 ++ b) a)
  | .vld a b p z => one (regW 0x19 0 (0#3 ++ z) p 0 b a)
  | .vlds a b c p z => one (regW 0x19 0 (1#3 ++ z) p c b a)
  | .vst a b p z => one (regW 0x19 0 (2#3 ++ z) p 0 b a)
  | .vsts a b c p z => one (regW 0x19 0 (3#3 ++ z) p c b a)
  | .vldOff a b z off p => ext (regW 0x19 2 (0#3 ++ z) p 0 b a) (modW 0 0 0 0 0) off
  | .vldsOff a b c z off p => ext (regW 0x19 2 (1#3 ++ z) p c b a) (modW 0 0 0 0 0) off
  | .vstOff a b z off p => ext (regW 0x19 2 (2#3 ++ z) p 0 b a) (modW 0 0 0 0 0) off
  | .vstsOff a b c z off p => ext (regW 0x19 2 (3#3 ++ z) p c b a) (modW 0 0 0 0 0) off
  | .vldg a b p z n => one (regW 0x1A 0 (n ++ z) p 0 b a)
  | .vstg a b p z n => one (regW 0x1B 0 (n ++ z) p 0 b a)
  | .vldx a b c p z => one (regW 0x1C 0 (0#3 ++ z) p c b a)
  | .vstx a b c p z => one (regW 0x1C 0 (1#3 ++ z) p c b a)
  | .fset a b => one (regW 0x20 0 0 0 0 b a)
  | .fget a b => one (regW 0x20 0 1 0 0 b a)
  | .fadd a b c p => one (regW 0x20 0 2 p c b a)
  | .fsub a b c p => one (regW 0x20 0 3 p c b a)
  | .fmul a b c p => one (regW 0x20 0 4 p c b a)
  | .fscale a b c p => one (regW 0x20 0 5 p c b a)
  | .fdot a b c p => one (regW 0x20 0 6 p c b a)
  | .fnorm a b p => one (regW 0x20 0 7 p 0 b a)
  | .fdiff a b axis t rm p => ext (regW 0x21 2 0 p 0 b a) (modW 0 t.toCode 0 rm.toCode 0) (0#24 ++ axis ++ 0#4)
  | .fint a b t rm p => ext (regW 0x21 2 0 p 0 b a) (modW 1 t.toCode 0 rm.toCode 0) 0
  | .fanti a b axis t rm p => ext (regW 0x21 2 0 p 0 b a) (modW 2 t.toCode 0 rm.toCode 0) (0#24 ++ axis ++ 0#4)
  | .fproj a b deg t rm p => ext (regW 0x21 2 0 p 0 b a) (modW 3 t.toCode 0 rm.toCode 0) (0#26 ++ deg)
  | .fraise a b deg t rm p => ext (regW 0x21 2 0 p 0 b a) (modW 4 t.toCode 0 rm.toCode 0) (0#26 ++ deg)
  | .fcvt a b basis t rm p => ext (regW 0x21 2 0 p 0 b a) (modW 5 t.toCode 0 rm.toCode 0) (0#23 ++ basis ++ 0#6)
  | .ftrace a b face orient t rm p => ext (regW 0x21 2 0 p 0 b a) { modW 6 t.toCode 0 rm.toCode 0 with face, orient } 0
  | .feval a b c d t rm p => ext (regW 0x21 2 0 p c b a) (modW 7 t.toCode 0 rm.toCode d) 0
  | .fld a b i => one (immW 0x22 0 i b a)
  | .fst a b i => one (immW 0x23 0 i b a)
  | .mattach a b c => one (regW 0x28 0 0 0 c b a)
  | .mdetach => one (regW 0x28 0 1 0 0 0 0)
  | .mzero n => one (regW 0x28 0 2 0 0 0 (0#4 ++ n))
  | .mldb n k s b c => one (regW 0x28 0 3 0 c b (0#2 ++ s ++ k ++ n))
  | .msign a b n => one (regW 0x28 0 4 0 (0#4 ++ n) b (0#1 ++ a))
  | .msave n b => one (regW 0x28 0 5 0 0 b (0#4 ++ n))
  | .mrest n b => one (regW 0x28 0 6 0 0 b (0#4 ++ n))
  | .mmacc n k b t tb boff nblk rowb steps => ext (regW 0x29 2 0 0 0 b (0#3 ++ k ++ n)) (modW 0 t.toCode tb.toCode 0 0) (0#12 ++ boff ++ nblk ++ rowb ++ steps)
  | .msmacc n k b t tb boff nblk rowb steps => ext (regW 0x29 2 0 0 0 b (0#3 ++ k ++ n)) (modW 1 t.toCode tb.toCode 0 0) (0#12 ++ boff ++ nblk ++ rowb ++ steps)
  | .mresolve n t rm nblk rowb => ext (regW 0x2A 2 0 0 0 0 (0#4 ++ n)) (modW 0 t.toCode 0 rm.toCode 0) (0#26 ++ nblk ++ rowb)
  | .mcmp a b c t x n => ext (regW 0x2A 2 0 0 c b (0#1 ++ a)) (modW 1 t.toCode 0 0 0) (0#26 ++ n ++ x.toCode)
  | .mdrain n b c t rm clr sat pack layout nblk rowb => ext (regW 0x2A 2 0 0 c b (0#4 ++ n)) (modW 2 t.toCode 0 rm.toCode 0) (0#21 ++ bit clr ++ bit sat ++ bit pack ++ layout ++ nblk ++ rowb)
  | .mdrainRaw n b clr nblk rowb => ext (regW 0x2A 2 0 0 0 b (0#4 ++ n)) (modW 2 0 0 0 0) (0#20 ++ 1#1 ++ bit clr ++ 0#4 ++ nblk ++ rowb)
  | .mdrainp n b clr nblk rowb => ext (regW 0x2A 2 0 0 0 b (0#4 ++ n)) (modW 3 0 0 0 0) (0#25 ++ bit clr ++ nblk ++ rowb)
  | .matrixCommandStart _ => none
  | .tileArrival _ => none
  | .cpCopy a b => one (regW 0x36 0 0 0 0 b a)
  | .cpGather a b => one (regW 0x36 0 1 0 0 b a)
  | .cpDec a b => one (regW 0x36 0 2 0 0 b a)
  | .swInit b c => one (regW 0x36 0 3 0 c b 0)
  | .swWait a b c => one (regW 0x36 0 4 0 c b a)
  | .eqPush a b => one (regW 0x36 0 5 0 0 b a)
  | .eqPop a b n => one (regW 0x36 0 6 0 (0#4 ++ n) b a)
  | .engineFifoAdmit _ => none
  | .engineCommandStart _ _ _ => none
  | .commandComplete _ _ _ => none
  | .decodeChunkRelease _ _ => none
  | .completionRecordPlace _ _ _ => none
  | .syncWaitWake _ => none
  | .syncWaitTimeout _ => none
  | .eqPopRecord _ => none
  | .eqPopTimeout _ => none
  | .bar a b l => one (regW 0x38 0 0 0 (0#3 ++ l) b a)
  | .barArrive a b l => one (regW 0x38 0 1 0 (0#3 ++ l) b a)
  | .barWait a l => one (regW 0x38 0 2 0 (0#3 ++ l) 0 a)
  | .barrierRelease _ => none
  | .futPut a b c => one (regW 0x38 0 3 0 c b a)
  | .futGet a b => one (regW 0x38 0 4 0 0 b a)
  | .futureFillWake _ => none
  | .futureWaitTimeout _ => none
  | .qpush b n => one (regW 0x38 0 5 0 (0#3 ++ n) b 0)
  | .qpop a n => one (regW 0x38 0 6 0 (0#3 ++ n) 0 a)
  | .queueWaitAdmit _ => none
  | .queueWaitTimeout _ => none
  | .vwait a b c p => one (regW 0x38 0 7 p c b a)
  | .vwaitWake _ => none
  | .waitm a b c d t s => ext (regW 0x39 2 0 (0#1 ++ s.toCode) c b a) (modW 0 t.toCode 0 0 d) 0
  | .monitorWake _ => none
  | .waitmTimeout _ => none
  | .lease a b c => one (regW 0x3A 0 0 0 c b a)
  | .arbiterServe _ => none
  | .leaseWaitGrant _ => none
  | .farm a b => one (regW 0x3A 0 1 0 0 b a)
  | .wpush a b c => one (regW 0x3A 0 2 0 c b a)
  | .wpop a b => one (regW 0x3A 0 3 0 0 b a)
  | .wprio a b c => one (regW 0x3A 0 4 0 c b a)
  | .yield b => one (regW 0x3A 0 5 0 0 b 0)
  | .commit => one (regW 0x3A 0 6 0 0 0 0)
  | .tend => one (regW 0x3A 0 7 0 0 0 0)
  | .wterm a b => one (regW 0x3A 0 8 0 0 b a)
  | .wpopWaitSelect _ => none
  | .wpopWaitExpiry _ => none
  | .wtermConfirm _ => none
  | .wtermWaitExpiry _ => none
  | .frameHeaderRead _ _ _ _ => none
  | .spillRefill _ _ _ => none
  | .parkFloorTimeout _ => none
  | .rackRequest _ _ => none
  | .rackArrival _ _ => none
  | .deviceRack _ _ _ => none
  | .preemption _ => none
  | .commitWindowExpiry _ => none
  | .terminationWave _ => none
  | .launchComplete _ => none
  | .launch _ _ => none
  | .ctxcfg _ _ _ => none
  | .ctxrel _ _ => none
  | .switch _ _ => none
  | .inval _ _ _ _ => none
  | .query _ _ => none
  | .write _ _ _ _ => none
  | .read _ _ _ _ => none
  | .cellarld _ _ _ _ _ => none
  | .hwrite _ _ _ => none
  | .hread _ _ _ => none
  | .summary _ => none
  | .flr _ => none
  | .assign _ _ _ => none
  | .power _ _ _ => none
  | .fwupdate _ _ _ _ _ _ => none
  | .spdm _ _ => none
  | .getVersion _ => none
  | .getCapabilities _ => none
  | .negotiateAlgorithms _ _ _ _ _ => none
  | .getDigests _ => none
  | .getCertificate _ _ _ => none
  | .challenge _ _ => none
  | .getMeasurements _ _ _ _ => none
  | .keyExchange _ _ => none
  | .finish _ _ => none
  | .heartbeat _ => none
  | .keyUpdate _ => none
  | .endSession _ => none
  | .vendorDefinedRequest _ _ => none
  | .memoryKeyInstall _ _ _ => none
  | .getTdispVersion _ _ => none
  | .getTdispCapabilities _ _ => none
  | .lockInterfaceRequest _ _ => none
  | .getDeviceInterfaceReport _ _ => none
  | .getDeviceInterfaceState _ _ => none
  | .startInterfaceRequest _ _ _ => none
  | .stopInterfaceRequest _ _ => none
  | .tdispUnsupportedMessage _ _ _ => none
  | .contextSwitchOut _ => none
  | .contextSwitchIn _ => none
  | .sliceExpiry _ => none
  | .pageWalk _ _ => none
  | .linkPacketReceive _ _ _ _ _ => none
  | .flitReceive _ _ _ _ => none
  | .linkKeyRotation _ _ _ => none
  | .linkSlotRetire _ => none
  | .psnLimit _ => none
  | .cxlPortDown _ => none
  | .cxlPortRetrain _ => none
  | .patrolScrub _ => none
  | .pageQuarantine _ => none
  | .selfTestStart _ => none
  | .selfTestResult _ _ => none
  | .supervisorCause _ => none
  | .powerStateUpdate _ _ _ _ _ => none
  | .powerBudgetUpdate _ => none
  | .criticalThrottle _ => none
  | .criticalStop _ => none
  | .wearUpdate _ _ => none
  | .clockChange _ => none
  | .wearRecordWrite => none
  | .repairPoint _ => none
  | .coldReset => none
  | .warmReset => none
  | .pressReset _ => none
  | .debugUnlock => none
  | .dcmdHalt _ _ => none
  | .dcmdResume _ _ => none
  | .dcmdStep _ _ => none
  | .dcmdHaltRole _ _ => none
  | .dcmdStopPress _ => none
  | .dcmdStopDie _ => none
  | .stopHalt _ => none
  | .stepHalt _ => none
  | .illegalInstruction _ => none
  | .fetchFault _ _ => none
  | .powerLoss _ => none
  | .resetComplete => none
  | .sessionFault _ => none
  | .memoryKeyLoss _ => none
  | .unknownOp _ _ => none

/-- The candidate of a one-word form of major 0x00. -/
def candMaj00 (w : W0) : Option Instr :=
  match w.f.toNat with
  | 0 => some (.add w.a w.b w.c)
  | 1 => some (.sub w.a w.b w.c)
  | 2 => some (.mul w.a w.b w.c)
  | 3 => some (.mulh w.a w.b w.c)
  | 4 => some (.mulhz w.a w.b w.c)
  | 5 => some (.div w.a w.b w.c)
  | 6 => some (.divz w.a w.b w.c)
  | 7 => some (.rem w.a w.b w.c)
  | 8 => some (.remz w.a w.b w.c)
  | 9 => some (.and w.a w.b w.c)
  | 10 => some (.or w.a w.b w.c)
  | 11 => some (.xor w.a w.b w.c)
  | 12 => some (.sll w.a w.b w.c)
  | 13 => some (.srl w.a w.b w.c)
  | 14 => some (.sra w.a w.b w.c)
  | 15 => some (.slt w.a w.b w.c)
  | 16 => some (.sltz w.a w.b w.c)
  | 17 => some (.min w.a w.b w.c)
  | 18 => some (.max w.a w.b w.c)
  | 19 => some (.minz w.a w.b w.c)
  | 20 => some (.maxz w.a w.b w.c)
  | 21 => some (.clz w.a w.b)
  | 22 => some (.ctz w.a w.b)
  | 23 => some (.popc w.a w.b)
  | _ => none

/-- The candidate of a one-word form of major 0x01. -/
def candMaj01 (w : W0) : Option Instr :=
  some (.addi w.a w.b w.imm14)

/-- The candidate of a one-word form of major 0x02. -/
def candMaj02 (w : W0) : Option Instr :=
  some (.andi w.a w.b w.imm14)

/-- The candidate of a one-word form of major 0x03. -/
def candMaj03 (w : W0) : Option Instr :=
  some (.ori w.a w.b w.imm14)

/-- The candidate of a one-word form of major 0x04. -/
def candMaj04 (w : W0) : Option Instr :=
  some (.xori w.a w.b w.imm14)

/-- The candidate of a one-word form of major 0x05. -/
def candMaj05 (w : W0) : Option Instr :=
  match (w.f.extractLsb 4 3).toNat with
  | 0 => some (.slli w.a w.b ((w.p.extractLsb 0 0) ++ w.c))
  | 1 => some (.srli w.a w.b ((w.p.extractLsb 0 0) ++ w.c))
  | 2 => some (.srai w.a w.b ((w.p.extractLsb 0 0) ++ w.c))
  | _ => none

/-- The candidate of a one-word form of major 0x06. -/
def candMaj06 (w : W0) : Option Instr :=
  some (.lea w.a w.b w.c (w.f.extractLsb 1 0))

/-- The candidate of a one-word form of major 0x07. -/
def candMaj07 (w : W0) : Option Instr :=
  some (.li w.a w.imm14)

/-- The candidate of a one-word form of major 0x08. -/
def candMaj08 (w : W0) : Option Instr :=
  some (.pcrel w.a w.imm14)

/-- The candidate of a one-word form of major 0x09. -/
def candMaj09 (w : W0) : Option Instr :=
  match w.f.toNat with
  | 0 => (ElemTy.ofCode w.p).bind fun t => some (.sfadd w.a w.b w.c t)
  | 1 => (ElemTy.ofCode w.p).bind fun t => some (.sfsub w.a w.b w.c t)
  | 2 => (ElemTy.ofCode w.p).bind fun t => some (.sfmul w.a w.b w.c t)
  | 3 => (ElemTy.ofCode w.p).bind fun t => some (.sfdiv w.a w.b w.c t)
  | 4 => (ElemTy.ofCode w.p).bind fun t => some (.sfsqrt w.a w.b t)
  | 5 => (ElemTy.ofCode w.p).bind fun t => some (.sfmin w.a w.b w.c t)
  | 6 => (ElemTy.ofCode w.p).bind fun t => some (.sfmax w.a w.b w.c t)
  | 7 => (ElemTy.ofCode w.p).bind fun t => some (.sfcmpEq w.a w.b w.c t)
  | 8 => (ElemTy.ofCode w.p).bind fun t => some (.sfcmpLt w.a w.b w.c t)
  | 9 => (ElemTy.ofCode w.p).bind fun t => some (.sfcmpLe w.a w.b w.c t)
  | 10 => (ElemTy.ofCode w.p).bind fun t => some (.sfcmpUn w.a w.b w.c t)
  | 11 => (ElemTy.ofCode (w.c.extractLsb 3 0)).bind fun s => (ElemTy.ofCode w.p).bind fun t => some (.sfcvt w.a w.b s t)
  | _ => none

/-- The candidate of a one-word form of major 0x0A. -/
def candMaj0A (w : W0) : Option Instr :=
  match (w.a.extractLsb 2 0).toNat with
  | 0 => some (.beq w.b w.c w.off9)
  | 1 => some (.bne w.b w.c w.off9)
  | 2 => some (.blt w.b w.c w.off9)
  | 3 => some (.bge w.b w.c w.off9)
  | 4 => some (.blo w.b w.c w.off9)
  | 5 => some (.bhs w.b w.c w.off9)
  | _ => none

/-- The candidate of a one-word form of major 0x0B. -/
def candMaj0B (w : W0) : Option Instr :=
  some (.jal w.a w.off19)

/-- The candidate of a one-word form of major 0x0C. -/
def candMaj0C (w : W0) : Option Instr :=
  some (.jalr w.a w.b w.imm14)

/-- The candidate of a one-word form of major 0x0D. -/
def candMaj0D (w : W0) : Option Instr :=
  some (.loop (w.a.extractLsb 1 0) w.b w.imm14)

/-- The candidate of a one-word form of major 0x0F. -/
def candMaj0F (w : W0) : Option Instr :=
  match (w.f.extractLsb 4 3).toNat with
  | 0 => some (.csrr w.a ((w.f.extractLsb 2 0) ++ w.p ++ w.c))
  | 1 => some (.csrw w.b ((w.f.extractLsb 2 0) ++ w.p ++ w.c))
  | 2 => some (.csrs w.b ((w.f.extractLsb 2 0) ++ w.p ++ w.c))
  | 3 => some (.csrc w.b ((w.f.extractLsb 2 0) ++ w.p ++ w.c))
  | _ => none

/-- The candidate of a one-word form of major 0x10. -/
def candMaj10 (w : W0) : Option Instr :=
  match w.f.toNat with
  | 0 => some (.vaddF32 w.a w.b w.c w.p)
  | 1 => some (.vsubF32 w.a w.b w.c w.p)
  | 2 => some (.vmulF32 w.a w.b w.c w.p)
  | 3 => some (.vfmaF32 w.a w.b w.c w.p)
  | 4 => some (.vdivF32 w.a w.b w.c w.p)
  | 5 => some (.vsqrtF32 w.a w.b w.p)
  | 6 => some (.vrsqrtF32 w.a w.b w.p)
  | 7 => some (.vrcpF32 w.a w.b w.p)
  | 8 => some (.vexp2F32 w.a w.b w.p)
  | 9 => some (.vlog2F32 w.a w.b w.p)
  | 10 => some (.vminF32 w.a w.b w.c w.p)
  | 11 => some (.vmaxF32 w.a w.b w.c w.p)
  | 12 => some (.vabsF32 w.a w.b w.p)
  | 13 => some (.vnegF32 w.a w.b w.p)
  | _ => none

/-- The candidate of a one-word form of major 0x11. -/
def candMaj11 (w : W0) : Option Instr :=
  match w.f.toNat with
  | 0 => some (.vaddF64 w.a w.b w.c w.p)
  | 1 => some (.vsubF64 w.a w.b w.c w.p)
  | 2 => some (.vmulF64 w.a w.b w.c w.p)
  | 3 => some (.vfmaF64 w.a w.b w.c w.p)
  | 4 => some (.vdivF64 w.a w.b w.c w.p)
  | 5 => some (.vsqrtF64 w.a w.b w.p)
  | 6 => some (.vrsqrtF64 w.a w.b w.p)
  | 7 => some (.vrcpF64 w.a w.b w.p)
  | 8 => some (.vexp2F64 w.a w.b w.p)
  | 9 => some (.vlog2F64 w.a w.b w.p)
  | 10 => some (.vminF64 w.a w.b w.c w.p)
  | 11 => some (.vmaxF64 w.a w.b w.c w.p)
  | 12 => some (.vabsF64 w.a w.b w.p)
  | 13 => some (.vnegF64 w.a w.b w.p)
  | _ => none

/-- The candidate of a one-word form of major 0x12. -/
def candMaj12 (w : W0) : Option Instr :=
  match w.f.toNat with
  | 0 => some (.vaddS32 w.a w.b w.c w.p)
  | 1 => some (.vsubS32 w.a w.b w.c w.p)
  | 2 => some (.vmulS32 w.a w.b w.c w.p)
  | 3 => some (.vfmaS32 w.a w.b w.c w.p)
  | 10 => some (.vminS32 w.a w.b w.c w.p)
  | 11 => some (.vmaxS32 w.a w.b w.c w.p)
  | 12 => some (.vabsS32 w.a w.b w.p)
  | 13 => some (.vnegS32 w.a w.b w.p)
  | 14 => some (.vandS32 w.a w.b w.c w.p)
  | 15 => some (.vorS32 w.a w.b w.c w.p)
  | 16 => some (.vxorS32 w.a w.b w.c w.p)
  | 17 => some (.vshlS32 w.a w.b w.c w.p)
  | 18 => some (.vshrS32 w.a w.b w.c w.p)
  | 19 => some (.vsraS32 w.a w.b w.c w.p)
  | _ => none

/-- The candidate of a one-word form of major 0x14. -/
def candMaj14 (w : W0) : Option Instr :=
  (Cond.ofCode (w.f.extractLsb 2 0)).bind fun x => some (.vcmp (w.a.extractLsb 3 0) w.b w.c w.p x (w.f.extractLsb 4 3))

/-- The candidate of a one-word form of major 0x15. -/
def candMaj15 (w : W0) : Option Instr :=
  match w.f.toNat with
  | 0 => some (.vsel w.a w.b w.c w.p)
  | 1 => some (.vmov w.a w.b w.p)
  | 2 => some (.vbcast w.a w.b w.p)
  | 3 => some (.vext w.a w.b w.c)
  | 4 => some (.vid w.a w.p)
  | _ => none

/-- The candidate of a one-word form of major 0x17. -/
def candMaj17 (w : W0) : Option Instr :=
  match w.f.toNat with
  | 0 => some (.vcompress w.a w.b w.p)
  | 1 => some (.vexpand w.a w.b w.p)
  | 2 => some (.vperm w.a w.b w.c w.p)
  | 3 => some (.vslide w.a w.b w.c w.p)
  | 4 => some (.vpass w.a w.b w.c w.p)
  | 5 => some (.vrand w.a w.b w.c w.p)
  | _ => none

/-- The candidate of a one-word form of major 0x18. -/
def candMaj18 (w : W0) : Option Instr :=
  match w.f.toNat with
  | 0 => some (.pand (w.a.extractLsb 3 0) (w.b.extractLsb 3 0) (w.c.extractLsb 3 0))
  | 1 => some (.por (w.a.extractLsb 3 0) (w.b.extractLsb 3 0) (w.c.extractLsb 3 0))
  | 2 => some (.pxor (w.a.extractLsb 3 0) (w.b.extractLsb 3 0) (w.c.extractLsb 3 0))
  | 3 => some (.pnot (w.a.extractLsb 3 0) (w.b.extractLsb 3 0))
  | 4 => some (.pset (w.a.extractLsb 3 0) w.b)
  | 5 => some (.pfirst w.a (w.b.extractLsb 3 0))
  | 6 => some (.ppop w.a (w.b.extractLsb 3 0))
  | _ => none

/-- The candidate of a one-word form of major 0x19. -/
def candMaj19 (w : W0) : Option Instr :=
  match (w.f.extractLsb 4 2).toNat with
  | 0 => some (.vld w.a w.b w.p (w.f.extractLsb 1 0))
  | 1 => some (.vlds w.a w.b w.c w.p (w.f.extractLsb 1 0))
  | 2 => some (.vst w.a w.b w.p (w.f.extractLsb 1 0))
  | 3 => some (.vsts w.a w.b w.c w.p (w.f.extractLsb 1 0))
  | _ => none

/-- The candidate of a one-word form of major 0x1A. -/
def candMaj1A (w : W0) : Option Instr :=
  some (.vldg w.a w.b w.p (w.f.extractLsb 1 0) (w.f.extractLsb 4 2))

/-- The candidate of a one-word form of major 0x1B. -/
def candMaj1B (w : W0) : Option Instr :=
  some (.vstg w.a w.b w.p (w.f.extractLsb 1 0) (w.f.extractLsb 4 2))

/-- The candidate of a one-word form of major 0x1C. -/
def candMaj1C (w : W0) : Option Instr :=
  match (w.f.extractLsb 2 2).toNat with
  | 0 => some (.vldx w.a w.b w.c w.p (w.f.extractLsb 1 0))
  | 1 => some (.vstx w.a w.b w.c w.p (w.f.extractLsb 1 0))
  | _ => none

/-- The candidate of a one-word form of major 0x20. -/
def candMaj20 (w : W0) : Option Instr :=
  match w.f.toNat with
  | 0 => some (.fset w.a w.b)
  | 1 => some (.fget w.a w.b)
  | 2 => some (.fadd w.a w.b w.c w.p)
  | 3 => some (.fsub w.a w.b w.c w.p)
  | 4 => some (.fmul w.a w.b w.c w.p)
  | 5 => some (.fscale w.a w.b w.c w.p)
  | 6 => some (.fdot w.a w.b w.c w.p)
  | 7 => some (.fnorm w.a w.b w.p)
  | _ => none

/-- The candidate of a one-word form of major 0x22. -/
noncomputable def candMaj22 (w : W0) : Option Instr :=
  some (.fld w.a w.b w.imm14)

/-- The candidate of a one-word form of major 0x23. -/
noncomputable def candMaj23 (w : W0) : Option Instr :=
  some (.fst w.a w.b w.imm14)

/-- The candidate of a one-word form of major 0x28. -/
noncomputable def candMaj28 (w : W0) : Option Instr :=
  match w.f.toNat with
  | 0 => some (.mattach w.a w.b w.c)
  | 1 => some .mdetach
  | 2 => some (.mzero (w.a.extractLsb 0 0))
  | 3 => some (.mldb (w.a.extractLsb 0 0) (w.a.extractLsb 1 1) (w.a.extractLsb 2 2) w.b w.c)
  | 4 => some (.msign (w.a.extractLsb 3 0) w.b (w.c.extractLsb 0 0))
  | 5 => some (.msave (w.a.extractLsb 0 0) w.b)
  | 6 => some (.mrest (w.a.extractLsb 0 0) w.b)
  | _ => none

/-- The candidate of a one-word form of major 0x30. -/
def candMaj30 (w : W0) : Option Instr :=
  (ElemTy.ofCode (w.c.extractLsb 3 0)).bind fun t => some (.ld w.a w.b t (w.f ++ w.p ++ (w.c.extractLsb 4 4)))

/-- The candidate of a one-word form of major 0x31. -/
def candMaj31 (w : W0) : Option Instr :=
  (ElemTy.ofCode w.p).bind fun t => some (.ldIndexed w.a w.b w.c t (w.f.extractLsb 1 0))

/-- The candidate of a one-word form of major 0x32. -/
def candMaj32 (w : W0) : Option Instr :=
  some (.st w.a w.b (w.c.extractLsb 3 2) (w.f ++ w.p ++ (w.c.extractLsb 4 4)))

/-- The candidate of a one-word form of major 0x33. -/
def candMaj33 (w : W0) : Option Instr :=
  some (.stIndexed w.a w.b w.c (w.f.extractLsb 1 0) (w.f.extractLsb 3 2))

/-- The candidate of a one-word form of major 0x34. -/
def candMaj34 (w : W0) : Option Instr :=
  match (w.f.extractLsb 2 2).toNat with
  | 0 => (Scope.ofCode (w.p.extractLsb 2 0)).bind fun s => some (.ldAcq w.a w.b s (w.f.extractLsb 1 0))
  | 1 => (Scope.ofCode (w.p.extractLsb 2 0)).bind fun s => some (.stRel w.a w.b s (w.f.extractLsb 1 0))
  | _ => none

/-- The candidate of a one-word form of major 0x35. -/
def candMaj35 (w : W0) : Option Instr :=
  match (w.f.extractLsb 3 0).toNat with
  | 0 => (Scope.ofCode (w.p.extractLsb 2 0)).bind fun s => some (.amoAdd w.a w.b w.c s (w.f.extractLsb 4 4))
  | 1 => (Scope.ofCode (w.p.extractLsb 2 0)).bind fun s => some (.amoMin w.a w.b w.c s (w.p.extractLsb 3 3) (w.f.extractLsb 4 4))
  | 2 => (Scope.ofCode (w.p.extractLsb 2 0)).bind fun s => some (.amoMax w.a w.b w.c s (w.p.extractLsb 3 3) (w.f.extractLsb 4 4))
  | 3 => (Scope.ofCode (w.p.extractLsb 2 0)).bind fun s => some (.amoAnd w.a w.b w.c s (w.f.extractLsb 4 4))
  | 4 => (Scope.ofCode (w.p.extractLsb 2 0)).bind fun s => some (.amoOr w.a w.b w.c s (w.f.extractLsb 4 4))
  | 5 => (Scope.ofCode (w.p.extractLsb 2 0)).bind fun s => some (.amoXor w.a w.b w.c s (w.f.extractLsb 4 4))
  | 6 => (Scope.ofCode (w.p.extractLsb 2 0)).bind fun s => some (.amoSwap w.a w.b w.c s (w.f.extractLsb 4 4))
  | 8 => (Scope.ofCode (w.p.extractLsb 2 0)).bind fun s => some (.redAdd w.b w.c s (w.f.extractLsb 4 4))
  | 9 => (Scope.ofCode (w.p.extractLsb 2 0)).bind fun s => some (.redMin w.b w.c s (w.p.extractLsb 3 3) (w.f.extractLsb 4 4))
  | 10 => (Scope.ofCode (w.p.extractLsb 2 0)).bind fun s => some (.redMax w.b w.c s (w.p.extractLsb 3 3) (w.f.extractLsb 4 4))
  | 11 => (Scope.ofCode (w.p.extractLsb 2 0)).bind fun s => some (.redAnd w.b w.c s (w.f.extractLsb 4 4))
  | 12 => (Scope.ofCode (w.p.extractLsb 2 0)).bind fun s => some (.redOr w.b w.c s (w.f.extractLsb 4 4))
  | 13 => (Scope.ofCode (w.p.extractLsb 2 0)).bind fun s => some (.redXor w.b w.c s (w.f.extractLsb 4 4))
  | _ => none

/-- The candidate of a one-word form of major 0x36. -/
noncomputable def candMaj36 (w : W0) : Option Instr :=
  match w.f.toNat with
  | 0 => some (.cpCopy w.a w.b)
  | 1 => some (.cpGather w.a w.b)
  | 2 => some (.cpDec w.a w.b)
  | 3 => some (.swInit w.b w.c)
  | 4 => some (.swWait w.a w.b w.c)
  | 5 => some (.eqPush w.a w.b)
  | 6 => some (.eqPop w.a w.b (w.c.extractLsb 0 0))
  | _ => none

/-- The candidate of a one-word form of major 0x38. -/
noncomputable def candMaj38 (w : W0) : Option Instr :=
  match w.f.toNat with
  | 0 => some (.bar w.a w.b (w.c.extractLsb 1 0))
  | 1 => some (.barArrive w.a w.b (w.c.extractLsb 1 0))
  | 2 => some (.barWait w.a (w.c.extractLsb 1 0))
  | 3 => some (.futPut w.a w.b w.c)
  | 4 => some (.futGet w.a w.b)
  | 5 => some (.qpush w.b (w.c.extractLsb 1 0))
  | 6 => some (.qpop w.a (w.c.extractLsb 1 0))
  | 7 => some (.vwait w.a w.b w.c w.p)
  | _ => none

/-- The candidate of a one-word form of major 0x3A. -/
noncomputable def candMaj3A (w : W0) : Option Instr :=
  match w.f.toNat with
  | 0 => some (.lease w.a w.b w.c)
  | 1 => some (.farm w.a w.b)
  | 2 => some (.wpush w.a w.b w.c)
  | 3 => some (.wpop w.a w.b)
  | 4 => some (.wprio w.a w.b w.c)
  | 5 => some (.yield w.b)
  | 6 => some .commit
  | 7 => some .tend
  | 8 => some (.wterm w.a w.b)
  | _ => none

/-- The candidate of a one-word form of major 0x3C. -/
def candMaj3C (w : W0) : Option Instr :=
  match w.f.toNat with
  | 0 => some .nop
  | 1 => some .tret
  | 2 => some .brk
  | 3 => some .halt
  | 4 => (Scope.ofCode (w.a.extractLsb 2 0)).bind fun s => some (.fenceSv s)
  | 5 => (Scope.ofCode (w.a.extractLsb 2 0)).bind fun s => some (.fenceVs s)
  | 6 => (Scope.ofCode (w.a.extractLsb 2 0)).bind fun s => some (.fenceVv s)
  | 7 => (Scope.ofCode (w.a.extractLsb 2 0)).bind fun s => some (.fenceAll s)
  | 8 => some (.flush w.b w.c)
  | _ => none

/-- The candidate of a one-word form of major 0x3D. -/
def candMaj3D (w : W0) : Option Instr :=
  some (.trap w.imm14)

/-- The candidate of a one-word form. -/
noncomputable def candOne (w : W0) : Option Instr :=
  match w.maj.toNat with
  | 0x00 => candMaj00 w
  | 0x01 => candMaj01 w
  | 0x02 => candMaj02 w
  | 0x03 => candMaj03 w
  | 0x04 => candMaj04 w
  | 0x05 => candMaj05 w
  | 0x06 => candMaj06 w
  | 0x07 => candMaj07 w
  | 0x08 => candMaj08 w
  | 0x09 => candMaj09 w
  | 0x0A => candMaj0A w
  | 0x0B => candMaj0B w
  | 0x0C => candMaj0C w
  | 0x0D => candMaj0D w
  | 0x0F => candMaj0F w
  | 0x10 => candMaj10 w
  | 0x11 => candMaj11 w
  | 0x12 => candMaj12 w
  | 0x14 => candMaj14 w
  | 0x15 => candMaj15 w
  | 0x17 => candMaj17 w
  | 0x18 => candMaj18 w
  | 0x19 => candMaj19 w
  | 0x1A => candMaj1A w
  | 0x1B => candMaj1B w
  | 0x1C => candMaj1C w
  | 0x20 => candMaj20 w
  | 0x22 => candMaj22 w
  | 0x23 => candMaj23 w
  | 0x28 => candMaj28 w
  | 0x30 => candMaj30 w
  | 0x31 => candMaj31 w
  | 0x32 => candMaj32 w
  | 0x33 => candMaj33 w
  | 0x34 => candMaj34 w
  | 0x35 => candMaj35 w
  | 0x36 => candMaj36 w
  | 0x38 => candMaj38 w
  | 0x3A => candMaj3A w
  | 0x3C => candMaj3C w
  | 0x3D => candMaj3D w
  | _ => none

/-- The candidate of a one-word form with literal (R53). -/
def candLit (w : W0) (l : Word64) : Option Instr :=
  match w.maj.toNat with
  | 0x01 => some (.addiLit w.a w.b l)
  | 0x02 => some (.andiLit w.a w.b l)
  | 0x03 => some (.oriLit w.a w.b l)
  | 0x04 => some (.xoriLit w.a w.b l)
  | 0x07 => some (.liLit w.a l)
  | 0x08 => some (.pcrelLit w.a l)
  | 0x0A =>
    match w.a.toNat with
    | 0 => some (.beqLit w.b w.c l)
    | 1 => some (.bneLit w.b w.c l)
    | 2 => some (.bltLit w.b w.c l)
    | 3 => some (.bgeLit w.b w.c l)
    | 4 => some (.bloLit w.b w.c l)
    | 5 => some (.bhsLit w.b w.c l)
    | _ => none
  | 0x0B => some (.jalLit w.a l)
  | 0x0D => some (.loopLit (w.a.extractLsb 1 0) w.imm14 (l.extractLsb 31 0))
  | 0x30 => (ElemTy.ofCode (w.c.extractLsb 3 0)).bind fun t => some (.ldLit w.a w.b t l)
  | 0x32 => some (.stLit w.a w.b (w.c.extractLsb 3 2) l)
  | _ => none

/-- The candidate of an extended scalar float (R76). -/
def candSf (w : W0) (w1 : W1) : Option Instr :=
  (ElemTy.ofCode w1.type).bind fun t => (Rm.ofCode w1.rm).bind fun rm =>
    match w1.xop.toNat with
    | 0 => some (.sfaddExt w.a w.b w.c t rm)
    | 1 => some (.sfsubExt w.a w.b w.c t rm)
    | 2 => some (.sfmulExt w.a w.b w.c t rm)
    | 3 => some (.sfdivExt w.a w.b w.c t rm)
    | 4 => some (.sfsqrtExt w.a w.b t rm)
    | 5 => some (.sfminExt w.a w.b w.c t rm)
    | 6 => some (.sfmaxExt w.a w.b w.c t rm)
    | 7 => some (.sfcmpEqExt w.a w.b w.c t rm)
    | 8 => some (.sfcmpLtExt w.a w.b w.c t rm)
    | 9 => some (.sfcmpLeExt w.a w.b w.c t rm)
    | 10 => some (.sfcmpUnExt w.a w.b w.c t rm)
    | 11 => (ElemTy.ofCode w1.type2).bind fun tb => some (.sfcvtExt w.a w.b t tb rm)
    | 12 => some (.sffma w.a w.b w.c w1.d t rm)
    | _ => none

/-- The candidate of extended vector arithmetic (R108, R111). -/
def candVec (w : W0) (w1 : W1) : Option Instr :=
  (ElemTy.ofCode w1.type).bind fun t => (Rm.ofCode w1.rm).bind fun rm =>
    match w1.xop.toNat with
    | 0 => some (.vaddExt w.a w.b w.c t rm w.p)
    | 1 => some (.vsubExt w.a w.b w.c t rm w.p)
    | 2 => some (.vmulExt w.a w.b w.c t rm w.p)
    | 3 => some (.vfmaExt w.a w.b w.c w1.d t rm w.p)
    | 4 => some (.vdivExt w.a w.b w.c t rm w.p)
    | 5 => some (.vsqrtExt w.a w.b t rm w.p)
    | 6 => some (.vrsqrtExt w.a w.b t rm w.p)
    | 7 => some (.vrcpExt w.a w.b t rm w.p)
    | 8 => some (.vexp2Ext w.a w.b t rm w.p)
    | 9 => some (.vlog2Ext w.a w.b t rm w.p)
    | 10 => some (.vminExt w.a w.b w.c t rm w.p)
    | 11 => some (.vmaxExt w.a w.b w.c t rm w.p)
    | 12 => some (.vabsExt w.a w.b t rm w.p)
    | 13 => some (.vnegExt w.a w.b t rm w.p)
    | 14 => some (.vandExt w.a w.b w.c t rm w.p)
    | 15 => some (.vorExt w.a w.b w.c t rm w.p)
    | 16 => some (.vxorExt w.a w.b w.c t rm w.p)
    | 17 => some (.vshlExt w.a w.b w.c t rm w.p)
    | 18 => some (.vshrExt w.a w.b w.c t rm w.p)
    | 19 => some (.vsraExt w.a w.b w.c t rm w.p)
    | 32 => (ElemTy.ofCode w1.type2).bind fun tb => some (.vcvt w.a w.b t tb rm w.p)
    | _ => none

/-- The candidate of a reduction or scan (R115). -/
def candRed (w : W0) (w1 : W1) (cls : BitVec 30) : Option Instr :=
  (RedOp.ofCode w1.xop).bind fun op => (ElemTy.ofCode w1.type).bind fun t => (Rm.ofCode w1.rm).bind fun rm =>
    match (cls.extractLsb 1 0).toNat with
    | 0 => some (.vred op w.a w.b t rm w.p)
    | 1 => some (.vsred op w.a w.b (w1.d.extractLsb 3 0) t rm w.p)
    | 2 => some (.vscan op (cls.getLsbD 2) w.a w.b t rm w.p)
    | _ => some (.vsscan op (cls.getLsbD 2) w.a w.b (w1.d.extractLsb 3 0) t rm w.p)

/-- The candidate of a vector memory form with offset (R119). -/
def candVmem (w : W0) (cls : BitVec 30) : Option Instr :=
  match (w.f.extractLsb 4 2).toNat with
  | 0 => some (.vldOff w.a w.b (w.f.extractLsb 1 0) cls w.p)
  | 1 => some (.vldsOff w.a w.b w.c (w.f.extractLsb 1 0) cls w.p)
  | 2 => some (.vstOff w.a w.b (w.f.extractLsb 1 0) cls w.p)
  | 3 => some (.vstsOff w.a w.b w.c (w.f.extractLsb 1 0) cls w.p)
  | _ => none

/-- The candidate of a function instruction of major 0x21 (R152). -/
noncomputable def candFn (w : W0) (w1 : W1) (cls : BitVec 30) : Option Instr :=
  (ElemTy.ofCode w1.type).bind fun t => (Rm.ofCode w1.rm).bind fun rm =>
    match w1.xop.toNat with
    | 0 => some (.fdiff w.a w.b (cls.extractLsb 5 4) t rm w.p)
    | 1 => some (.fint w.a w.b t rm w.p)
    | 2 => some (.fanti w.a w.b (cls.extractLsb 5 4) t rm w.p)
    | 3 => some (.fproj w.a w.b (cls.extractLsb 3 0) t rm w.p)
    | 4 => some (.fraise w.a w.b (cls.extractLsb 3 0) t rm w.p)
    | 5 => some (.fcvt w.a w.b (cls.extractLsb 6 6) t rm w.p)
    | 6 => some (.ftrace w.a w.b w1.face w1.orient t rm w.p)
    | 7 => some (.feval w.a w.b w.c w1.d t rm w.p)
    | _ => none

/-- The candidate of an accumulate (R180). -/
noncomputable def candAcc (w : W0) (w1 : W1) (cls : BitVec 30) : Option Instr :=
  (ElemTy.ofCode w1.type).bind fun t => (ElemTy.ofCode w1.type2).bind fun tb =>
    match w1.xop.toNat with
    | 0 => some (.mmacc (w.a.extractLsb 0 0) (w.a.extractLsb 1 1) w.b t tb (cls.extractLsb 17 11) (cls.extractLsb 10 9)
        (cls.extractLsb 8 7) (cls.extractLsb 6 0))
    | 1 => some (.msmacc (w.a.extractLsb 0 0) (w.a.extractLsb 1 1) w.b t tb (cls.extractLsb 17 11) (cls.extractLsb 10 9)
        (cls.extractLsb 8 7) (cls.extractLsb 6 0))
    | _ => none

/-- The candidate of a resolve, compare or drain (R186, R187, R188, R194). -/
noncomputable def candDrain (w : W0) (w1 : W1) (cls : BitVec 30) : Option Instr :=
  (ElemTy.ofCode w1.type).bind fun t => (Rm.ofCode w1.rm).bind fun rm =>
    match w1.xop.toNat with
    | 0 => some (.mresolve (w.a.extractLsb 0 0) t rm (cls.extractLsb 3 2) (cls.extractLsb 1 0))
    | 1 => (Cond.ofCode (cls.extractLsb 2 0)).bind fun x =>
        some (.mcmp (w.a.extractLsb 3 0) w.b w.c t x (cls.extractLsb 3 3))
    | 2 =>
      if cls.getLsbD 9 then
        some (.mdrainRaw (w.a.extractLsb 0 0) w.b (cls.getLsbD 8) (cls.extractLsb 3 2) (cls.extractLsb 1 0))
      else some (.mdrain (w.a.extractLsb 0 0) w.b w.c t rm (cls.getLsbD 8) (cls.getLsbD 7) (cls.getLsbD 6)
        (cls.extractLsb 5 4) (cls.extractLsb 3 2) (cls.extractLsb 1 0))
    | 3 => some (.mdrainp (w.a.extractLsb 0 0) w.b (cls.getLsbD 4) (cls.extractLsb 3 2) (cls.extractLsb 1 0))
    | _ => none

/-- The candidate of a native extended form. -/
noncomputable def candExt (w : W0) (w1 : W1) (cls : BitVec 30) : Option Instr :=
  match w.maj.toNat with
  | 0x09 => candSf w w1
  | 0x0E => some (.smb w.imm14)
  | 0x13 => candVec w w1
  | 0x14 => (Cond.ofCode (w1.xop.extractLsb 2 0)).bind fun x => (ElemTy.ofCode w1.type).bind fun t =>
      some (.vcmpExt (w.a.extractLsb 3 0) w.b w.c x t w.p)
  | 0x16 => candRed w w1 cls
  | 0x19 => candVmem w cls
  | 0x21 => candFn w w1 cls
  | 0x29 => candAcc w w1 cls
  | 0x2A => candDrain w w1 cls
  | 0x35 => (Scope.ofCode (w.p.extractLsb 2 0)).bind fun s =>
      some (.amoCas w.a w.b w.c w1.d s (w.f.extractLsb 4 4))
  | 0x39 => (Scope.ofCode (w.p.extractLsb 2 0)).bind fun s => (ElemTy.ofCode w1.type).bind fun t =>
      some (.waitm w.a w.b w.c w1.d t s)
  | _ => none

/-- The candidate of an extended form with literal: only `smb` has one (R206). -/
def candExtLit (w : W0) (cls : BitVec 30) (l : Word64) : Option Instr :=
  match w.maj.toNat with
  | 0x0E => some (.smbStrides w.imm14 (cls.extractLsb 4 0) (cls.extractLsb 9 5) (cls.extractLsb 14 10)
      (cls.extractLsb 19 15) (l.extractLsb 15 0) (l.extractLsb 31 16) (l.extractLsb 47 32) (l.extractLsb 63 48))
  | _ => none

/-- The candidate an instruction's fields select. -/
noncomputable def cand (e : Enc) : Option Instr :=
  match e.ext, e.lit with
  | none, none => candOne e.w0
  | none, some l => candLit e.w0 l
  | some (w1, cls), none => candExt e.w0 w1 cls
  | some (_, cls), some l => candExtLit e.w0 cls l

/-- Accept a candidate exactly when it is well-formed and encodes to the fields read. -/
noncomputable def decodeEnc (e : Enc) : Option Instr :=
  match cand e with
  | some i => if i.wf && decide (encodeEnc i = some e) then some i else none
  | none => none

/-- Size in bytes by LEN (R50). -/
def sizeOfLen (len : BitVec 2) : Nat :=
  match len.toNat with
  | 0 => 4
  | 1 => 12
  | 2 => 12
  | _ => 20

def lenOne : BitVec 2 := 0
def lenLit : BitVec 2 := 1
def lenExt : BitVec 2 := 2
def lenExtLit : BitVec 2 := 3

/-- Whether word 0 can begin a native extended form of its major: the constraints on word 0 that hold under every
word 1 and word 2 (R58, order 2). -/
def nativeExtW0 (w : W0) : Bool :=
  match w.maj.toNat with
  | 0x09 => w.f == 0 && w.p == 0
  | 0x0E => w.a == 0 && w.b == 0
  | 0x13 => w.f == 0
  | 0x14 => w.f == 0 && w.a.toNat < 16
  | 0x16 => w.f == 0 && w.c == 0
  | 0x19 => w.f.toNat < 16 && ((w.f.extractLsb 2 2).toNat == 1 || w.c == 0)
  | 0x21 => w.f == 0
  | 0x29 => w.f == 0 && w.p == 0 && w.c == 0 && w.a.toNat < 4
  | 0x2A => w.f == 0 && w.p == 0 && w.a.toNat < 16
  | 0x35 => (w.f.extractLsb 3 0).toNat == 7 && w.p.toNat < 6
  | 0x39 => w.f == 0 && w.p.toNat < 6
  | _ => false

/-- Legality decidable from word 0 alone (R58, order 2): some later words make an instruction of it. -/
noncomputable def word0Legal (w : W0) : Bool :=
  match w.len.toNat with
  | 0 => (decodeEnc { w0 := w, ext := none, lit := none }).isSome
  | 1 => (decodeEnc { w0 := w, ext := none, lit := some 0 }).isSome
  | 2 => (decodeEnc { w0 := { w with len := lenOne }, ext := none, lit := none }).isSome || nativeExtW0 w
  | _ => (decodeEnc { w0 := { w with len := lenLit }, ext := none, lit := some 0 }).isSome ||
      (w.maj.toNat == 0x0E && w.a == 0 && w.b == 0)

/-- The reserved word 1 of a promoted form (R56). -/
def promotedW1 : W1 := { d := 0, orient := 0, face := 0, shape := 0, rm := 0, type2 := 0, type := 0, xop := 0xFF }

/-- Decode the fields of words 1 and 2, with the literal when there is one: promoted (R56) or native. -/
noncomputable def decodeTail (w : W0) (w1 : W1) (w2 : Word32) (l : Option Word64) : Option Decoded :=
  let cls : BitVec 30 := w2.extractLsb 29 0
  let enc : Enc :=
    if w1 = promotedW1 ∧ cls = 0 then
      { w0 := { w with len := if l.isSome then lenLit else lenOne }, ext := none, lit := l }
    else { w0 := w, ext := some (w1, cls), lit := l }
  (decodeEnc enc).bind fun i =>
    some { instr := i, first := w2.getLsbD 31, last := w2.getLsbD 30, size := sizeOfLen w.len }

/-- The instruction a list of words begins with: word 0 and the words its LEN asks for (R50). -/
noncomputable def decodeWords (ws : List Word32) : Except DecodeError Decoded :=
  match ws with
  | [] => .error .short
  | w :: rest =>
    let w0 := W0.ofWord w
    if !word0Legal w0 then .error .illegalWord0
    else
      let r : Option (Option Decoded) :=
        match w0.len.toNat, rest with
        | 0, _ => some ((decodeEnc { w0 := w0, ext := none, lit := none }).map
            fun i => { instr := i, first := false, last := false, size := 4 })
        | 1, l0 :: l1 :: _ => some ((decodeEnc { w0 := w0, ext := none, lit := some (l1 ++ l0) }).map
            fun i => { instr := i, first := false, last := false, size := 12 })
        | 2, w1 :: w2 :: _ => some (decodeTail w0 (W1.ofWord w1) w2 none)
        | 3, w1 :: w2 :: l0 :: l1 :: _ => some (decodeTail w0 (W1.ofWord w1) w2 (some (l1 ++ l0)))
        | _, _ => none
      match r with
      | some (some d) => .ok d
      | some none => .error .illegalLater
      | none => .error .short

/-- Little-endian words of a byte list (R6); bytes that fill no word are left out. -/
def wordsOfBytes : List Byte → List Word32
  | b0 :: b1 :: b2 :: b3 :: rest => (b3 ++ b2 ++ b1 ++ b0) :: wordsOfBytes rest
  | _ => []

/-- Little-endian bytes of words (R6). -/
def bytesOfWords : List Word32 → List Byte
  | [] => []
  | w :: ws => w.extractLsb 7 0 :: w.extractLsb 15 8 :: w.extractLsb 23 16 :: w.extractLsb 31 24 :: bytesOfWords ws

/-- The instruction a list of bytes begins with. -/
noncomputable def decodeBytes (bs : List Byte) : Except DecodeError Decoded := decodeWords (wordsOfBytes bs)

/-- The words of an instruction's fields with its loop flags: without flags in the shortest form, with a flag the
promoted form where there is no native word 2 (R55, R56). -/
def Enc.words (e : Enc) (first last : Bool) : List Word32 :=
  let lits : List Word32 := match e.lit with
    | some l => [l.extractLsb 31 0, l.extractLsb 63 32]
    | none => []
  match e.ext with
  | some (w1, cls) => e.w0.toWord :: w1.toWord :: (bit first ++ bit last ++ cls) :: lits
  | none =>
    if first || last then
      W0.toWord { e.w0 with len := if e.lit.isSome then lenExtLit else lenExt } :: promotedW1.toWord ::
        (bit first ++ bit last ++ 0#30) :: lits
    else e.w0.toWord :: lits

/-- The words of a well-formed instruction with loop flags; none for a device event. -/
def encodeFlags (first last : Bool) (i : Instr) : List Word32 :=
  match encodeEnc i with
  | some e => e.words first last
  | none => []

/-- The words of a well-formed instruction in its shortest form. -/
def encode (i : Instr) : List Word32 := encodeFlags false false i

/-- The `n` words of a number, least significant first. -/
def wordsOfNat : Nat → Nat → List Word32
  | 0, _ => []
  | n + 1, w => BitVec.ofNat 32 w :: wordsOfNat n (w / 2 ^ 32)

/-- The words of an instruction whose low `nbits` bits are `w` and whose other bits, up to the longest form, are 0. -/
def tableWords (nbits w : Nat) : List Word32 := wordsOfNat 5 (w % 2 ^ nbits)

/-- What the decoder reads from an instruction whose bits are `w`, bit 0 the least significant bit of its first word. -/
noncomputable def decodeTableWord (nbits w : Nat) : Option Instr :=
  match decodeBytes (bytesOfWords (tableWords nbits w)) with
  | .ok d => some d.instr
  | .error _ => none

end Sys2Proof
end

