-- ==== Sys2Proof/Machine/SyncWord.lean ====
section
/-!
DEFINITION. Sync words (R219 to R222): arming, arrivals, and the wait for a generation.
-/
namespace Sys2Proof.Machine

/-- GEN of the sync word at a key. -/
def State.swGen (s : State) (key : Nat) : Word32 := BitVec.ofNat 32 (s.readLe (key + 8) 4)

/-- A hart parked on the word at `key` is woken with its new GEN. -/
def wakeSync (key : Nat) (gen : Word32) (h : Hart) : Hart :=
  match h.wait with
  | .swWait k _ _ => if k = key ∧ h.wake.isNone then { h with wake := some (gen.setWidth 64) } else h
  | _ => h

/-- The word after an arrival of `n` bytes, and whether it completes a generation (R220). -/
def swArrive (target count gen past n : Nat) : (Nat × Nat × Nat) × Bool :=
  let c := min (count + n) (2 ^ 32 - 1)
  if target = 0 then ((c, gen, 1), false)
  else if target ≤ c then ((c - target, (gen + 1) % 2 ^ 32, if target < c then 1 else past), true)
  else ((c, gen, past), false)

/-- `Arrive(n)` at the sync word at a key (R220); at a poisoned word it is not applied but logged (R327). An `sw.init` of the
same clock comes before it. -/
def State.arrive (s : State) (key n : Nat) : State :=
  let s0 := s.touch key 16
  if (s0.poisonedAt key 16).isSome then s0.logEntry (keyLog s0 key 7)
  else
    let s1 := (s0.watch key 16 true false).1
    let r := swArrive (s1.readLe key 4) (s1.readLe (key + 4) 4) (s1.readLe (key + 8) 4) (s1.readLe (key + 12) 4 % 2) n
    let top := s1.readLe (key + 12) 4 / 2 * 2
    let s2 := (s1.storeAt (key + 4) (leBytes 4 r.1.1 ++ leBytes 4 r.1.2.1 ++ leBytes 4 (top + r.1.2.2))).mark (turnOf 3 key) 1
    if r.2 then
      { s2 with harts := fmapValues Hart.reset (fun _ h => wakeSync key (BitVec.ofNat 32 r.1.2.1) h) s2.harts }
    else s2

/-- The checks of a sync word's address (R221): R79 as a 16-byte store, then outside every scratchpad window the
scratchpad-bounds cause. -/
def State.swFail (s : State) (va : Nat) : Option (Nat × Word64) :=
  let out := !(decide (va < 0x100000) || (decide (0x7F0000000000 ≤ va) && decide (va < 0x7F0000400000)) ||
    (decide (0x7F0010000000 ≤ va) && decide (va < 0x7F0018000000)) ||
    (decide (0x7F0100000000 ≤ va) && decide (va < 0x7F0140000000)))
  if va % 16 ≠ 0 then some (3, BitVec.ofNat 64 va)
  else
    match s.resolveAll va 16 .store with
    | .error f => if out && decide (3 ≤ f.order) then some (6, BitVec.ofNat 64 va) else some (f.cause, failEval f va)
    | .ok _ => if out then some (6, BitVec.ofNat 64 va) else none

/-- `sw.init` (R221): GEN is unchanged. -/
def execSwInit (b c : XReg) (s : State) : Host.Outcome State Fault Refusal :=
  let va := s.x b
  match s.swFail va.toNat with
  | some (k, ev) => .next (s.trap k ev)
  | none =>
    s.withAccess va 16 16 .store false true true fun s1 key =>
      (s1.storeMany [(key, leBytes 4 ((s1.x c).toNat % 2 ^ 32) ++ leBytes 4 0), (key + 12, leBytes 4 0)]).retire

/-- `sw.wait` (R222): retires at once when GEN differs from xc, else parks. -/
def execSwWait (a b c : XReg) (s : State) : Host.Outcome State Fault Refusal :=
  let va := s.x b
  match s.swFail va.toNat with
  | some (k, ev) => .next (s.trap k ev)
  | none =>
    s.withAccess va 16 16 .load true false true fun s1 key =>
      let expect : Word32 := (s1.x c).setWidth 32
      let gen := s1.swGen key
      if gen ≠ expect then s1.retireX a (gen.setWidth 64) else s1.beginWait (.swWait key expect a)

/-- SYNC_WAIT_WAKE (R222): a woken hart that is not halted retires with the new GEN. -/
def State.syncWake (s : State) : State :=
  match s.me.wait, s.me.wake with
  | .swWait _ _ rd, some g => if s.me.csr.halt then s else s.retireX rd g
  | _, _ => s

def execSyncWaitWake (hart : Nat) (s : State) : Host.Outcome State Fault Refusal := .next (s.atHart hart State.syncWake)

/-- The no-progress trap of a wait without a strip (R215, R222, R232, R250): EVAL holds 511 and the PC. -/
def State.noProgress (s : State) : State := s.trap 9 (BitVec.ofNat 64 (511 * 2 ^ 48 + s.me.pc.toNat % 2 ^ 48))

/-- Clocks of the waiting timers (R215). -/
def waitLimit : Nat := 2 ^ 20

/-- Whether a hart has waited out its timer and may trap: not woken, not halted. -/
def Hart.waitedOut (h : Hart) : Bool := h.wake.isNone && !h.csr.halt && decide (waitLimit ≤ h.waited)

/-- SYNC_WAIT_TIMEOUT (R222). -/
def State.syncTimeout (s : State) : State :=
  match s.me.wait with
  | .swWait _ _ _ => if s.me.waitedOut then s.noProgress else s
  | _ => s

def execSyncWaitTimeout (hart : Nat) (s : State) : Host.Outcome State Fault Refusal :=
  .next (s.atHart hart State.syncTimeout)

end Sys2Proof.Machine
end

