-- ==== Sys2Proof/Machine/Matrix.lean ====
section
/-!
DEFINITION. The matrix engine (R169 to R197): accumulator cells and exact accumulation (R39 to R45), attaching, B buffers,
resolving, comparing, drains and tiles, save and restore, and the command queue (R171; log entry 24).
-/
namespace Sys2Proof.Machine

/-! Cells (R40 to R42). -/

/-- What an addition into a cell sets: INX, OVF and NV. -/
structure AddFlags where
  inx : Bool
  ovf : Bool
  nv : Bool
deriving DecidableEq, Repr

def AddFlags.none : AddFlags := { inx := false, ovf := false, nv := false }

def AddFlags.or (a b : AddFlags) : AddFlags := { inx := a.inx || b.inx, ovf := a.ovf || b.ovf, nv := a.nv || b.nv }

/-- `Fix` of ±m × 2^e (R41) and whether it is inexact. -/
def fixInt (shift : Int) (neg : Bool) (m : Nat) (e : Int) : Int × Bool :=
  let x : Int := if neg then -(m : Int) else m
  let k := e + 40 - shift
  if 0 ≤ k then (x * 2 ^ k.toNat, false) else (x / 2 ^ (-k).toNat, x % 2 ^ (-k).toNat != 0)

/-- A sum of a cell at the limits of the window (R41). -/
def clampCell (v : Int) : Cell × Bool :=
  if v < -(2 ^ 79) then (.fin (BitVec.ofInt 80 (-(2 ^ 79))), true)
  else if 2 ^ 79 - 1 < v then (.fin (BitVec.ofInt 80 (2 ^ 79 - 1)), true)
  else (.fin (BitVec.ofInt 80 v), false)

/-- Addition into a cell (R42). -/
def addCell (shift : Int) (c : Cell) (x : Num) : Cell × AddFlags :=
  match c, x with
  | .nan, _ => (.nan, AddFlags.none)
  | _, .nan _ => (.nan, AddFlags.none)
  | .fin v, .fin n m e =>
    let f := fixInt shift n m e
    let r := clampCell (v.toInt + f.1)
    (r.1, { inx := f.2, ovf := r.2, nv := false })
  | .fin _, .inf n => (if n then .ninf else .pinf, AddFlags.none)
  | .pinf, .inf n => if n then (.nan, { AddFlags.none with nv := true }) else (.pinf, AddFlags.none)
  | .ninf, .inf n => if n then (.ninf, AddFlags.none) else (.nan, { AddFlags.none with nv := true })
  | .pinf, .fin _ _ _ => (.pinf, AddFlags.none)
  | .ninf, .fin _ _ _ => (.ninf, AddFlags.none)

def addCells (shift : Int) : List Num → Cell → AddFlags → Cell × AddFlags
  | [], c, f => (c, f)
  | x :: t, c, f =>
    let r := addCell shift c x
    addCells shift t r.1 (f.or r.2)

/-- `x` put at position `i` of a list. -/
def insertAt {α : Type} (x : α) : Nat → List α → List α
  | 0, l => x :: l
  | _ + 1, [] => [x]
  | i + 1, y :: t => y :: insertAt x i t

/-- A list in an order that is not fixed. -/
def freeOrder {α : Type} (no : Nat) : List α → List α
  | [] => []
  | x :: t => insertAt x (Config.freePos no t.length % (t.length + 1)) (freeOrder no t)

/-- The sums of the positive and of the negative `Fix` values of a list; `none` if a member is not finite. -/
def fixBounds (shift : Int) : List Num → Option (Int × Int)
  | [] => some (0, 0)
  | .fin n m e :: t =>
    (fixBounds shift t).map fun b =>
      let f := (fixInt shift n m e).1
      if 0 ≤ f then (b.1 + f, b.2) else (b.1, b.2 + f)
  | _ :: _ => none

/-- Whether every order of additions gives the same cell and flags (R44): all finite and no order can leave the window,
or nothing that can change a NaN. -/
def orderIndependent (shift : Int) (c : Cell) (xs : List Num) : Bool :=
  match c with
  | .nan => true
  | .fin v =>
    match fixBounds shift xs with
    | some b => decide (v.toInt + b.1 ≤ 2 ^ 79 - 1) && decide (-(2 ^ 79) ≤ v.toInt + b.2)
    | none => false
  | .pinf | .ninf => (fixBounds shift xs).isSome

/-- All additions of an accumulate into one cell: any order (R44), which shows only where it matters. -/
def accCell (shift : Int) (no : Nat) (c : Cell) (xs : List Num) : Cell × AddFlags :=
  addCells shift (if orderIndependent shift c xs then xs else freeOrder no xs) c AddFlags.none

/-- An exact product as an incoming value with NV for 0 × ∞ and signalling NaNs (R31, R42). -/
def accProduct (a b : Num) : Num × FpFlags :=
  if a.isNan || b.isNan then (.nan false, sigFlags [a, b])
  else
    match mulExact a b with
    | some p => (p, flNone)
    | none => (.nan false, flNV)

/-- `ScaledValue` (R39). -/
def scaledValue (sc a : Num) : Num × FpFlags :=
  if sc.isNan then (.nan false, sigFlags [sc, a])
  else accProduct sc a

/-- A value of a type as an exact number (R26 to R29, R35). -/
def typedNum (ftz : Bool) (t : ElemTy) (bits : Nat) : Num :=
  if t.isInt then numOfInt (intOf t bits) else numIn ftz t bits

/-- A cell of a block as an exact number (R186). -/
def Block.num (b : Block) (ftz : Bool) (i : Nat) : Num :=
  match b.res with
  | some t => typedNum ftz t (fget 0 b.vals i).toNat
  | none =>
    match fget (.fin 0) b.cells i with
    | .fin v => .fin v.msb v.toInt.natAbs (b.shift.toInt - 40)
    | .pinf => .inf false
    | .ninf => .inf true
    | .nan => .nan false

/-- `Resolve` (R45). -/
def resolveCell (mode : Rm) (ftz : Bool) (t : ElemTy) (shift : Int) (c : Cell) : FpRes :=
  let x : Num := match c with
    | .fin v => .fin v.msb v.toInt.natAbs (shift - 40)
    | .pinf => .inf false
    | .ninf => .inf true
    | .nan => .nan false
  if t.isInt then
    let r := fpToInt mode t x
    (intBits t r.1, r.2)
  else roundNum mode ftz t x

/-! Poison in a plane (R323, R327): a row's 96 cells of 20 bytes lie in 60 bank words (log entry 28). -/

/-- The bank words of a block that hold its cell `i`. -/
def cellWords (i : Nat) : List Nat := [i / 96 * 60 + i % 96 * 20 / 32, i / 96 * 60 + (i % 96 * 20 + 19) / 32]

/-- Whether a block has a poisoned bank word. -/
def Block.anyBad (b : Block) : Bool := b.bad.any fun e => e.2

/-- Whether a bank word of row `m` of a block is poisoned. -/
def Block.rowBad (b : Block) (m : Nat) : Bool := b.bad.any fun e => e.2 && e.1 / 60 == m

/-- Whether cell `i` lies in a poisoned bank word. -/
def Block.cellBad (b : Block) (i : Nat) : Bool := (cellWords i).any fun w => fget false b.bad w

/-- An unresolved zero block with a SHIFT latch (R175). -/
def Block.fresh (shift : BitVec 8) : Block := { Block.zero with shift := shift }

/-! The engine of a press. -/

def Press.blk (p : Press) (plane k : Nat) : Block := fget Block.zero p.blocks (plane * 4 + k)

def State.setBlk (s : State) (press plane k : Nat) (b : Block) : State :=
  let p := s.press press
  s.setPress press { p with blocks := fset Block.zero p.blocks (plane * 4 + k) b }

/-- Physical blocks of a logical range, none if the core does not hold them all (R172 reason 1). -/
def Core.range (c : Core) (rowb nblk : Nat) : Option (List Nat) :=
  if rowb + nblk + 1 ≤ c.blocks.length then some ((c.blocks.drop rowb).take (nblk + 1)) else none

/-- INX and OVF of a plane (R41). -/
def Core.sticky (c : Core) (plane : Nat) (inx ovf : Bool) : Core :=
  if plane = 0 then { c with inx0 := c.inx0 || inx, ovf0 := c.ovf0 || ovf }
  else { c with inx1 := c.inx1 || inx, ovf1 := c.ovf1 || ovf }

/-- INX and OVF as two bits, OVF above. -/
def Core.stickyBits (c : Core) (plane : Nat) : Nat :=
  if plane = 0 then c.inx0.toNat + 2 * c.ovf0.toNat else c.inx1.toNat + 2 * c.ovf1.toNat

def Core.window (c : Core) (plane : Nat) : BitVec 4 := if plane = 0 then c.win0 else c.win1

/-- The receive window of a plane kept only for the logical blocks in `keep` (R192, R193). -/
def Core.keepWindow (c : Core) (plane : Nat) (keep : BitVec 4) : Core :=
  if plane = 0 then { c with win0 := c.win0 &&& keep } else { c with win1 := c.win1 &&& keep }

/-- A mask of the logical blocks outside a range. -/
def outsideRange (rowb nblk : Nat) : BitVec 4 := ~~~ (BitVec.ofNat 4 ((2 ^ (nblk + 1) - 1) * 2 ^ rowb))

/-- The acting hart's blocks of a plane over a list of physical blocks. -/
def State.myBlocks (s : State) (plane : Nat) (ks : List Nat) : List Block := ks.map (s.myPress.blk plane)

def State.setBlocks (s : State) (plane : Nat) : List (Nat × Block) → State
  | [] => s
  | (k, b) :: t => (s.setBlk s.myPressId plane k b).setBlocks plane t

/-- Blocks set to unresolved zero with the current SHIFT (R175). -/
def State.zeroBlocks (s : State) (plane : Nat) (ks : List Nat) : State :=
  s.setBlocks plane (ks.map fun k => (k, Block.fresh s.myCore.shift))

/-! Checks at issue (R172). -/

/-- A matrix-state fault. -/
def State.matrixFault (s : State) (reason : Nat) : Option (Nat × Word64) := some (1, illegalEval s.me.ir 2 reason)

/-- A matrix operand's range (R79): alignment, the checks, and the places `ok` allows. -/
def State.matAccess (s : State) (va n align : Nat) (acc : Acc) (ok : Nat → Bool) : Option (Nat × Word64) :=
  if va % align ≠ 0 then some (3, BitVec.ofNat 64 va)
  else
    let f := s.rangeFailMe va n acc
    let placed := match s.resolveMe va acc with
      | .ok k => ok k
      | .error _ => true
    let g := if placed then f
      else
        match f with
        | some (x, a) => if x.order < 3 then some (x, a) else some ({ order := 3, cause := 6 }, va)
        | none => some ({ order := 3, cause := 6 }, va)
    g.map fun x => (x.1.cause, failEval x.1 x.2)

def State.ownSpad (s : State) (key : Nat) : Bool := isSpad key && spadCore key == s.myCoreId

/-- The own scratchpad or the press's cellar slice (R176). -/
def State.ownSource (s : State) (key : Nat) : Bool :=
  s.ownSpad key || (decide (cellarKey s.myPressId 0 ≤ key) && decide (key < cellarKey s.myPressId 20971520))

def anywhere (_ : Nat) : Bool := true

/-- Bytes of `n` at an address of the acting hart. -/
def State.readMe (s : State) (va n : Nat) : List Byte := s.readSegs (s.segmentsMe va n .load)

/-- The range word of `mldb` (R176): U0 and UNITS. -/
def ldbUnits (range : Word64) : Nat × Nat := ((range.extractLsb 6 0).toNat, (range.extractLsb 14 8).toNat + 1)

/-- Bytes of an unpacked source (R177). -/
def ldbBytes (units : Nat) (scaled : Bool) : Nat := 768 * units + (if scaled then 192 * (units / 4) else 0)

/-- What a packed source is made of (R178, R190): element size, elements, bitmap bytes, values kept. -/
structure Packed where
  size : Nat
  elems : Nat
  bitmap : Nat
  kept : Nat
deriving DecidableEq, Repr

/-- The element type of a header code. -/
def typeOfCode (n : Nat) : Option ElemTy := ElemTy.ofCode (BitVec.ofNat 4 n)

/-- A packed header against a range word (R178). -/
def packedOf (h0 units : Nat) (scaled : Bool) : Option Packed :=
  match typeOfCode (h0 / 2 ^ 44 % 16) with
  | none => none
  | some t =>
    let sz := t.width / 8
    if h0 / 2 ^ 48 = 0x5A01 ∧ h0 / 2 ^ 41 % 2 = 1 ∧ (sz = 1 ∨ sz = 2) ∧ h0 / 2 ^ 32 % 256 * 96 = units * 768 / sz ∧
        (h0 / 2 ^ 40 % 2 = 1 ↔ scaled = true) then
      let e := units * 768 / sz
      some { size := sz, elems := e, bitmap := (e + 63) / 64 * 8, kept := h0 % 2 ^ 32 }
    else none

/-- Number of 1 bits among the first `n` of a bitmap. -/
def popBits (bm : Nat) (n : Nat) : Nat := ((List.range n).filter fun i => bm.testBit i).length

/-- Bytes of a packed source from its header on. -/
def Packed.total (p : Packed) (units : Nat) (scaled : Bool) : Nat :=
  16 + p.bitmap + (p.kept * p.size + 7) / 8 * 8 + (if scaled then 192 * (units / 4) else 0)

/-- Whether a read of the acting hart's meets poison: a machine error of the command, not a failing check (R172, R179). -/
def State.badMe (s : State) (va n : Nat) : Bool := s.badSegs (s.segmentsMe va n .load)

/-- The checks of a packed source (R178); a poisoned header or bitmap says nothing (R179). -/
def State.packedFail (s : State) (va units : Nat) (scaled : Bool) : Option (Nat × Word64) :=
  match s.matAccess va 16 8 .load s.ownSource with
  | some x => some x
  | none =>
    if s.badMe va 16 then none
    else
    match packedOf (leNat (s.readMe va 8)) units scaled with
    | none => s.matrixFault 4
    | some p =>
      match s.matAccess va (16 + p.bitmap) 8 .load s.ownSource with
      | some x => some x
      | none =>
        if s.badMe (va + 16) p.bitmap then s.matAccess va (p.total units scaled) 8 .load s.ownSource
        else if popBits (leNat (s.readMe (va + 16) p.bitmap)) p.elems ≠ p.kept then s.matrixFault 4
        else s.matAccess va (p.total units scaled) 8 .load s.ownSource

/-- Bytes of a block in an image (R195). -/
def Block.imageBytes (b : Block) : Nat :=
  1536 * (match b.res with
    | none => 20
    | some t => t.width / 8)

/-- States of the blocks an image holds (R195, R196): `none` in the list for an unresolved one; none if a code is
neither. -/
def imageStates (h1 : Nat) : Nat → Option (List (Option ElemTy))
  | 0 => some []
  | n + 1 =>
    let code := h1 % 16
    let here : Option (Option ElemTy) :=
      if code = 15 then some none
      else
        match typeOfCode code with
        | some t => if resolveType t then some (some t) else none
        | none => none
    match here, imageStates (h1 / 16) n with
    | some x, some l => some (x :: l)
    | _, _ => none

/-- Bytes of a whole image. -/
def imageTotal (l : List (Option ElemTy)) : Nat :=
  32 + (l.map fun x => 1536 * (match x with | none => 20 | some t => t.width / 8)).sum

/-- Bits of a typed tile's element, packed or not: rows in layout order (R189). -/
def layoutCell (layout size nr i : Nat) : Nat × Nat :=
  let kb := 8 / size
  if layout = 1 then (i / kb % nr, i / (nr * kb) * kb + i % kb)
  else if layout = 2 then (i / (96 * kb) * kb + i % kb, i / kb % 96)
  else (i / 96, i % 96)

/-- A float result that SAT brings to ±max finite (R189). -/
def satFloat (sat : Bool) (t : ElemTy) (bits : Nat) : Nat :=
  if sat && bits == infBits t false then maxFiniteBits t false
  else if sat && bits == infBits t true then maxFiniteBits t true
  else bits

/-- One element of a typed drain (R189). Without a scale a value of the resolved type is copied bit for bit, an infinity with SAT
too: R189 says both that SAT clamps an infinity and that the bits are copied, and the copy is the model's choice (log entry
64). -/
def drainElem (mode : Rm) (ftz sat : Bool) (src t : ElemTy) (scale : Option Word32) (bits : Nat) : FpRes :=
  let num (x : Num) (f : FpFlags) : FpRes :=
    if t.isInt then
      let r := fpToInt mode t x
      (intBits t r.1, f ||| r.2)
    else
      let r := roundNum mode ftz t x
      (satFloat sat t r.1, f ||| r.2)
  match scale with
  | none =>
    if src = t then (bits, flNone)
    else if src.isInt && t.isInt then (intBits t (satInt (intOf src bits) t), flNone)
    else num (typedNum ftz src bits) flNone
  | some k =>
    let x := accProduct (typedNum ftz src bits) (numIn ftz .f32 k.toNat)
    num x.1 x.2

/-- The elements of a typed drain in layout order, with their flags. -/
def drainElems (mode : Rm) (ftz sat : Bool) (t : ElemTy) (scale : Option Word32) (layout : Nat) (bs : List Block) :
    List Nat × FpFlags :=
  let nr := 16 * bs.length
  let l := (List.range (nr * 96)).map fun i =>
    let mn := layoutCell layout (t.width / 8) nr i
    match bs[mn.1 / 16]? with
    | some b =>
      match b.res with
      | some src => drainElem mode ftz sat src t scale (fget 0 b.vals (mn.1 % 16 * 96 + mn.2)).toNat
      | none => (0, flNone)
    | none => (0, flNone)
  (l.map Prod.fst, l.foldl (fun f r => f ||| r.2) flNone)

/-- Padding to a multiple of 8. -/
def padTo8 (l : List Byte) : List Byte := l ++ List.replicate ((8 - l.length % 8) % 8) 0

/-- The bits of a list as a number, first in bit 0. -/
def bitsNat : List Bool → Nat
  | [] => 0
  | b :: t => b.toNat + 2 * bitsNat t

/-- The data of a typed tile and the NNZ of its header (R190). -/
def tileData (pack : Bool) (size : Nat) (elems : List Nat) : List Byte × Nat :=
  if pack then
    let kept := elems.filter fun v => v != 0
    (leBytes ((elems.length + 63) / 64 * 8) (bitsNat (elems.map fun v => v != 0)) ++
      padTo8 (kept.flatMap (leBytes size)), kept.length)
  else (elems.flatMap (leBytes size), 0)

/-- The checks of a command at issue against a state that the core's earlier commands have left (R172). R196 states no alignment for
`mrest`; the model holds its address to the 16 bytes of R195: DESIGN CHOICE, log entry 84. -/
def State.matFail (s : State) (cmd : MatCmd) : Option (Nat × Word64) :=
  let core := s.myCore
  match cmd with
  | .attach _ r sync =>
    let rows := (r.extractLsb 6 0).toNat
    if r >>> 10 ≠ 0 ∨ r.getLsbD 7 ∨ !(rows == 16 || rows == 32 || rows == 48 || rows == 64) ∨ core.blocks ≠ [] then
      s.matrixFault 3
    else if r.getLsbD 8 || r.getLsbD 9 then s.matAccess sync.toNat 16 16 .load s.ownSpad
    else none
  | .detach => none
  | .zero _ => if core.blocks = [] then s.matrixFault 1 else none
  | .ldb _ packed scaled src range =>
    let u := ldbUnits range
    if range >>> 15 ≠ 0 ∨ range.getLsbD 7 ∨ 128 < u.1 + u.2 ∨ (scaled ∧ (u.1 % 4 ≠ 0 ∨ u.2 % 4 ≠ 0)) then s.matrixFault 4
    else if packed then s.packedFail src.toNat u.2 scaled
    else s.matAccess src.toNat (ldbBytes u.2 scaled) 8 .load s.ownSource
  | .sign _ row _ => if 16 * core.blocks.length ≤ row.toNat then s.matrixFault 1 else none
  | .cmp _ row _ _ _ _ => if 16 * core.blocks.length ≤ row.toNat then s.matrixFault 1 else none
  | .save plane dst =>
    if core.blocks = [] then s.matrixFault 1
    else s.matAccess dst.toNat (32 + ((s.myBlocks plane core.blocks).map Block.imageBytes).sum) 16 .store anywhere
  | .rest _ src =>
    if core.blocks = [] then s.matrixFault 1
    else
      match s.matAccess src.toNat 32 16 .load anywhere with
      | some x => some x
      | none =>
        if s.badMe src.toNat 32 then none
        else
        let h0 := leNat (s.readMe src.toNat 8)
        match imageStates (leNat (s.readMe (src.toNat + 8) 8)) core.blocks.length with
        | none => s.matrixFault 6
        | some l =>
          if h0 / 2 ^ 48 ≠ 0x5A03 ∨ h0 / 2 ^ 32 % 256 ≠ 16 * core.blocks.length then s.matrixFault 6
          else s.matAccess src.toNat (imageTotal l) 16 .load anywhere
  | .acc _ plane _ src _ _ _ nblk rowb steps =>
    match core.range rowb nblk with
    | none => s.matrixFault 1
    | some ks =>
      if (s.myBlocks plane ks).any fun b => b.res.isSome then s.matrixFault 2
      else s.matAccess src.toNat (steps * 16 * (nblk + 1) * 8) 8 .load s.ownSpad
  | .resolve plane _ _ nblk rowb =>
    match core.range rowb nblk with
    | none => s.matrixFault 1
    | some ks => if (s.myBlocks plane ks).any fun b => b.res.isSome then s.matrixFault 2 else none
  | .drain plane dst scale t rm _ sat pack layout nblk rowb =>
    match core.range rowb nblk with
    | none => s.matrixFault 1
    | some ks =>
      let bs := s.myBlocks plane ks
      if bs.any fun b => b.res.isNone then s.matrixFault 2
      else
        let flat := 16 + (nblk + 1) * 1536 * (t.width / 8)
        match s.matAccess dst.toNat flat 16 .store anywhere with
        | some x => some x
        | none =>
          if pack then
            let n := 16 + (tileData true (t.width / 8)
              (drainElems (modeOf rm s.me.csr.rm) s.me.csr.ftz sat t scale layout bs).1).1.length
            if flat < n then s.matAccess dst.toNat n 16 .store anywhere else none
          else none
  | .drainRaw plane dst _ nblk rowb =>
    match core.range rowb nblk with
    | none => s.matrixFault 1
    | some ks =>
      let bs := s.myBlocks plane ks
      if (bs.any fun b => b.res.isSome) || !(bs.all fun b => some b.shift == bs.head?.map Block.shift) then
        s.matrixFault 2
      else s.matAccess dst.toNat (16 + (nblk + 1) * 1536 * 20) 16 .store anywhere
  | .drainp plane x _ nblk rowb =>
    match core.range rowb nblk with
    | none => s.matrixFault 1
    | some ks =>
      let bs := s.myBlocks plane ks
      let p := dieOfCore s.myCoreId * 32 + x.toNat % 64
      if (bs.any fun b => b.res.isSome) || !(bs.all fun b => some b.shift == bs.head?.map Block.shift) then
        s.matrixFault 2
      else if x >>> 11 ≠ 0 ∨ 32 ≤ x.toNat % 64 ∨ !(s.press p).enabled then s.matrixFault 3
      else if !(s.myCtx.cfg.presses.contains p) then some (5, x)
      else none

/-! Effects. -/

/-- A command's result: the state, and EVAL of the machine error it met (R172, R328). -/
abbrev MatRun := State × Option Word64

/-- The blocks `mattach` takes from the home block on (R173). -/
def attachFrom (s : State) (press k : Nat) (want : Nat) : Nat → Nat → List Nat
  | 0, _ => []
  | n + 1, i =>
    let b := (k + i) % 4
    let held := (List.range 4).any fun j => (s.core (coreOfPress press + j)).blocks.contains b
    let away := i != 0 && (s.core (coreOfPress press + b)).blocks != []
    if want ≤ 16 * i || held || away then [] else b :: attachFrom s press k want n (i + 1)

def State.matAttach (s : State) (rd : XReg) (r sync : Word64) : State :=
  let press := s.myPressId
  let bs := attachFrom s press (s.myCoreId % 4) (r.extractLsb 6 0).toNat 4 0
  let open_ := fun (on : Bool) => if on then BitVec.ofNat 4 (2 ^ bs.length - 1) else 0#4
  let off := match s.resolveMe sync.toNat .load with
    | .ok k => k - spadKey s.myCoreId 0
    | .error _ => 0
  let s1 := s.setMyCore { s.myCore with
    blocks := bs, b0 := BBuf.zero, b1 := BBuf.zero, win0 := open_ (r.getLsbD 8), win1 := open_ (r.getLsbD 9),
    winSync := if r.getLsbD 8 || r.getLsbD 9 then BitVec.ofNat 64 off else s.myCore.winSync }
  ((s1.zeroBlocks 0 bs).zeroBlocks 1 bs).setX rd (BitVec.ofNat 64 (16 * bs.length))

def State.matDetach (s : State) : State :=
  let c := s.myCore
  let drop := fun (t : State) (plane : Nat) => t.setBlocks plane (c.blocks.map fun k => (k, Block.zero))
  (drop (drop s 0) 1).setMyCore { c with blocks := [], win0 := 0, win1 := 0 }

def State.matZero (s : State) (plane : Nat) : State :=
  (s.zeroBlocks plane s.myCore.blocks).setMyCore (s.myCore.keepWindow plane 0)

/-- The unpacked stream of a packed source (R178). -/
def unpackFrom (size bm : Nat) : Nat → Nat → List Byte → List Byte
  | 0, _, _ => []
  | n + 1, i, vals =>
    if bm.testBit i then vals.take size ++ unpackFrom size bm n (i + 1) (vals.drop size)
    else List.replicate size 0 ++ unpackFrom size bm n (i + 1) vals

/-- The unpacked bytes of `mldb`'s source, scales last. -/
def State.ldbStream (s : State) (packed scaled : Bool) (va units : Nat) : List Byte :=
  if packed then
    match packedOf (leNat (s.readMe va 8)) units scaled with
    | none => []
    | some p =>
      let at0 := va + 16 + p.bitmap
      unpackFrom p.size (leNat (s.readMe (va + 16) p.bitmap)) p.elems 0 (s.readMe at0 (p.kept * p.size)) ++
        (if scaled then s.readMe (at0 + (p.kept * p.size + 7) / 8 * 8) (192 * (units / 4)) else [])
  else s.readMe va (ldbBytes units scaled)

/-- A buffer with a range of units filled from a stream (R176, R177); a bank word written whole is no longer poisoned (R327). -/
def BBuf.fill (b : BBuf) (u0 units : Nat) (scaled : Bool) (src : List Byte) : BBuf :=
  let inside := fun (k : Nat) => decide (u0 * 8 ≤ k % 1024) && decide (k % 1024 < (u0 + units) * 8)
  let slots := fun (k : Nat) => decide (u0 / 4 ≤ k % 32) && decide (k % 32 < (u0 + units) / 4)
  let data := (src.take (768 * units)).zipIdx.foldl (fun (m : FMap Byte) e =>
    let u := e.2 / 768
    let n := e.2 / 8 % 96
    if e.1 = 0 then m else fset 0 m (n * 1024 + (u0 + u) * 8 + e.2 % 8) e.1) (ffilter (fun k => !inside k) b.bytes)
  let sc := src.drop (768 * units)
  let scales :=
    if scaled then
      (List.range (units / 4 * 96)).foldl (fun (m : FMap (BitVec 16)) i =>
        fset 0 m (i % 96 * 32 + u0 / 4 + i / 96) (BitVec.ofNat 16 (leNat ((sc.drop (2 * i)).take 2))))
        (ffilter (fun k => !slots k) b.scales)
    else b.scales
  let whole := fun (k : Nat) => decide (u0 ≤ k % 32 * 4) && decide (k % 32 * 4 + 4 ≤ u0 + units)
  let wholeSc := fun (k : Nat) => scaled && decide (u0 / 4 ≤ k % 2 * 16) && decide (k % 2 * 16 + 16 ≤ (u0 + units) / 4)
  { bytes := data, scales := scales, bad := ffilter (fun k => !whole k) b.bad,
    badScales := ffilter (fun k => !wholeSc k) b.badScales }

/-- Whether an accumulate reads poison of a buffer (R184): bytes [first, last) of a column and, scaled, its scales [lo, hi). -/
def BBuf.badIn (b : BBuf) (scaled : Bool) (first last lo hi : Nat) : Bool :=
  b.bad.any (fun e => e.2 && decide (first < e.1 % 32 * 32 + 32) && decide (e.1 % 32 * 32 < last)) ||
    (scaled && b.badScales.any fun e => e.2 && decide (lo < e.1 % 2 * 16 + 16) && decide (e.1 % 2 * 16 < hi))

def Core.buf (c : Core) (n : Nat) : BBuf := if n = 0 then c.b0 else c.b1
def Core.setBuf (c : Core) (n : Nat) (b : BBuf) : Core := if n = 0 then { c with b0 := b } else { c with b1 := b }

/-- Bytes `mldb` reads from its address on. -/
def State.ldbRead (s : State) (packed scaled : Bool) (va units : Nat) : Nat :=
  if packed then
    match packedOf (leNat (s.readMe va 8)) units scaled with
    | some p => p.total units scaled
    | none => 16
  else ldbBytes units scaled

/-- `mldb` (R176 to R179): a poisoned source zeroes the range. -/
def State.matLdb (s : State) (buf : Nat) (packed scaled : Bool) (src range : Word64) : MatRun :=
  let u := ldbUnits range
  let va := src.toNat
  let segs := s.segmentsMe va (s.ldbRead packed scaled va u.2) .load
  let s1 := s.touchSegs segs
  let c := s1.myCore
  match s1.poisonedSegs segs 0 with
  | some off =>
    (s1.setMyCore (c.setBuf buf ((c.buf buf).fill u.1 u.2 scaled [])), some (BitVec.ofNat 64 (va + off)))
  | none => (s1.setMyCore (c.setBuf buf ((c.buf buf).fill u.1 u.2 scaled (s1.ldbStream packed scaled va u.2))), none)

/-- K elements per step (R181). -/
def accKb (ta : ElemTy) : Nat := if ta = .t2 then 32 else if ta.width = 16 then 4 else 8

/-- Element k of row m of the A panel (R182). -/
def accA (ftz : Bool) (ta : ElemTy) (nr : Nat) (a : Array Byte) (m k : Nat) : Num × FpFlags :=
  let kb := accKb ta
  let base := (k / kb * nr + m) * 8
  if ta = .t2 then
    let v := t2Value ((a.getD (base + k % kb / 4) 0).toNat / 4 ^ (k % 4))
    (numOfInt v.1, v.2)
  else
    let sz := ta.width / 8
    let o := base + k % kb * sz
    (typedNum ftz ta ((a.getD o 0).toNat + (if sz = 2 then (a.getD (o + 1) 0).toNat * 256 else 0)), flNone)

/-- The bytes of column n of a buffer, and its scales. -/
def BBuf.col (b : BBuf) (n : Nat) : FMap Byte :=
  b.bytes.filterMap fun e => if e.1 / 1024 = n then some (e.1 % 1024, e.2) else none

def BBuf.colScales (b : BBuf) (n : Nat) : FMap (BitVec 16) :=
  b.scales.filterMap fun e => if e.1 / 32 = n then some (e.1 % 32, e.2) else none

/-- Element at K index i of a column. -/
def accB (ftz : Bool) (tb : ElemTy) (c : FMap Byte) (i : Nat) : Num :=
  let sz := tb.width / 8
  typedNum ftz tb ((fget 0 c (i * sz)).toNat + (if sz = 2 then (fget 0 c (i * sz + 1)).toNat * 256 else 0))

/-- `ScaleA` (R183). -/
def scaleA (ftz : Bool) (v : VRegister) (i : Nat) : Num :=
  let w := (v.row (i / 2) 0).toNat
  numIn ftz .bf16 (if i % 2 = 0 then w % 65536 else w / 65536)

/-- One row of A operands: effective values and flags. -/
def accRow (scaled ftz : Bool) (ta : ElemTy) (nr depth : Nat) (a : Array Byte) (v31 : VRegister) (m : Nat) :
    List (Num × FpFlags) :=
  (List.range depth).map fun k =>
    let x := accA ftz ta nr a m k
    if scaled then
      let y := scaledValue (scaleA ftz v31 (m * (depth / 32) + k / 32)) x.1
      (y.1, x.2 ||| y.2)
    else x

/-- One column of B operands. -/
def accCol (scaled ftz : Bool) (tb : ElemTy) (depth first : Nat) (b : BBuf) (n : Nat) : List (Num × FpFlags) :=
  let c := b.col n
  let sc := b.colScales n
  (List.range depth).map fun k =>
    let x := accB ftz tb c (first + k)
    if scaled then scaledValue (numIn ftz .bf16 (fget 0 sc ((first + k) / 32)).toNat) x else (x, flNone)

/-- The incoming values of a cell and the flags of forming them (R42). -/
def accInputs : List (Num × FpFlags) → List (Num × FpFlags) → List Num × FpFlags
  | x :: t, y :: u =>
    let p := accProduct x.1 y.1
    let r := accInputs t u
    (p.1 :: r.1, x.2 ||| y.2 ||| p.2 ||| r.2)
  | _, _ => ([], flNone)

/-- The cells of a block after an accumulate: new cells, INX, OVF and NV, and the operands' flags. -/
def accBlock (b : Block) (no : Nat) (rows : List (List (Num × FpFlags))) (cols : List (List (Num × FpFlags))) :
    Block × AddFlags × FpFlags :=
  let rs := rows.toArray
  let cs := cols.toArray
  let l := (List.range 1536).map fun i =>
    let x := accInputs (rs.getD (i / 96) []) (cs.getD (i % 96) [])
    let r := accCell b.shift.toInt (no + i) (fget (.fin 0) b.cells i) x.1
    (i, r.1, r.2, x.2)
  ({ b with cells := l.filterMap fun e => if e.2.1 = .fin 0 then none else some (e.1, e.2.1) },
    l.foldl (fun f e => f.or e.2.2.1) AddFlags.none, l.foldl (fun f e => f ||| e.2.2.2) flNone)

/-- A block of NaN markers (R184). -/
def Block.allNan (b : Block) : Block := { b with cells := (List.range 1536).map fun i => (i, .nan), bad := [] }

/-- Bytes of B a column gives a step (R181). -/
def accBytes (tb : ElemTy) (ta : ElemTy) : Nat := accKb ta * (tb.width / 8)

/-- `mmacc` and `msmacc` (R180 to R184). -/
def State.matAcc (s : State) (scaled : Bool) (plane buf : Nat) (src : Word64) (ta tb : ElemTy)
    (boff nblk rowb steps : Nat) : MatRun :=
  let h := s.me
  let ks := (s.myCore.range rowb nblk).getD []
  let bs := s.myBlocks plane ks
  let nr := 16 * (nblk + 1)
  let depth := steps * accKb ta
  let segs := s.segmentsMe src.toNat (steps * nr * 8) .load
  let s1 := s.touchSegs segs
  let v31 := h.getV 31
  let b := s1.myCore.buf buf
  let badA := s1.poisonedSegs segs 0
  let badB := b.badIn scaled (boff * accBytes tb ta) ((boff + steps) * accBytes tb ta) (boff * accKb ta / 32)
    ((boff + steps) * accKb ta / 32)
  let badS := scaled && (List.range ((nr * (depth / 32) + 1) / 2)).any fun e => v31.badRow e 0
  if badA.isSome || badB || badS || bs.any Block.anyBad then
    (s1.setBlocks plane (ks.zip (bs.map Block.allNan)),
      some (match badA with | some off => src + BitVec.ofNat 64 off | none => 0))
  else
    let a := (s1.readSegs segs).toArray
    let first := boff * accKb ta
    let cols := (List.range 96).map (accCol scaled h.csr.ftz tb depth first b)
    let res := (ks.zip bs).zipIdx.map fun e =>
      let rows := (List.range 16).map fun m => accRow scaled h.csr.ftz ta nr depth a v31 (16 * e.2 + m)
      (e.1.1, accBlock e.1.2 (s1.freeNo + 1536 * e.2) rows cols)
    let fx := res.foldl (fun f e => f.or e.2.2.1) AddFlags.none
    let fl := res.foldl (fun f e => f ||| e.2.2.2) (if fx.nv then flNV else flNone)
    let s2 := s1.setBlocks plane (res.map fun e => (e.1, e.2.1))
    (({ s2.setMyCore (s2.myCore.sticky plane fx.inx fx.ovf) with freeNo := s2.freeNo + 1536 * (nblk + 1) }).addFlags fl,
      none)

/-- Negative and uncertain bits of a cell (R185). -/
def signBits (b : Block) (i : Nat) : Bool × Bool :=
  match b.res with
  | some t =>
    let bits := (fget 0 b.vals i).toNat
    if t.isInt then (decide (intOf t bits < 0), false)
    else
      match numOf t bits with
      | .nan _ => (false, true)
      | x => (x.isNeg, false)
  | none =>
    match fget (.fin 0) b.cells i with
    | .fin v => (decide (v.toInt < -(2 ^ 49)), decide (-(2 ^ 49) ≤ v.toInt) && decide (v.toInt < 2 ^ 49))
    | .pinf => (false, false)
    | .ninf => (true, false)
    | .nan => (false, true)

/-- The block and the first cell of a logical row. -/
def State.rowCells (s : State) (plane : Nat) (row : Nat) : Block × Nat :=
  (s.myPress.blk plane (s.myCore.blocks.getD (row / 16) 0), row % 16 * 96)

def State.matSign (s : State) (pd : PReg) (row : Word64) (plane : Nat) : MatRun :=
  let r := s.rowCells plane row.toNat
  if r.1.rowBad (r.2 / 96) then (s, some 0)
  else
    let l := (List.range 96).map fun n => signBits r.1 (r.2 + n)
    let h := s.me
    let h1 := h.setP pd (BitVec.ofNat 256 (bitsNat (l.map Prod.fst)))
    (s.setMe (h1.setP (pd + 1) (BitVec.ofNat 256 (bitsNat (l.map Prod.snd)))), none)

/-- One cell against the threshold (R186): NV for any NaN with an ordering, for a signalling threshold otherwise. -/
def cellCmp (x : Cond) (c thr : Num) : Bool × FpFlags :=
  let r := fpCmp x c thr
  match x with
  | .lt | .le | .gt | .ge => r
  | .eq | .ne | .un => (r.1, sigFlags [thr])

def State.matCmp (s : State) (pd : PReg) (row thr : Word64) (t : ElemTy) (x : Cond) (plane : Nat) : MatRun :=
  let r := s.rowCells plane row.toNat
  if r.1.rowBad (r.2 / 96) then (s, some 0)
  else
    let ftz := s.me.csr.ftz
    let k := typedNum ftz t (lowBits t thr)
    let l := (List.range 96).map fun n => cellCmp x (r.1.num ftz (r.2 + n)) k
    let s1 := s.setMe (s.me.setP pd (BitVec.ofNat 256 (bitsNat (l.map Prod.fst))))
    (s1.addFlags (l.foldl (fun f e => f ||| e.2) flNone), none)

/-- A block resolved to a type (R187), and the flags. -/
def Block.resolve (b : Block) (mode : Rm) (ftz : Bool) (t : ElemTy) : Block × FpFlags :=
  let l := (List.range 1536).map fun i => (i, resolveCell mode ftz t b.shift.toInt (fget (.fin 0) b.cells i))
  ({ b with
      res := some t, cells := [],
      vals := l.filterMap fun e => if e.2.1 = 0 then none else some (e.1, BitVec.ofNat 32 e.2.1) },
    l.foldl (fun f e => f ||| e.2.2) flNone)

def State.matResolve (s : State) (plane : Nat) (t : ElemTy) (rm : Rm) (nblk rowb : Nat) : MatRun :=
  let ks := (s.myCore.range rowb nblk).getD []
  let bs := s.myBlocks plane ks
  let s1 := s.setMyCore (s.myCore.keepWindow plane (outsideRange rowb nblk))
  if bs.any Block.anyBad then (s1, some 0)
  else
    let r := bs.map fun b => b.resolve (modeOf rm s.me.csr.rm) s.me.csr.ftz t
    ((s1.setBlocks plane (ks.zip (r.map Prod.fst))).addFlags (r.foldl (fun f e => f ||| e.2) flNone), none)

/-- Bytes of a tile that a machine error left written: which ones is not fixed. -/
def State.storeSome (s : State) (segs : List (Nat × Nat)) (bs : List Byte) : State :=
  let keys := segs.flatMap fun g => (List.range g.2).map fun i => g.1 + i
  let t := (keys.zip bs).zipIdx.foldl (fun (u : State) e =>
    if Config.freeChoice s.freeNo e.2 then u.storeAt e.1.1 [e.1.2] else u) s
  t.bumpFree

/-- A tile written as R191 says: H0 with TAG 0, data, H1, the final H0. A machine error leaves it with TAG 0. -/
def State.writeTile (s : State) (va h0 : Nat) (rest : List Byte) (error : Bool) : State :=
  let segs := s.segmentsMe va (8 + rest.length) .store
  let first := s.segmentsMe va 8 .store
  let s1 := (s.watchSegs true false segs 0).1
  let s2 := s1.storeSegs first (leBytes 8 (h0 % 2 ^ 48))
  if error then s2.storeSome (s2.segmentsMe (va + 16) (rest.length - 8) .store) (rest.drop 8)
  else (s2.storeSegs segs (leBytes 8 (h0 % 2 ^ 48) ++ rest)).storeSegs first (leBytes 8 h0)

/-- The 20 bytes of a cell in a raw image (R40, R189): the split of a finite value is not fixed. A NaN marker is written with
the code 0b00; R40 gives NaN the code 0b11 too, and which of them an engine writes is the model's choice (log entry 65). -/
def cellImage (no : Nat) (c : Cell) : List Byte :=
  match c with
  | .fin v =>
    let carry := Config.rawCarry no &&& ~~~ 1#80
    leBytes 10 (v - carry).toNat ++ leBytes 10 carry.toNat
  | .nan => leBytes 10 0 ++ leBytes 10 1
  | .pinf => leBytes 10 1 ++ leBytes 10 1
  | .ninf => leBytes 10 2 ++ leBytes 10 1

/-- A cell from its image (R40). -/
def cellOf (img : Nat) : Cell :=
  let sum := img % 2 ^ 80
  let carry := img / 2 ^ 80
  if carry % 2 = 0 then .fin (BitVec.ofNat 80 (sum + carry))
  else if sum % 4 = 1 then .pinf
  else if sum % 4 = 2 then .ninf
  else .nan

/-- The bytes of a block in an image (R195). -/
def Block.image (b : Block) (no : Nat) : List Byte :=
  (List.range 1536).flatMap fun i =>
    match b.res with
    | none => cellImage (no + i) (fget (.fin 0) b.cells i)
    | some t => leBytes (t.width / 8) (fget 0 b.vals i).toNat

/-- After a drain: rows zeroed with CLR. -/
def State.drainClear (s : State) (clr : Bool) (plane : Nat) (ks : List Nat) : State :=
  if clr then s.zeroBlocks plane ks else s

def State.matDrain (s : State) (plane : Nat) (dst : Word64) (scale : Option Word32) (t : ElemTy) (rm : Rm)
    (clr sat pack : Bool) (layout nblk rowb : Nat) : MatRun :=
  let ks := (s.myCore.range rowb nblk).getD []
  let bs := s.myBlocks plane ks
  let nr := 16 * (nblk + 1)
  let r := drainElems (modeOf rm s.me.csr.rm) s.me.csr.ftz sat t scale layout bs
  let d := tileData pack (t.width / 8) r.1
  let h0 := 0x5A01 * 2 ^ 48 + t.toCode.toNat * 2 ^ 44 + layout * 2 ^ 42 + pack.toNat * 2 ^ 41 + nr * 2 ^ 32 + d.2
  let s1 := s.setMyCore (s.myCore.keepWindow plane (outsideRange rowb nblk))
  let bad := bs.any Block.anyBad
  let s2 := s1.writeTile dst.toNat h0 (leBytes 8 0 ++ d.1) bad
  if bad then (s2, some 0) else ((s2.drainClear clr plane ks).addFlags r.2, none)

def State.matDrainRaw (s : State) (plane : Nat) (dst : Word64) (clr : Bool) (nblk rowb : Nat) : MatRun :=
  let ks := (s.myCore.range rowb nblk).getD []
  let bs := s.myBlocks plane ks
  let nr := 16 * (nblk + 1)
  let shift := ((bs.head?.map Block.shift).getD 0).toNat
  let data := bs.zipIdx.flatMap fun e => e.1.image (s.freeNo + 1536 * e.2)
  let s1 := s.setMyCore (s.myCore.keepWindow plane (outsideRange rowb nblk))
  let bad := bs.any Block.anyBad
  let s2 := s1.writeTile dst.toNat (0x5A02 * 2 ^ 48 + nr * 2 ^ 32)
    (leBytes 8 (shift + s.myCore.stickyBits plane * 256) ++ data) bad
  let s3 := { s2 with freeNo := s2.freeNo + 1536 * (nblk + 1) }
  if bad then (s3, some 0) else (s3.drainClear clr plane ks, none)

/-- The header words of an image after H0: states, SHIFT latches, sticky bits with the flags of a resolve at a switch
(R195, R311). -/
def imageHeader (bs : List Block) (sticky flags : Nat) : List Byte :=
  let nib := bs.zipIdx.map fun e =>
    (match e.1.res with | none => 15 | some t => t.toCode.toNat) * 16 ^ e.2
  let sh := bs.zipIdx.map fun e => e.1.shift.toNat * 256 ^ e.2
  leBytes 8 nib.sum ++ leBytes 8 sh.sum ++ leBytes 8 (sticky + flags * 4)

/-- `msave` (R195). -/
def State.matSave (s : State) (plane : Nat) (dst : Word64) : MatRun :=
  let c := s.myCore
  let bs := s.myBlocks plane c.blocks
  let data := bs.zipIdx.flatMap fun e => e.1.image (s.freeNo + 1536 * e.2)
  let bad := bs.any Block.anyBad
  let s1 := s.writeTile dst.toNat (0x5A03 * 2 ^ 48 + 16 * bs.length * 2 ^ 32)
    (imageHeader bs (c.stickyBits plane) 0 ++ data) bad
  ({ s1 with freeNo := s1.freeNo + 1536 * bs.length }, if bad then some 0 else none)

/-- A block from an image's bytes. -/
def blockOf (shift : BitVec 8) (t : Option ElemTy) (bytes : List Byte) : Block :=
  let a := bytes.toArray
  match t with
  | none =>
    { Block.zero with
      shift := shift,
      cells := (List.range 1536).filterMap fun i =>
        let c := cellOf (leNat ((List.range 20).map fun j => a.getD (i * 20 + j) 0))
        if c = .fin 0 then none else some (i, c) }
  | some ty =>
    let n := ty.width / 8
    { Block.zero with
      shift := shift, res := some ty,
      vals := (List.range 1536).filterMap fun i =>
        let v := leNat ((List.range n).map fun j => a.getD (i * n + j) 0)
        if v = 0 then none else some (i, BitVec.ofNat 32 v) }

/-- The blocks of an image in logical order. -/
def blocksOf (h2 : Nat) : List (Option ElemTy) → List Byte → List Block
  | [], _ => []
  | t :: l, bytes =>
    let n := 1536 * (match t with | none => 20 | some ty => ty.width / 8)
    blockOf (BitVec.ofNat 8 h2) t (bytes.take n) :: blocksOf (h2 / 256) l (bytes.drop n)

/-- `mrest` (R196): a poisoned image changes nothing. -/
def State.matRest (s : State) (plane : Nat) (src : Word64) : MatRun :=
  let c := s.myCore
  let va := src.toNat
  let l := (imageStates (leNat (s.readMe (va + 8) 8)) c.blocks.length).getD []
  let segs := s.segmentsMe va (imageTotal l) .load
  let s1 := s.touchSegs segs
  match s1.poisonedSegs segs 0 with
  | some off => (s1, some (src + BitVec.ofNat 64 off))
  | none =>
    let h3 := leNat (s1.readMe (va + 24) 8)
    let bs := blocksOf (leNat (s1.readMe (va + 16) 8)) l ((s1.readSegs segs).drop 32)
    let s2 := s1.setBlocks plane (c.blocks.zip bs)
    (s2.setMyCore ((s2.myCore.keepWindow plane 0).sticky plane (h3 % 2 == 1) (h3 / 2 % 2 == 1)), none)

/-- A command's effect on the acting hart's press, core and registers; of `mdrainp` what its acceptance leaves at the sender. -/
def State.matRun (s : State) (cmd : MatCmd) : MatRun :=
  match cmd with
  | .attach rd r sync => (s.matAttach rd r sync, none)
  | .detach => (s.matDetach, none)
  | .zero plane => (s.matZero plane, none)
  | .ldb buf packed scaled src range => s.matLdb buf packed scaled src range
  | .sign pd row plane => s.matSign pd row plane
  | .save plane dst => s.matSave plane dst
  | .rest plane src => s.matRest plane src
  | .acc scaled plane buf src ta tb boff nblk rowb steps => s.matAcc scaled plane buf src ta tb boff nblk rowb steps
  | .resolve plane t rm nblk rowb => s.matResolve plane t rm nblk rowb
  | .cmp pd row thr t x plane => s.matCmp pd row thr t x plane
  | .drain plane dst scale t rm clr sat pack layout nblk rowb =>
    s.matDrain plane dst scale t rm clr sat pack layout nblk rowb
  | .drainRaw plane dst clr nblk rowb => s.matDrainRaw plane dst clr nblk rowb
  | .drainp plane _ clr nblk rowb =>
    let ks := (s.myCore.range rowb nblk).getD []
    if (s.myBlocks plane ks).any Block.anyBad then (s, some 0) else (s.drainClear clr plane ks, none)

/-- Accesses of the vector agent that a watchpoint can refuse (R238, R373), as the bank performs them: those of `mldb`, `mrest`,
`mmacc`, `msmacc` and `msave`. A drain is never refused. -/
def State.matWatch (s : State) (cmd : MatCmd) : State × Option Word64 :=
  let look := fun (write : Bool) (va : Word64) (n : Nat) =>
    let w := s.watchSegs write true (s.segmentsMe va.toNat n (if write then .store else .load)) 0
    (w.1, w.2.map fun off => va + BitVec.ofNat 64 off)
  match cmd with
  | .ldb _ packed scaled src range => look false src (s.ldbRead packed scaled src.toNat (ldbUnits range).2)
  | .rest _ src =>
    look false src (imageTotal ((imageStates (leNat (s.readMe (src.toNat + 8) 8)) s.myCore.blocks.length).getD []))
  | .acc _ _ _ src _ _ _ nblk _ steps => look false src (steps * 16 * (nblk + 1) * 8)
  | .save plane dst => look true dst (32 + ((s.myBlocks plane s.myCore.blocks).map Block.imageBytes).sum)
  | _ => (s, none)

/-- A command that no watchpoint refuses: `mdrainp` sends its tile and waits (R194), any other has its effect and retires; a machine
error stops the hart with a supervisor (R172). -/
def State.matGo (s : State) (cmd : MatCmd) : State :=
  match cmd with
  | .drainp plane x clr nblk rowb =>
    if (s.myBlocks plane ((s.myCore.range rowb nblk).getD [])).any Block.anyBad then s.trapV 10 0 0
    else s.beginWait (.tile x plane nblk rowb clr)
  | c =>
    match s.matRun c with
    | (s1, none) => s1.retire
    | (s1, some ev) => s1.trapV 10 ev 0

/-- A command starts: the watchpoints, then its effect. -/
def State.matStart (s : State) (cmd : MatCmd) : State :=
  match s.matWatch cmd with
  | (s1, some a) => s1.trapV 12 a 0
  | (s1, none) => s1.matGo cmd

/-- Whether a command of a core must wait in the queue: earlier ones wait, the queue is stalled by a self-test (R329), or
a tile of the core is on its way (R171, R194). -/
def State.matrixBusy (s : State) (core : Nat) : Bool :=
  (s.core core).mq != [] || (s.press (pressOfCore core)).stallMatrix ||
    (hartsOf core).any fun k => match (s.hart k).wait with
      | .tile _ _ _ _ _ => true
      | _ => false

/-- The state that the tiles of a core on their way leave at the sender once they are accepted. -/
def State.afterTiles (s : State) : State :=
  (hartsOf s.myCoreId).foldl (fun t k => match (t.hart k).wait with
    | .tile x plane nblk rowb clr => t.atHart k fun u => (u.matRun (.drainp plane x clr nblk rowb)).1
    | _ => t) s

/-- The state that earlier commands of the acting hart's core leave (R172): tiles on their way, then the queue. -/
def State.afterQueue (s : State) : State :=
  s.myCore.mq.foldl (fun t e => t.atHart e.1 fun u => (u.matRun e.2).1) s.afterTiles

/-- Whether the checks of a command turn on what becomes of an earlier `mdrainp.clr` of the core that is on its way or queued: a raw
transfer, whose SHIFT latches it changes only where it is accepted (R172, R194). -/
def State.matUnsure (s : State) (cmd : MatCmd) : Bool :=
  (match cmd with | .drainRaw _ _ _ _ _ | .drainp _ _ _ _ _ => true | _ => false) &&
    ((s.myCore.mq.any fun e => match e.2 with | .drainp _ _ clr _ _ => clr | _ => false) ||
      (hartsOf s.myCoreId).any fun k => match (s.hart k).wait with | .tile _ _ _ _ clr => clr | _ => false)

/-- A matrix instruction (R171, R172): checked at issue, then started or queued. One whose checks turn on a tile still under way waits
at issue: it stays at its address and nothing changes (log entry 24). -/
def State.matrix (s : State) (cmd : MatCmd) : Host.Outcome State Fault Refusal :=
  if s.matUnsure cmd then .next s
  else
    match s.afterQueue.matFail cmd with
    | some (c, ev) => .next (s.trapV c ev 0)
    | none =>
      if s.matrixBusy s.myCoreId then
        let c := s.myCore
        .next ((s.setMyCore { c with mq := c.mq ++ [(s.cur, cmd)] }).beginWait .matrix)
      else .next (s.matStart cmd)

/-! Instructions. -/

/-- `mattach` (R173). -/
def execMattach (a b c : XReg) (s : State) : Host.Outcome State Fault Refusal := s.matrix (.attach a (s.x b) (s.x c))

/-- `mdetach` (R174). -/
def execMdetach (s : State) : Host.Outcome State Fault Refusal := s.matrix .detach

/-- `mzero` (R175). -/
def execMzero (n : BitVec 1) (s : State) : Host.Outcome State Fault Refusal := s.matrix (.zero n.toNat)

/-- `mldb` (R176 to R179). -/
def execMldb (n k z : BitVec 1) (b c : XReg) (s : State) : Host.Outcome State Fault Refusal :=
  s.matrix (.ldb n.toNat (k != 0) (z != 0) (s.x b) (s.x c))

/-- `msign` (R185). -/
def execMsign (a : PReg) (b : XReg) (n : BitVec 1) (s : State) : Host.Outcome State Fault Refusal :=
  s.matrix (.sign a (s.x b) n.toNat)

/-- `msave` (R195). -/
def execMsave (n : BitVec 1) (b : XReg) (s : State) : Host.Outcome State Fault Refusal :=
  s.matrix (.save n.toNat (s.x b))

/-- `mrest` (R196). -/
def execMrest (n : BitVec 1) (b : XReg) (s : State) : Host.Outcome State Fault Refusal :=
  s.matrix (.rest n.toNat (s.x b))

/-- `mmacc` (R180 to R184). -/
def execMmacc (n k : BitVec 1) (b : XReg) (t tb : ElemTy) (boff : BitVec 7) (nblk rowb : BitVec 2) (steps : BitVec 7)
    (s : State) : Host.Outcome State Fault Refusal :=
  s.matrix (.acc false n.toNat k.toNat (s.x b) t tb boff.toNat nblk.toNat rowb.toNat (steps.toNat + 1))

/-- `msmacc` (R180 to R184). -/
def execMsmacc (n k : BitVec 1) (b : XReg) (t tb : ElemTy) (boff : BitVec 7) (nblk rowb : BitVec 2) (steps : BitVec 7)
    (s : State) : Host.Outcome State Fault Refusal :=
  s.matrix (.acc true n.toNat k.toNat (s.x b) t tb boff.toNat nblk.toNat rowb.toNat (steps.toNat + 1))

/-- `mresolve` (R187). -/
def execMresolve (n : BitVec 1) (t : ElemTy) (rm : Rm) (nblk rowb : BitVec 2) (s : State) :
    Host.Outcome State Fault Refusal :=
  s.matrix (.resolve n.toNat t rm nblk.toNat rowb.toNat)

/-- `mcmp` (R186). -/
def execMcmp (a : PReg) (b c : XReg) (t : ElemTy) (x : Cond) (n : BitVec 1) (s : State) :
    Host.Outcome State Fault Refusal :=
  s.matrix (.cmp a (s.x b) (s.x c) t x n.toNat)

/-- `mdrain` (R188 to R191): C = 0 means no scale. -/
def execMdrain (n : BitVec 1) (b c : XReg) (t : ElemTy) (rm : Rm) (clr sat pack : Bool) (layout nblk rowb : BitVec 2)
    (s : State) : Host.Outcome State Fault Refusal :=
  s.matrix (.drain n.toNat (s.x b) (if c = 0 then none else some ((s.x c).setWidth 32)) t rm clr sat pack layout.toNat
    nblk.toNat rowb.toNat)

/-- `mdrain.raw` (R188 to R191). -/
def execMdrainRaw (n : BitVec 1) (b : XReg) (clr : Bool) (nblk rowb : BitVec 2) (s : State) :
    Host.Outcome State Fault Refusal :=
  s.matrix (.drainRaw n.toNat (s.x b) clr nblk.toNat rowb.toNat)

/-- `mdrainp` (R194). -/
def execMdrainp (n : BitVec 1) (b : XReg) (clr : Bool) (nblk rowb : BitVec 2) (s : State) :
    Host.Outcome State Fault Refusal :=
  s.matrix (.drainp n.toNat (s.x b) clr nblk.toNat rowb.toNat)

/-- MATRIX_COMMAND_START (R171): the oldest queued command of a core starts once nothing holds it. -/
def State.matrixNext (s : State) (core : Nat) : State :=
  let c := s.core core
  match c.mq with
  | [] => s
  | (h, cmd) :: t =>
    let s1 := s.setCore core { c with mq := t }
    let held := (s.press (pressOfCore core)).stallMatrix || (hartsOf core).any fun k => match (s.hart k).wait with
      | .tile _ _ _ _ _ => true
      | _ => false
    if held then s else s1.atHart h fun u => u.matStart cmd

def execMatrixCommandStart (core : Nat) (s : State) : Host.Outcome State Fault Refusal := .next (s.matrixNext core)

/-! Tiles sent to a peer (R192 to R194). -/

/-- Whether the receiver refuses a tile of `n` blocks with a SHIFT latch for a context (R193). -/
def State.tileRefused (s : State) (press core plane tblk n : Nat) (shift : BitVec 8) (ctx : Nat) : Bool :=
  let c := s.core core
  (List.range n).any (fun j =>
    let b := (s.press press).blk plane (c.blocks.getD (tblk + j) 0)
    !(c.window plane).getLsbD (tblk + j) || decide (c.blocks.length ≤ tblk + j) || b.res.isSome || b.shift != shift) ||
    (s.press press).resident != some ctx

/-- The cells of a receiving block after a tile's cells have been added (R42, R193). -/
def addTile (dst src : Block) : Block × AddFlags :=
  let l := (List.range 1536).map fun i => (i, addCell dst.shift.toInt (fget (.fin 0) dst.cells i) (src.num false i))
  ({ dst with cells := l.filterMap fun e => if e.2.1 = .fin 0 then none else some (e.1, e.2.1) },
    l.foldl (fun f e => f.or e.2.2) AddFlags.none)

/-- TILE_ARRIVAL (R193, R194): the acting hart's tile is refused for an error on the fabric, which goes to a supervisor core, is
refused by the receiver with reason 5, or is added, credited and retired. -/
def State.tileArrives (s : State) : State :=
  match s.me.wait with
  | .tile x plane nblk rowb clr =>
    if s.me.flit then s.flitOver.trapV 10 0 0
    else
      let ks := (s.myCore.range rowb nblk).getD []
      let src := s.myBlocks plane ks
      let press := dieOfCore s.myCoreId * 32 + x.toNat % 64
      let core := coreOfPress press + (x.extractLsb 7 6).toNat
      let tp := (x.extractLsb 8 8).toNat
      let tblk := (x.extractLsb 10 9).toNat
      let shift := (src.head?.map Block.shift).getD 0
      if s.tileRefused press core tp tblk (nblk + 1) shift s.myCtxId then s.trapV 1 (illegalEval s.me.ir 2 5) 0
      else
        let dst := (List.range (nblk + 1)).map fun j => (s.core core).blocks.getD (tblk + j) 0
        let r := (dst.zip src).map fun e => (e.1, addTile ((s.press press).blk tp e.1) e.2)
        let s1 := r.foldl (fun t e => t.setBlk press tp e.1 e.2.1) s
        let fx := r.foldl (fun f e => f.or e.2.2) AddFlags.none
        let s2 := s1.setCore core ((s1.core core).sticky tp false fx.ovf)
        let s3 := s2.arrive (spadKey core (s2.core core).winSync.toNat) ((nblk + 1) * 1536 * 20)
        ((s3.drainClear clr plane ks).addFlags (if fx.nv then flNV else flNone)).retire
  | _ => s

def execTileArrival (hart : Nat) (s : State) : Host.Outcome State Fault Refusal :=
  .next (s.atHart hart State.tileArrives)

end Sys2Proof.Machine
end

