-- ==== Sys2Proof/Machine/Engine.lean ====
section
/-!
DEFINITION. The copy and decoder engines (R224 to R236): pushes, the range checker, copies, gathers, decodes, completion
records and their pops. A command's writes are performed bank word by bank word at its completion, a decode's chunk by chunk, but for
bank words that the agenda has written before (R233; log entry 25).
-/
namespace Sys2Proof.Machine

/-! Engines of a core. -/

def Core.eng (c : Core) (n : Nat) : Engine := if n = 0 then c.eng0 else c.eng1
def Core.setEng (c : Core) (n : Nat) (e : Engine) : Core := if n = 0 then { c with eng0 := e } else { c with eng1 := e }

def State.setEng (s : State) (core n : Nat) (e : Engine) : State := s.setCore core ((s.core core).setEng n e)

def Hart.out (h : Hart) (n : Nat) : List CompletionRec := if n = 0 then h.out0 else h.out1
def Hart.setOut (h : Hart) (n : Nat) (l : List CompletionRec) : Hart :=
  if n = 0 then { h with out0 := l } else { h with out1 := l }

/-- Whether the engines of a core are frozen (R372, R375). -/
def State.engFrozen (s : State) (core : Nat) : Bool :=
  (s.core core).frzeng && (hartsOf core).any fun k => (s.hart k).csr.halt

/-! Pushes (R225 to R227). -/

/-- A descriptor as a command (R225). -/
def cmdOf (hart : Nat) (d0 dst src d3 : Word64) : Cmd :=
  { seq := 0, hart := hart, kind := d0.extractLsb 7 0, len := d0.extractLsb 63 32, tag := d0.extractLsb 31 16,
    ord := d0.getLsbD 10, trapf := d0.getLsbD 9, norec := d0.getLsbD 8, dst := dst, src := src,
    rszm1 := (d3.extractLsb 63 52).toNat, idxoff := (d3.extractLsb 51 32).toNat, dstmax := (d3.extractLsb 63 32).toNat,
    syncen := d3.getLsbD 16, syncoff := (d3.extractLsb 15 0).toNat * 16, order := 0 }

/-- Bits [63:48] of an address equal bit 47. -/
def canonical (a : Word64) : Bool := a == (a.extractLsb 47 0).signExtend 64

/-- Reason of a format fault (R226 step 2): `kinds` are those the mnemonic accepts. Of several that hold the lowest is reported, which
R226 does not say: DESIGN CHOICE, log entry 83. -/
def formatFault (kinds : List Nat) (d0 dst src d3 : Word64) : Option Nat :=
  let k := (d0.extractLsb 7 0).toNat
  if !kinds.contains k then some 1
  else if d0.extractLsb 15 11 ≠ 0 ∨ d3.extractLsb 31 17 ≠ 0 ∨ (k = 0 ∧ d3.extractLsb 63 32 ≠ 0) then some 2
  else if !canonical dst || !canonical src then some 3
  else if k = 1 ∧ (d3.extractLsb 51 32).toNat % 4 ≠ 0 then some 4
  else none

/-- First byte offset at or beyond `.spad` of the sync word or index list (R226 step 3); where both run beyond it, that of the sync
word: DESIGN CHOICE, log entry 83. -/
def spadFault (spad : Nat) (c : Cmd) : Option Nat :=
  if c.syncen ∧ spad < c.syncoff + 16 then some (max c.syncoff spad)
  else if c.kind = 1 ∧ c.len ≠ 0 ∧ spad < c.idxoff + 4 * c.len.toNat then some (max c.idxoff spad)
  else none

def inCellarWindow (a : Nat) : Bool := decide (0x7F0100000000 ≤ a) && decide (a < 0x7F0140000000)

/-- Engine of a kind. -/
def Cmd.eng (c : Cmd) : Nat := if c.kind = 2 then 1 else 0

/-- The acting hart's command enters its engine's FIFO and xd receives its SEQ (R227). -/
def State.enqueueCmd (s : State) (c : Cmd) (rd : XReg) : State :=
  let e := s.myCore.eng c.eng
  let s1 := s.setEng s.myCoreId c.eng
    { e with fifo := e.fifo ++ [{ c with seq := e.seq, order := s.seqNo }], seq := e.seq + 1 }
  { s1 with seqNo := s1.seqNo + 1 }.retireX rd (e.seq.setWidth 64)

/-- A push (R226, R227). -/
def State.push (s : State) (kinds : List Nat) (rd rb : XReg) : Host.Outcome State Fault Refusal :=
  match s.access (s.x rb).toNat 32 32 .load true false true with
  | .bad s1 c ev => .next (s1.trap c ev)
  | .ok s1 key =>
    let dw := fun i => BitVec.ofNat 64 (s1.readLe (key + 8 * i) 8)
    let c := cmdOf s1.cur (dw 0) (dw 1) (dw 2) (dw 3)
    match formatFault kinds (dw 0) (dw 1) (dw 2) (dw 3) with
    | some r => .next (s1.illegalR 3 r)
    | none =>
      match spadFault s1.me.header.spad c with
      | some off => .next (s1.trap 2 (overrunEval 7 off))
      | none =>
        if inCellarWindow c.dst.toNat then .next (s1.trap 16 c.dst)
        else if 16 ≤ (s1.myCore.eng c.eng).fifo.length then .next (s1.beginWait (.enginePush c.eng c rd))
        else .next (s1.enqueueCmd c rd)

/-- `cp.copy` (R224, R226). -/
def execCpCopy (a b : XReg) (s : State) : Host.Outcome State Fault Refusal := s.push [0] a b

/-- `cp.gather` (R224, R226). -/
def execCpGather (a b : XReg) (s : State) : Host.Outcome State Fault Refusal := s.push [1] a b

/-- `cp.dec` (R224, R226). -/
def execCpDec (a b : XReg) (s : State) : Host.Outcome State Fault Refusal := s.push [2] a b

/-- `eq.push` (R224, R226). -/
def execEqPush (a b : XReg) (s : State) : Host.Outcome State Fault Refusal := s.push [0, 1, 2] a b

/-- ENGINE_FIFO_ADMIT (R227). -/
def State.fifoAdmit (s : State) : State :=
  match s.me.wait with
  | .enginePush eng c rd =>
    if s.me.csr.halt || decide (16 ≤ (s.myCore.eng eng).fifo.length) then s else s.enqueueCmd c rd
  | _ => s

def execEngineFifoAdmit (hart : Nat) (s : State) : Host.Outcome State Fault Refusal :=
  .next (s.atHart hart State.fifoAdmit)

/-! The range checker (R230). -/

/-- Own-scratchpad offsets of the bytes of a range that name the own scratchpad, window by window. -/
def ownRanges (core : Nat) (va : Word64) (n : Nat) : List (Nat × Nat) :=
  [0, 0x7F0000000000 + core % 4 * 2 ^ 20, 0x7F0010000000 + core % 128 * 2 ^ 20].filterMap fun b =>
    let lo := max b va.toNat
    let hi := min (b + 2 ^ 20) (va.toNat + n)
    if lo < hi then some (lo - b, hi - b) else none

/-- Whether two lists of ranges share a byte. -/
def rangesMeet (a b : List (Nat × Nat)) : Bool :=
  a.any fun x => b.any fun y => decide (max x.1 y.1 < min x.2 y.2)

/-- Row bytes of a gather. -/
def Cmd.row (c : Cmd) : Nat := c.rszm1 + 1

def Cmd.writes (c : Cmd) (core : Nat) : List (Nat × Nat) :=
  ownRanges core c.dst (if c.kind = 0 then c.len.toNat else if c.kind = 1 then c.len.toNat * c.row else c.dstmax)

def Cmd.reads (c : Cmd) (core : Nat) : List (Nat × Nat) :=
  if c.kind = 1 then [(c.idxoff, c.idxoff + 4 * c.len.toNat)] else ownRanges core c.src c.len.toNat

/-- Whether `b` may not start before the earlier `a` completes. -/
def Cmd.holdsBack (a b : Cmd) (core : Nat) : Bool :=
  b.ord || rangesMeet (a.writes core) (b.reads core) || rangesMeet (a.writes core) (b.writes core) ||
    rangesMeet (a.reads core) (b.writes core)

/-- Every command of a core that is not complete. -/
def Core.cmds (c : Core) : List Cmd :=
  c.eng0.fifo ++ c.eng1.fifo ++ c.eng0.running.map Running.cmd ++ c.eng1.running.map Running.cmd

def State.mayStart (s : State) (core : Nat) (c : Cmd) : Bool :=
  !s.engFrozen core && !(s.core core).cmds.any fun a => decide (a.order < c.order) && a.holdsBack c core

/-- ENGINE_COMMAND_START (R230): a gather reads its index list now (R229). -/
def State.engineStart (s : State) (core eng : Nat) (seq : Word32) : State :=
  let e := (s.core core).eng eng
  match e.fifo.find? fun c => c.seq == seq with
  | none => s
  | some c =>
    if s.mayStart core c then
      let n := if c.kind = 1 then c.len.toNat else 0
      let s1 := (s.watchSegs false false [(spadKey core c.idxoff, 4 * n)] 0).1.touch (spadKey core c.idxoff) (4 * n)
      let r : Running :=
        { cmd := c, index := (List.range n).map fun i => s1.readLe (spadKey core (c.idxoff + 4 * i)) 4, chunks := 0,
          outBytes := 0, inBytes := 0,
          result := (s1.poisonedAt (spadKey core c.idxoff) (4 * n)).map fun k => (4, BitVec.ofNat 48 (k - spadKey core 0)),
          recordWait := false, plan := none }
      s1.setEng core eng { e with fifo := e.fifo.filter fun x => x.seq != seq, running := e.running ++ [r] }
    else s

def execEngineCommandStart (core eng seq : Nat) (s : State) : Host.Outcome State Fault Refusal :=
  .next (s.engineStart core eng (BitVec.ofNat 32 seq))

/-! The work of a command. -/

/-- STATUS of a failed check (R231). -/
def engStatus (cause : Nat) : BitVec 8 := if cause = 4 then 1 else if cause = 5 then 2 else if cause = 10 then 4 else 3

/-- A failure of a command: STATUS and the address. -/
abbrev EngFail := Option (BitVec 8 × Nat)

/-- The failure at the lower address. -/
def lowerFail (a b : EngFail) : EngFail :=
  match a, b with
  | some x, some y => if y.2 < x.2 then b else a
  | none, _ => b
  | _, none => a

/-- The context an engine of a core works for. -/
def State.ctxOfCore (s : State) (core : Nat) : Nat := (s.press (pressOfCore core)).resident.getD 0

/-- The lowest failing address of bytes `lo` to `hi` of a range of `n` bytes as an engine checks it (R226, R231); an engine is not
held to `.spad`. -/
def State.partFail (s : State) (core : Nat) (va : Word64) (n lo hi : Nat) (acc : Acc) : EngFail :=
  let a0 := va.toNat + lo
  let stop := (storageEnd va.toNat).getD (va.toNat + n)
  let inside := (segmentStarts a0 (min (va.toNat + hi) stop - a0) (2 ^ 20) core).foldl (fun (best : EngFail) a =>
    match s.resolve core (s.ctxOfCore core) (2 ^ 20) (a % 2 ^ 64) acc with
    | .ok _ => best
    | .error f => lowerFail best (some (engStatus f.cause, a))) none
  if stop < va.toNat + hi then lowerFail inside (some (3, max stop a0)) else inside

/-- The lowest failing address of a whole range. -/
def State.engFail (s : State) (core : Nat) (va : Word64) (n : Nat) (acc : Acc) : EngFail := s.partFail core va n 0 n acc

def State.engSegs (s : State) (core : Nat) (va : Word64) (n : Nat) (acc : Acc) : List (Nat × Nat) :=
  s.segments core (s.ctxOfCore core) (2 ^ 20) va.toNat n acc

/-- Bytes `lo` to `hi` of a source range: their failure, poison included. -/
def State.partSourceFail (s : State) (core : Nat) (va : Word64) (n lo hi : Nat) : EngFail :=
  lowerFail (s.partFail core va n lo hi .load)
    ((s.poisonedSegs (s.engSegs core (va + BitVec.ofNat 64 lo) (hi - lo) .load) 0).map fun off => (4, va.toNat + lo + off))

/-- A source range: its failure, poison included. -/
def State.sourceFail (s : State) (core : Nat) (va : Word64) (n : Nat) : EngFail := s.partSourceFail core va n 0 n

/-- The bytes of a range that pass the engine's checks: offset and storage key, under the translation that holds now (R305). -/
def State.keysAt (s : State) (core : Nat) (va : Word64) (n : Nat) (acc : Acc) : List (Nat × Nat) :=
  let stop := (storageEnd va.toNat).getD (va.toNat + n)
  (pieces va.toNat n).flatMap fun p =>
    if stop ≤ p.1 then []
    else
      match s.resolve core (s.ctxOfCore core) (2 ^ 20) (p.1 % 2 ^ 64) acc with
      | .ok key => (List.range p.2).map fun i => (p.1 - va.toNat + i, key + i)
      | .error _ => []

/-- One row of a copy or gather, or a decoded chunk: source, destination and length. -/
structure Row where
  src : Word64
  dst : Word64
  len : Nat
deriving DecidableEq, Repr

/-- The rows of a copy, which is one, or of a gather (R228, R229). Position `p` of a command is byte `p % len` of row `p / len`. -/
def Cmd.rows (c : Cmd) (index : List Nat) : List Row :=
  if c.kind = 0 then [{ src := c.src, dst := c.dst, len := c.len.toNat }]
  else
    index.zipIdx.map fun e =>
      { src := c.src + BitVec.ofNat 64 (e.1 * c.row), dst := c.dst + BitVec.ofNat 64 (e.2 * c.row), len := c.row }

/-- Positions and storage keys of the rows' source bytes. -/
def State.sources (s : State) (core : Nat) (rows : List Row) : List (Nat × Nat) :=
  rows.zipIdx.flatMap fun e => (s.keysAt core e.1.src e.1.len .load).map fun x => (e.2 * e.1.len + x.1, x.2)

/-- Positions and storage keys of the rows' destination bytes. -/
def State.places (s : State) (core : Nat) (rows : List Row) : List (Nat × Nat) :=
  rows.zipIdx.flatMap fun e => (s.keysAt core e.1.dst e.1.len .store).map fun x => (e.2 * e.1.len + x.1, x.2)

/-- A command that has written nothing yet. -/
def Plan.empty : Plan := { done := [], kept := [], out := 0, taken := 0 }

/-- Rising positions as intervals. -/
def partsOf : List Nat → List (Nat × Nat)
  | [] => []
  | p :: t =>
    match partsOf t with
    | (lo, hi) :: r => if lo = p + 1 then (p, hi) :: r else (p, p + 1) :: (lo, hi) :: r
    | [] => [(p, p + 1)]

/-- What is left of a row of `len` bytes from position `base` on, without the positions `done`. -/
def restOf (done : List Nat) (base len : Nat) : List (Nat × Nat) :=
  if done = [] then [(0, len)] else partsOf ((List.range len).filter fun i => !done.contains (base + i))

/-- Bytes written to one bank word in one write, the watchpoints first (R233, R373). -/
def State.putBytes (s : State) (l : List (Nat × Byte)) : State :=
  (l.foldl (fun (t : State) e => (t.watch e.1 1 true false).1) s).storeMany (l.map fun e => (e.1, [e.2]))

/-- One bank word written: all bytes a command has there in one write (R233), each from its source as that holds now, or as
kept. A copy (`keep`) keeps what it is going to overwrite of its own source (R228). -/
def State.wordWrite (core : Nat) (rows : List Row) (keep : Bool) (p : State × Plan) (word : Nat) : State × Plan :=
  let pl := p.2
  let here := (p.1.places core rows).filter fun e => e.2 / 32 == word && !pl.done.contains e.1
  let src := (p.1.sources core rows).filter fun e => !pl.done.contains e.1 && !pl.kept.any fun k => k.1 == e.1
  let read := src.filter fun e => here.any fun x => x.1 == e.1
  let s1 := read.foldl (fun (t : State) e => ((t.watch e.2 1 false false).1).touch e.2 1) p.1
  let data := here.map fun e => (e.2, match pl.kept.find? fun k => k.1 == e.1 with
    | some k => k.2
    | none => match read.find? fun x => x.1 == e.1 with
      | some x => s1.byte x.2
      | none => 0)
  let lost := if keep then src.filter fun e => (here.any fun x => x.2 == e.2) && !here.any fun x => x.1 == e.1 else []
  (s1.putBytes data,
    { pl with done := pl.done ++ here.map Prod.fst, kept := pl.kept ++ lost.map fun e => (e.1, s1.byte e.2) })

/-- The bank words a command still has to write. -/
def State.wordsLeft (s : State) (core : Nat) (rows : List Row) (pl : Plan) : List Nat :=
  (((s.places core rows).filter fun e => !pl.done.contains e.1).map fun e => e.2 / 32).eraseDups

/-- Words written in order; then sectors and bank words the whole command covers are no longer poisoned (R325, R327). -/
def State.writeWords (s : State) (core : Nat) (rows : List Row) (keep : Bool) (pl : Plan) (words : List Nat) : State :=
  ((words.foldl (State.wordWrite core rows keep) (s, pl)).1).clearPoisonOf
    (rows.flatMap fun r => s.engSegs core r.dst r.len .store)

/-- Whether the rows' sources and destinations share bytes, so that their order shows. -/
def State.rowsMix (s : State) (core : Nat) (rows : List Row) : Bool :=
  rows.any fun a => rows.any fun b =>
    (s.engSegs core a.src a.len .load).any fun x => (s.engSegs core b.dst b.len .store).any fun y =>
      overlaps x.1 x.2 y.1 y.2

/-- Whether data from a key reaches a core over the fabric in a flit of a hart's command that arrives poisoned (R323). -/
def State.engFlit (s : State) (core hart : Nat) (va : Word64) (n : Nat) : EngFail :=
  if (s.hart hart).flit then
    match (s.engSegs core va n .load).find? fun g => !(isSpad g.1 && spadCore g.1 == core) with
    | some _ => some (4, va.toNat)
    | none => none
  else none

/-- The poisoned flit of a command has been consumed. -/
def State.engFlitOver (s : State) (hart : Nat) (st : BitVec 8) : State :=
  if (s.hart hart).flit ∧ st = 4 then s.setHart hart { s.hart hart with flit := false } else s

/-- The failure at the lowest address of what a copy or gather has still to read and write (R231). -/
def State.rowsFail (s : State) (core hart : Nat) (rows : List Row) (pl : Plan) : EngFail :=
  rows.zipIdx.foldl (fun (f : EngFail) e =>
    let r := e.1
    let toRead := restOf (pl.done ++ pl.kept.map Prod.fst) (e.2 * r.len) r.len
    let toWrite := restOf pl.done (e.2 * r.len) r.len
    lowerFail f (lowerFail
      (lowerFail (toRead.foldl (fun (g : EngFail) x => lowerFail g (s.partSourceFail core r.src r.len x.1 x.2)) none)
        (if toRead = [] then none else s.engFlit core hart r.src r.len))
      (toWrite.foldl (fun (g : EngFail) x => lowerFail g (s.partFail core r.dst r.len x.1 x.2 .store)) none))) none

/-- What a copy or gather has still to read meets its latent flaws. -/
def State.touchRows (s : State) (core : Nat) (rows : List Row) (pl : Plan) : State :=
  rows.zipIdx.foldl (fun (t : State) e =>
    (restOf (pl.done ++ pl.kept.map Prod.fst) (e.2 * e.1.len) e.1.len).foldl (fun (u : State) x =>
      u.touchSegs (u.engSegs core (e.1.src + BitVec.ofNat 64 x.1) (x.2 - x.1) .load)) t) s

/-- Bank words a failing command writes: those it can write whole, each old or new, which is not fixed (R231, R233). -/
def State.someWords (s : State) (core hart : Nat) (rows : List Row) (pl : Plan) : List Nat :=
  let start := fun (p : Nat) => rows.any fun r => (s.engFlit core hart r.src r.len).isSome && p % r.len == 0
  let good := (s.sources core rows).filter fun e => (s.poisonedAt e.2 1).isNone && !start e.1
  (s.wordsLeft core rows pl).filter fun w =>
    Config.freeChoice s.freeNo w && (s.places core rows).all fun e =>
      e.2 / 32 != w || pl.done.contains e.1 || (pl.kept.any fun k => k.1 == e.1) || good.any fun x => x.1 == e.1

/-- What is left of a copy or gather performed: STATUS and DETAIL (R228, R229, R231). Rows of a gather that share bytes are copied in
no fixed order, bank word by bank word. -/
def State.performRows (s : State) (core hart : Nat) (rows : List Row) (keep : Bool) (pl : Plan) :
    State × (BitVec 8 × BitVec 48) :=
  let s0 := s.touchRows core rows pl
  match s0.rowsFail core hart rows pl with
  | some (st, a) =>
    ((((s0.someWords core hart rows pl).foldl (State.wordWrite core rows keep) (s0, pl)).1.bumpFree).engFlitOver hart st,
      (st, BitVec.ofNat 48 a))
  | none =>
    let words := s0.wordsLeft core rows pl
    ((s0.writeWords core rows keep pl
      (if !keep && s0.rowsMix core rows then freeOrder s0.freeNo words else words)).bumpFree, (0, 0))

/-! Decoding (R234 to R236). -/

/-- One step of CRC-32C over a bit. -/
def crcBit (c : Nat) : Nat := if c % 2 = 1 then (c / 2) ^^^ 0x82F63B78 else c / 2

def crcByte (c : Nat) (b : Byte) : Nat := (List.range 8).foldl (fun x _ => crcBit x) (c ^^^ b.toNat)

/-- CRC-32C (R234). -/
def crc32c (l : List Byte) : Nat := l.foldl crcByte 0xFFFFFFFF ^^^ 0xFFFFFFFF

/-- The block code (R235) over at most `n` codes: the output so far reversed, and what is left of the body. -/
def decodeBody : Nat → List Byte → Nat → List Byte → Option (List Byte)
  | 0, [], left, out => if left = 0 then some out.reverse else none
  | 0, _ :: _, _, _ => none
  | _ + 1, [], left, out => if left = 0 then some out.reverse else none
  | n + 1, c :: t, left, out =>
    if c.toNat ≤ 0x7F then
      let m := c.toNat + 1
      if t.length < m ∨ left < m then none
      else decodeBody n (t.drop m) (left - m) ((t.take m).reverse ++ out)
    else
      let m := c.toNat - 0x80 + 3
      match t with
      | [] => none
      | b :: u => if left < m then none else decodeBody n u (left - m) (List.replicate m b ++ out)

/-- What the next chunk of a stream comes to: a failure with STATUS and DETAIL, or its output and stream bytes. -/
inductive Chunk where
  | stop (status : BitVec 8) (detail : Nat)
  | out (bytes : List Byte) (taken : Nat)
deriving DecidableEq, Repr

/-- The next chunk of a running decode (R235, R236). -/
def State.nextChunk (s : State) (core : Nat) (r : Running) : Chunk :=
  let c := r.cmd
  let left := c.len.toNat - r.inBytes
  let at0 := c.src + BitVec.ofNat 64 r.inBytes
  if left < 8 then .stop 8 r.chunks
  else
    match s.sourceFail core at0 8 with
    | some (st, a) => .stop st a
    | none =>
      let h := leNat (s.readSegs (s.engSegs core at0 8 .load))
      let clen := h / 2 ^ 16 % 65536
      let olen := h % 65536
      if olen = 0 ∨ 4096 < olen ∨ clen = 0 then .stop 5 r.chunks
      else if left < 8 + clen then .stop 8 r.chunks
      else if c.dstmax < r.outBytes + olen then .stop 7 r.chunks
      else
        match s.sourceFail core (at0 + 8) clen with
        | some (st, a) => .stop st a
        | none =>
          let body := s.readSegs (s.engSegs core (at0 + 8) clen .load)
          match decodeBody clen body olen [] with
          | none => .stop 5 r.chunks
          | some out =>
            if crc32c out ≠ h / 2 ^ 32 then .stop 6 r.chunks
            else
              match s.engFail core (c.dst + BitVec.ofNat 64 r.outBytes) olen .store with
              | some (st, a) => .stop st a
              | none => .out out (8 + clen)

/-- The running command with a SEQ. -/
def Engine.find (e : Engine) (seq : Word32) : Option Running := e.running.find? fun r => r.cmd.seq == seq

def Engine.update (e : Engine) (r : Running) : Engine :=
  { e with running := e.running.map fun x => if x.cmd.seq = r.cmd.seq then r else x }

/-- The chunk a decode writes, as a row whose bytes are all kept. -/
def Running.chunkRow (r : Running) (len : Nat) : List Row :=
  [{ src := 0, dst := r.cmd.dst + BitVec.ofNat 64 r.outBytes, len := len }]

def chunkPlan (bytes : List Byte) (taken : Nat) : Plan :=
  { done := [], kept := bytes.zipIdx.map fun e => (e.2, e.1), out := bytes.length, taken := taken }

/-- The next chunk of a decode as it is read now, the watchpoints first (R236, R373). -/
def State.readChunk (s : State) (core : Nat) (r : Running) : State × Chunk :=
  let at0 := r.cmd.src + BitVec.ofNat 64 r.inBytes
  let src := s.engSegs core at0 (r.cmd.len.toNat - r.inBytes) .load
  let s1 := (s.watchSegs false false src 0).1.touchSegs src
  (s1, match s1.engFlit core r.cmd.hart at0 8 with
    | some (st, a) => Chunk.stop st a
    | none => s1.nextChunk core r)

/-- A running command with what it has written noted. -/
def State.setPlan (s : State) (core eng : Nat) (r : Running) (pl : Plan) : State :=
  s.setEng core eng (((s.core core).eng eng).update { r with plan := some pl })

/-- A running command writes one bank word now: a copy or gather, or a decode's next chunk. A command that fails is left as it
is. -/
def State.engineWord (s : State) (core eng : Nat) (seq : Word32) (word : Nat) : State :=
  match ((s.core core).eng eng).find seq with
  | none => s
  | some r =>
    if r.recordWait || r.result.isSome || s.engFrozen core then s
    else if r.cmd.kind = 2 then
      let q : Option (State × Plan) := match r.plan with
        | some pl => some (s, pl)
        | none => match s.readChunk core r with
          | (s1, .out bytes taken) => some (s1, chunkPlan bytes taken)
          | (_, .stop _ _) => none
      match q with
      | none => s
      | some (s1, pl) =>
        let w := State.wordWrite core (r.chunkRow pl.out) false (s1, pl) word
        w.1.setPlan core eng r w.2
    else
      let rows := r.cmd.rows r.index
      let pl := r.plan.getD Plan.empty
      let s1 := s.touchRows core rows pl
      if (s1.rowsFail core r.cmd.hart rows pl).isSome then s
      else
        let w := State.wordWrite core rows (r.cmd.kind == 0) (s1, pl) word
        w.1.setPlan core eng r w.2

/-- A chunk is written and released, or ends its decode where its output cannot be written. -/
def State.releaseChunk (s : State) (core : Nat) (r : Running) (pl : Plan) : State :=
  let row := r.chunkRow pl.out
  let upd := fun (t : State) (x : Running) => t.setEng core 1 (((t.core core).eng 1).update x)
  match (restOf pl.done 0 pl.out).foldl (fun (g : EngFail) x =>
      lowerFail g (s.partFail core (r.cmd.dst + BitVec.ofNat 64 r.outBytes) pl.out x.1 x.2 .store)) none with
  | some (st, a) => upd s { r with result := some (st, BitVec.ofNat 48 a), plan := none }
  | none =>
    upd (s.writeWords core row false pl (s.wordsLeft core row pl))
      { r with chunks := r.chunks + 1, outBytes := r.outBytes + pl.out, inBytes := r.inBytes + pl.taken, plan := none }

/-- DECODE_CHUNK_RELEASE (R236): the next chunk of a decode is released or ends it. -/
def State.chunkRelease (s : State) (core : Nat) (seq : Word32) : State :=
  let e := (s.core core).eng 1
  match e.find seq with
  | none => s
  | some r =>
    if r.result.isSome || s.engFrozen core then s
    else
    match r.plan with
    | some pl => s.releaseChunk core r pl
    | none =>
    if r.cmd.len.toNat ≤ r.inBytes then
      s.setEng core 1 (e.update { r with result := some (0, BitVec.ofNat 48 r.chunks) })
    else
      match s.readChunk core r with
      | (s1, .stop st d) =>
        (s1.engFlitOver r.cmd.hart st).setEng core 1 (e.update { r with result := some (st, BitVec.ofNat 48 d) })
      | (s1, .out bytes taken) => s1.releaseChunk core r (chunkPlan bytes taken)

def execDecodeChunkRelease (core seq : Nat) (s : State) : Host.Outcome State Fault Refusal :=
  .next (s.chunkRelease core (BitVec.ofNat 32 seq))

/-! Completion and records (R227, R231, R232). -/

/-- The record of a command (R231). -/
def recordOf (c : Cmd) (st : BitVec 8) (detail : BitVec 48) : CompletionRec :=
  { seq := c.seq, tag := c.tag, status := st, kind := c.kind, detail := detail, trapf := c.trapf }

/-- Place the record of a finished command and drop the command, or leave it waiting for room (R231). -/
def State.placeRecord (s : State) (core eng : Nat) (seq : Word32) : State :=
  let e := (s.core core).eng eng
  match e.find seq with
  | none => s
  | some r =>
    match r.result with
    | none => s
    | some (st, d) =>
      let h := s.hart r.cmd.hart
      let gone := { e with running := e.running.filter fun x => x.cmd.seq != seq }
      if r.cmd.norec then s.setEng core eng gone
      else if (h.out eng).length < 16 then
        (s.setHart r.cmd.hart (h.setOut eng (h.out eng ++ [recordOf r.cmd st d]))).setEng core eng gone
      else s.setEng core eng (e.update { r with recordWait := true })

/-- The log entry of poison consumed by a hart's instruction or engine command (R322, KIND 5). -/
def State.logConsumed (s : State) (hart ctx addr : Nat) (epc : Word64) : State :=
  (s.count (dieOfHart hart) 6).logEntry (hartLog hart 5 10 ctx (s.press (pressOfHart hart)).phys addr epc)

/-- Cause 10 of an engine command goes to a supervisor, naming the pushing hart (R328, R331): the hart stops where it stands, and
what it waits for stays; while a supervisor core has it for another cause this one follows. For a hart that no longer runs the
consumption is only logged (log entry 72). -/
def State.engineCause10 (s : State) (hart : Nat) (addr : BitVec 48) : State :=
  let h := s.hart hart
  if h.life == .running then
    let k : SupStop :=
      { cause := 10, epc := h.pc.setWidth 48, eval := Config.recordAddress s.freeNo, source := addr.signExtend 64, vri := 0,
        logSeq := none, emul := none }
    (s.setHart hart (match h.sup with
      | none => { h with sup := some k }
      | some _ => { h with supNext := h.supNext ++ [k] })).bumpFree
  else
    (s.logConsumed hart (((s.press (pressOfHart hart)).resident).getD 0xFF)
      ((Config.recordAddress s.freeNo).toNat % 2 ^ 48) h.pc).bumpFree

/-- COMMAND_COMPLETE (R227): the writes are performed, the sync word credited, the record placed. -/
def State.commandDone (s : State) (core eng : Nat) (seq : Word32) : State :=
  let e := (s.core core).eng eng
  match e.find seq with
  | none => s
  | some r =>
    let c := r.cmd
    if r.recordWait || s.engFrozen core || (c.kind == 2 && r.result.isNone) then s
    else
      let p : State × (BitVec 8 × BitVec 48) := match r.result with
        | some x => (s, x)
        | none => s.performRows core c.hart (c.rows r.index) (c.kind == 0) (r.plan.getD Plan.empty)
      let st := p.2.1
      let credit : Nat := if c.kind = 2 then r.outBytes else if st ≠ 0 then 0
        else if c.kind = 0 then c.len.toNat else c.len.toNat * c.row
      let s1 := if c.syncen ∧ credit ≠ 0 then p.1.arrive (spadKey core c.syncoff) credit else p.1
      let s2 := s1.setEng core eng (((s1.core core).eng eng).update { r with result := some p.2, plan := none })
      let s3 := s2.placeRecord core eng seq
      if st = 4 then s3.engineCause10 c.hart p.2.2 else s3

def execCommandComplete (core eng seq : Nat) (s : State) : Host.Outcome State Fault Refusal :=
  .next (s.commandDone core eng (BitVec.ofNat 32 seq))

/-- COMPLETION_RECORD_PLACE (R231): a record that waited for room. -/
def State.recordRoom (s : State) (core eng : Nat) (seq : Word32) : State :=
  match ((s.core core).eng eng).find seq with
  | some r => if r.recordWait && !s.engFrozen core then s.placeRecord core eng seq else s
  | none => s

def execCompletionRecordPlace (core eng seq : Nat) (s : State) : Host.Outcome State Fault Refusal :=
  .next (s.recordRoom core eng (BitVec.ofNat 32 seq))

/-- Doubleword 0 of a record. -/
def CompletionRec.word0 (r : CompletionRec) : Word64 := r.seq ++ r.tag ++ r.status ++ r.kind

/-- Take the oldest record (R232): TRAPF and a failure trap outside handler mode, else it is removed and written. -/
def State.takeRecord (s : State) (eng : Nat) (rd rb : XReg) (r : CompletionRec) (rest : List CompletionRec) : State :=
  let xb := if rb = 0 then 0 else s.x rb
  if r.status ≠ 0 ∧ r.trapf ∧ !s.me.handler then s.trap 13 xb
  else
    let fin := fun (t : State) => (t.setMe (t.me.setOut eng rest)).retireX rd r.word0
    if rb = 0 then fin s
    else
      match s.access xb.toNat 16 16 .store false true true with
      | .bad s1 c ev => s1.trap c ev
      | .ok s1 key => fin (s1.storeAt key (leBytes 8 r.word0.toNat ++ leBytes 8 r.detail.toNat))

/-- The checks of the address `eq.pop` writes a record to, one naturally aligned access (R79, R232). -/
def State.recordFail (s : State) (va : Nat) : Option (Nat × Word64) :=
  if va % 16 ≠ 0 then some (3, BitVec.ofNat 64 va)
  else
    match s.resolveAll va 16 .store with
    | .error f => some (f.cause, failEval f va)
    | .ok _ => none

/-- `eq.pop` (R232). -/
def execEqPop (a b : XReg) (n : BitVec 1) (s : State) : Host.Outcome State Fault Refusal :=
  match (if b = 0 then none else s.recordFail (s.x b).toNat) with
  | some (c, ev) => .next (s.trap c ev)
  | none =>
    match s.me.out n.toNat with
    | [] => .next (s.beginWait (.eqPop n.toNat a b))
    | r :: t => .next (s.takeRecord n.toNat a b r t)

/-- EQ_POP_RECORD (R232): a waiting `eq.pop` takes a record that has arrived. -/
def State.eqPopWake (s : State) : State :=
  match s.me.wait with
  | .eqPop eng rd rb =>
    if s.me.csr.halt then s
    else
      match s.me.out eng with
      | [] => s
      | r :: t => s.takeRecord eng rd rb r t
  | _ => s

def execEqPopRecord (hart : Nat) (s : State) : Host.Outcome State Fault Refusal := .next (s.atHart hart State.eqPopWake)

/-- EQ_POP_TIMEOUT (R232). -/
def State.eqPopTimeout (s : State) : State :=
  match s.me.wait with
  | .eqPop eng _ _ => if s.me.waitedOut && (s.me.out eng).isEmpty then s.noProgress else s
  | _ => s

def execEqPopTimeout (hart : Nat) (s : State) : Host.Outcome State Fault Refusal :=
  .next (s.atHart hart State.eqPopTimeout)

end Sys2Proof.Machine
end

