-- ==== Sys2Proof/Machine/Sync.lean ====
section
/-!
DEFINITION. Core queues (R213 to R215), barriers (R247, R248), monitored waits (R249), future words (R250), what happens
when waiting resources run out (R251) and vector waits (R252).
-/
namespace Sys2Proof.Machine

/-! Queues. -/

/-- Whether a hart waits to push to, or to pop from, queue `q` of its core. -/
def Hart.waitsQueue (h : Hart) (pop : Bool) (q : Nat) : Bool :=
  match h.wait with
  | .queuePush n _ => !pop && n == q
  | .queuePop n _ => pop && n == q
  | _ => false

/-- The hart of a core that began to wait first at a queue, ties by `HARTID`. -/
def State.firstWaiter (s : State) (core : Nat) (pop : Bool) (q : Nat) : Option Nat :=
  (sortBy (fun a b => decide ((s.hart a).waitSeq ≤ (s.hart b).waitSeq))
    ((hartsOf core).filter fun k => (s.hart k).waitsQueue pop q)).head?

def Core.queue (c : Core) (q : Nat) : List (Word64 × Bool) := fget [] c.q q

def State.setQueue (s : State) (q : Nat) (l : List (Word64 × Bool)) : State :=
  let c := s.myCore
  s.setMyCore { c with q := fset [] c.q q l }

/-- Append an entry and retire. -/
def State.pushQueue (s : State) (q : Nat) (v : Word64) : State := (s.setQueue q (s.myCore.queue q ++ [(v, false)])).retire

/-- Remove the oldest entry into xd and retire; a poisoned entry is consumed poison and nothing commits (R328). -/
def State.popQueue (s : State) (q : Nat) (rd : XReg) (v : Word64 × Bool) (rest : List (Word64 × Bool)) : State :=
  if v.2 then s.trap 10 0 else (s.setQueue q rest).retireX rd v.1

/-- `qpush` (R214): waits while the queue is full or earlier pushers wait. -/
def execQpush (b : XReg) (n : BitVec 2) (s : State) : Host.Outcome State Fault Refusal :=
  let q := n.toNat
  if (s.myCore.queue q).length < 16 ∧ (s.firstWaiter s.myCoreId false q).isNone then .next (s.pushQueue q (s.x b))
  else .next (s.beginWait (.queuePush q (s.x b)))

/-- `qpop` (R214): waits while the queue is empty or earlier poppers wait. -/
def execQpop (a : XReg) (n : BitVec 2) (s : State) : Host.Outcome State Fault Refusal :=
  let q := n.toNat
  match s.myCore.queue q with
  | v :: t =>
    if (s.firstWaiter s.myCoreId true q).isNone then .next (s.popQueue q a v t)
    else .next (s.beginWait (.queuePop q a))
  | [] => .next (s.beginWait (.queuePop q a))

/-- Whether the acting hart's queue wait can be served: it is first, and there is room or an entry. -/
def State.queueReady (s : State) : Bool :=
  match s.me.wait with
  | .queuePush q _ => s.firstWaiter s.myCoreId false q == some s.cur && decide ((s.myCore.queue q).length < 16)
  | .queuePop q _ => s.firstWaiter s.myCoreId true q == some s.cur && !(s.myCore.queue q).isEmpty
  | _ => false

/-- QUEUE_WAIT_ADMIT (R214). -/
def State.queueAdmit (s : State) : State :=
  if s.me.csr.halt || !s.queueReady then s
  else
    match s.me.wait with
    | .queuePush q v => s.pushQueue q v
    | .queuePop q rd =>
      match s.myCore.queue q with
      | v :: t => s.popQueue q rd v t
      | [] => s
    | _ => s

def execQueueWaitAdmit (hart : Nat) (s : State) : Host.Outcome State Fault Refusal :=
  .next (s.atHart hart State.queueAdmit)

/-- QUEUE_WAIT_TIMEOUT (R215). -/
def State.queueTimeout (s : State) : State :=
  match s.me.wait with
  | .queuePush _ _ | .queuePop _ _ => if s.me.waitedOut && !s.queueReady then s.noProgress else s
  | _ => s

def execQueueWaitTimeout (hart : Nat) (s : State) : Host.Outcome State Fault Refusal :=
  .next (s.atHart hart State.queueTimeout)

/-! Barriers. -/

/-- Physical barriers per unit (R247). -/
def barsPerUnit (level : Nat) : Nat := if level = 0 then 16 else if level = 1 then 8 else 4

/-- Participant limits (R248). -/
def barLimit (level : Nat) : Nat := if level = 0 then 8 else if level = 1 then 32 else 1024

/-- The barriers of the acting hart's core, press or die; numbers from `barsPerUnit` up are a supervisor's (R251). -/
def State.bars (s : State) (level : Nat) : FMap Barrier :=
  if level = 0 then s.myCore.bars else if level = 1 then s.myPress.bars else (s.die (dieOfHart s.cur)).bars

def State.setBar (s : State) (level n : Nat) (b : Barrier) : State :=
  if level = 0 then
    let c := s.myCore
    s.setMyCore { c with bars := fset Barrier.reset c.bars n b }
  else if level = 1 then
    let p := s.myPress
    s.setPress s.myPressId { p with bars := fset Barrier.reset p.bars n b }
  else
    let d := s.die (dieOfHart s.cur)
    s.setDie (dieOfHart s.cur) { d with bars := fset Barrier.reset d.bars n b }

/-- The barrier bound to the acting hart's context at a level and id: its number. -/
def State.boundBar (s : State) (level id : Nat) : Option Nat :=
  ((s.bars level).find? fun e => e.2.bound == some (s.myCtxId, level, id)).map Prod.fst

/-- Whether hart `h` belongs to the unit of the acting hart at a level. -/
def State.sameUnit (s : State) (level h : Nat) : Bool :=
  if level = 0 then coreOfHart h == s.myCoreId
  else if level = 1 then pressOfHart h == s.myPressId
  else dieOfHart h == dieOfHart s.cur

/-- Whether a barrier can be bound anew: unbound, or no hart of its kernel runs in the unit and no arrival is pending (R247,
R381). -/
def State.barFree (s : State) (level n : Nat) : Bool :=
  let b := fget Barrier.reset (s.bars level) n
  match b.bound with
  | none => true
  | some (c, _, _) =>
    b.count == 0 && !s.harts.any fun e =>
      s.sameUnit level e.1 && e.2.life == .running && (s.press (pressOfHart e.1)).resident == some c

/-- The lowest free physical barrier of the unit. -/
def State.freeBar (s : State) (level : Nat) : Option Nat :=
  (List.range (barsPerUnit level)).find? fun n => s.barFree level n

/-- The lowest number of a supervisor's barrier that nothing uses. -/
def State.softBar (s : State) (level : Nat) : Nat :=
  ((List.range ((s.bars level).length + 1)).map fun i => barsPerUnit level + i).find? (fun n => s.barFree level n)
    |>.getD (barsPerUnit level)

/-- Pending generations by level × 16 + id (R247). -/
def pendKey (level id : Nat) : Nat := level * 16 + id

def Hart.pending (h : Hart) (level id : Nat) : Option Word32 := fget none h.pendBar (pendKey level id)

def Hart.setPending (h : Hart) (level id : Nat) (g : Option Word32) : Hart :=
  { h with pendBar := fset none h.pendBar (pendKey level id) g }

/-- What an arrival comes to: a fault reason, or the state after it. -/
inductive Arrival where
  | fault (reason : Nat)
  | done (s : State)

/-- `Arrive(b, n)` at barrier number `num`, newly bound or not (R248). -/
def State.arriveBar (s : State) (level id num : Nat) (fresh : Bool) (n : Word64) : Arrival :=
  let old := fget Barrier.reset (s.bars level) num
  let b := if fresh then { old with bound := some (s.myCtxId, level, id), count := 0 } else old
  if !fresh && s.me.pending level id == some b.gen then .fault 3
  else if b.count = 0 ∧ (n.toNat < 1 ∨ barLimit level < n.toNat) then .fault 2
  else if b.count ≠ 0 ∧ n ≠ b.expect.setWidth 64 then .fault 1
  else
    let b1 := if b.count = 0 then { b with expect := n.setWidth 16 } else b
    let s1 := s.setMe (s.me.setPending level id (some b.gen))
    let b2 := { b1 with count := b1.count + 1 }
    .done (s1.setBar level num (if b2.count = b2.expect then { b2 with count := 0, gen := b2.gen + 1 } else b2))

/-- Whether the acting hart's pending generation on an id has passed: GEN has advanced, or the binding is gone, which it
can be only without a pending arrival. -/
def State.barPassed (s : State) (level id : Nat) : Bool :=
  match s.me.pending level id with
  | none => true
  | some g =>
    match s.boundBar level id with
    | none => true
    | some n => (fget Barrier.reset (s.bars level) n).gen != g

/-- `Wait(b)` (R248): clear the pending generation and retire, or wait; the address is kept, so that a `bar` that issues again
runs only its wait (R308, R377). -/
def State.waitBar (s : State) (level id : Nat) : State :=
  if s.barPassed level id then (s.setMe { s.me.setPending level id none with barAt := none }).retire
  else (s.setMe { s.me with barAt := some s.me.pc }).beginWait (.bar level id)

/-- Go on after an arrival. -/
def Arrival.finish (s : State) (level id : Nat) (waits : Bool) : Arrival → State
  | .fault r => s.illegalR 4 r
  | .done t => if waits then t.waitBar level id else t.retire

/-- EVAL of cause 14 (R251). -/
def exhaustedEval (resource where_ id : Nat) : Word64 :=
  BitVec.ofNat 8 resource ++ BitVec.ofNat 8 where_ ++ BitVec.ofNat 48 id

/-- Cause 14 (R251): nothing commits, a supervisor completes `e`. -/
def State.exhausted (s : State) (resource where_ id : Nat) (e : Emul) : State :=
  let s1 := s.trap 14 (exhaustedEval resource where_ id)
  match s1.me.sup with
  | some k => if k.cause = 14 then s1.setMe { s1.me with sup := some { k with emul := some e } } else s1
  | none => s1

/-- `bar` and `bar.arrive` (R247, R248): the first arrival on an id binds a free barrier. -/
def State.barArrive (s : State) (level id : Nat) (n : Word64) (waits : Bool) : State :=
  match s.boundBar level id with
  | some num =>
    if barsPerUnit level ≤ num then s.exhausted 1 level id (.bar level id n waits)
    else (s.arriveBar level id num false n).finish s level id waits
  | none =>
    match s.freeBar level with
    | some num => (s.arriveBar level id num true n).finish s level id waits
    | none => s.exhausted 1 level id (.bar level id n waits)

/-- `bar` (R248): issued again where it has arrived, it runs only its wait. -/
def execBar (a : BitVec 5) (b : XReg) (l : BitVec 2) (s : State) : Host.Outcome State Fault Refusal :=
  .next (if s.me.barAt = some s.me.pc then s.waitBar l.toNat a.toNat else s.barArrive l.toNat a.toNat (s.x b) true)

/-- `bar.arrive` (R248). -/
def execBarArrive (a : BitVec 5) (b : XReg) (l : BitVec 2) (s : State) : Host.Outcome State Fault Refusal :=
  .next (s.barArrive l.toNat a.toNat (s.x b) false)

/-- `bar.wait` (R248). -/
def execBarWait (a : BitVec 5) (l : BitVec 2) (s : State) : Host.Outcome State Fault Refusal :=
  .next (s.waitBar l.toNat a.toNat)

/-- BARRIER_RELEASE (R248): a waiter of a completed generation that is not halted (R374) retires. -/
def State.barRelease (s : State) : State :=
  match s.me.wait with
  | .bar level id => if s.me.csr.halt || !s.barPassed level id then s else s.waitBar level id
  | _ => s

def execBarrierRelease (hart : Nat) (s : State) : Host.Outcome State Fault Refusal :=
  .next (s.atHart hart State.barRelease)

/-! Waiting slots (R251). -/

/-- Window of a storage key for cause 14: 0 scratchpad, 3 cellar, 4 host window, 5 other memory (log entry 26). -/
def slotWindow (key : Nat) : Nat :=
  if key < 2 ^ 56 then 5 else if key < 2 ^ 57 then 0 else if key < 2 ^ 58 then 3 else if key < 2 ^ 59 then 4 else 5

/-- The pool of slots a wait on a key takes: a bank, a die's global slots, or a host window. -/
def slotPool (die key : Nat) : Nat × Nat :=
  match slotWindow key with
  | 0 | 3 => (key / 2 ^ 20, key / 32 % 32)
  | 4 => (key / 2 ^ 16, 0)
  | _ => (0, die)

/-- Monitor slots of a pool. -/
def monitorSlots (key : Nat) : Nat :=
  match slotWindow key with
  | 0 | 3 => 4
  | 4 => 16
  | _ => 64

/-- Monitor slots a hart holds in the pool of a key. -/
def Hart.monitorsIn (h : Hart) (hart die key : Nat) : Nat :=
  match h.wait with
  | .waitm k _ _ _ slot => if slot && h.wake.isNone && slotPool (dieOfHart hart) k == slotPool die key then 1 else 0
  | .vwait ks _ _ _ _ =>
    (ks.filter fun k => slotPool (dieOfHart hart) k == slotPool die key).length
  | _ => 0

def State.monitorsUsed (s : State) (die key : Nat) : Nat :=
  (s.harts.map fun e => e.2.monitorsIn e.1 die key).sum

/-- Park slots in use in the bank of a key. -/
def State.parksUsed (s : State) (key : Nat) : Nat :=
  (s.harts.filter fun e => match e.2.wait with
    | .futGet k _ slot => slot && e.2.wake.isNone && slotPool 0 k == slotPool 0 key
    | _ => false).length

/-! Monitored wait (R249). -/

/-- `waitm` (R249): compares, and parks on a monitor. -/
def execWaitm (a b c d : XReg) (t : ElemTy) (_sc : Scope) (s : State) : Host.Outcome State Fault Refusal :=
  let n := elemBytes t
  s.withAccess (s.x b) n n .load true false true fun s1 key =>
    let v := s1.readLe key n
    let limit := s1.x d
    if v ≠ (s1.x c).toNat % 2 ^ (8 * n) ∨ limit = 0 then s1.retireX a (BitVec.ofNat 64 v)
    else if monitorSlots key ≤ s1.monitorsUsed (dieOfHart s1.cur) key then
      s1.exhausted 3 (slotWindow key) (s1.x b).toNat (.waitm key n a (BitVec.ofNat 64 v) limit)
    else s1.beginWait (.waitm key n a limit true)

/-- MONITOR_WAKE (R249): the value after the write. -/
def State.monitorWoken (s : State) : State :=
  match s.me.wait, s.me.wake with
  | .waitm _ _ rd _ _, some v => if s.me.csr.halt then s else s.retireX rd v
  | _, _ => s

def execMonitorWake (hart : Nat) (s : State) : Host.Outcome State Fault Refusal :=
  .next (s.atHart hart State.monitorWoken)

/-- WAITM_TIMEOUT (R249): the value read at the home then, an access like the first (R328, R373). -/
def State.monitorTimeout (s : State) : State :=
  match s.me.wait with
  | .waitm key n rd limit _ =>
    if s.me.csr.halt || s.me.wake.isSome || decide (s.me.waited < limit.toNat) then s
    else
      let va := s.x (s.me.ir.extractLsb 17 13)
      match s.watch key n false true with
      | (s0, some k) => s0.trap 12 (va + BitVec.ofNat 64 (k - key))
      | (s0, none) =>
        let s1 := s0.touch key n
        if (s1.poisonedAt key n).isSome then s1.trap 10 va
        else s1.retireX rd (BitVec.ofNat 64 (s1.readLe key n))
  | _ => s

def execWaitmTimeout (hart : Nat) (s : State) : Host.Outcome State Fault Refusal :=
  .next (s.atHart hart State.monitorTimeout)

/-! Future words (R250). -/

/-- FULL of a future word. -/
def State.futFull (s : State) (key : Nat) : Bool := (s.byte (key + 8)).getLsbD 0

/-- A hart parked on the word takes its value. -/
def wakeFuture (key : Nat) (v : Word64) (h : Hart) : Hart :=
  match h.wait with
  | .futGet k _ _ => if k = key ∧ h.wake.isNone then { h with wake := some v } else h
  | _ => h

/-- `fut.put` (R250): a full word is left as it is. -/
def execFutPut (a b c : XReg) (s : State) : Host.Outcome State Fault Refusal :=
  let va := s.x b
  match s.swFail va.toNat with
  | some (k, ev) => .next (s.trap k ev)
  | none =>
    let full := match s.resolveMe va.toNat .store with
      | .ok key => s.futFull key
      | .error _ => false
    s.withAccess va 16 16 .store false (!full) true fun s1 key =>
      let s2 := s1.touch key 16
      if (s2.poisonedAt key 16).isSome then s2.trap 10 va
      else if full then s2.retireX a 1
      else
        let v := s2.x c
        let s3 := s2.storeAt key (leBytes 8 v.toNat ++ [s2.byte (key + 8) ||| 1])
        { s3 with harts := fmapValues Hart.reset (fun _ h => wakeFuture key v h) s3.harts }.retireX a 0

/-- `fut.get` (R250). -/
def execFutGet (a b : XReg) (s : State) : Host.Outcome State Fault Refusal :=
  let va := s.x b
  match s.swFail va.toNat with
  | some (k, ev) => .next (s.trap k ev)
  | none =>
    s.withAccess va 16 16 .load true false true fun s1 key =>
      if s1.futFull key then s1.retireX a (BitVec.ofNat 64 (s1.readLe key 8))
      else if 8 ≤ s1.parksUsed key then s1.exhausted 2 (slotWindow key) va.toNat (.futGet key a)
      else s1.beginWait (.futGet key a true)

/-- FUTURE_FILL_WAKE (R250). -/
def State.futureWoken (s : State) : State :=
  match s.me.wait, s.me.wake with
  | .futGet _ rd _, some v => if s.me.csr.halt then s else s.retireX rd v
  | _, _ => s

def execFutureFillWake (hart : Nat) (s : State) : Host.Outcome State Fault Refusal :=
  .next (s.atHart hart State.futureWoken)

/-- FUTURE_WAIT_TIMEOUT (R250, R222). -/
def State.futureTimeout (s : State) : State :=
  match s.me.wait with
  | .futGet _ _ _ => if s.me.waitedOut then s.noProgress else s
  | _ => s

def execFutureWaitTimeout (hart : Nat) (s : State) : Host.Outcome State Fault Refusal :=
  .next (s.atHart hart State.futureTimeout)

/-! Vector wait (R252). -/

/-- What arming comes to: the keys armed in slots of banks, the one in the hart's reserved slot, the least unarmed active element,
or a trap at an element. -/
inductive Armed where
  | ok (s : State) (keys : List Nat) (own : Option Nat) (l : Option Nat)
  | bad (s : State) (k cause : Nat) (eval : Word64)

/-- Arm the active elements in increasing order until a slot is lacking. -/
def State.arm (va : VRegister) : List Nat → State → List Nat → Option Nat → Armed
  | [], s, keys, own => .ok s keys own none
  | e :: t, s, keys, own =>
    let off := va.elem e % 2 ^ 32
    if va.badElem e then .bad s e 10 0
    else
      match s.access off 8 8 .load true false true with
      | .bad s1 c ev => .bad s1 e c ev
      | .ok s1 key =>
        let mine := (keys.filter fun k => slotPool 0 k == slotPool 0 key).length
        if s1.monitorsUsed (dieOfHart s1.cur) key + mine < 4 then State.arm va t s1 (keys ++ [key]) own
        else if own.isNone then State.arm va t s1 keys (some key)
        else .ok s1 keys own (some e)

/-- Whether every armed word differs from the expected value. -/
def State.allChanged (s : State) (keys : List Nat) (own : Option Nat) (expect : Word64) : Bool :=
  (keys ++ own.toList).all fun k => decide (s.readLe k 8 ≠ expect.toNat)

/-- `vwait` completes: xd = L and VRI returns to 0. -/
def State.vwaitDone (s : State) (rd : XReg) (l : Nat) : State :=
  (s.setMe { s.me with csr := { s.me.csr with vri := 0 } }).retireX rd (BitVec.ofNat 64 l)

/-- `vwait` (R252): illegal outside T1 mode; an own-scratchpad offset beyond the window is a resource overrun. -/
def execVwait (a : XReg) (b : VReg) (c : XReg) (p : PReg) (s : State) : Host.Outcome State Fault Refusal :=
  let h := s.me
  if s.myCtx.cfg.t1 ≠ 1 then .next s.illegal
  else
    let va := h.getV b
    let acts := h.actives (h.getP p)
    let beyond := acts.find? fun e => decide (0x100000 ≤ va.elem e % 2 ^ 32) && va.elem e % 8 == 0
    let run := match beyond with
      | some k => acts.filter fun e => decide (e < k)
      | none => acts
    match State.arm va run s [] none with
    | .bad s1 k cause ev => .next (s1.trapV cause ev k)
    | .ok s1 keys own l =>
      match beyond, l with
      | some k, none => .next (s1.trapV 2 (overrunEval 7 (va.elem k % 2 ^ 32)) k)
      | _, _ =>
        let top := l.getD h.csr.vl.toNat
        if s1.allChanged keys own (s1.x c) then .next (s1.vwaitDone a top)
        else .next (s1.beginWait (.vwait keys own (s1.x c) top a))

/-- VWAIT_WAKE (R252). -/
def State.vwaitWoken (s : State) : State :=
  match s.me.wait with
  | .vwait keys own expect l rd => if s.me.csr.halt || !s.allChanged keys own expect then s else s.vwaitDone rd l
  | _ => s

def execVwaitWake (hart : Nat) (s : State) : Host.Outcome State Fault Refusal :=
  .next (s.atHart hart State.vwaitWoken)

end Sys2Proof.Machine
end

