-- ==== Sys2Proof/Machine/Worklist.lean ====
section
/-!
DEFINITION. The worklist units (R270 to R295, R409, R314 to R316): bins and spill rings, the floor and the bound, selection,
racking, task entry and leaving, the worklist instructions, pre-emption, commit windows and termination.
-/
namespace Sys2Proof.Machine

/-! Records (R270). -/

def Rec.bin (r : Rec) : Nat := (r.d0.extractLsb 63 56).toNat
def Rec.order (r : Rec) : Nat := (r.d0.extractLsb 55 48).toNat
def Rec.frame (r : Rec) : Word64 := (r.d0.extractLsb 47 0).signExtend 64
def Rec.xdev (r : Rec) : Bool := r.d1.getLsbD 10
def Rec.eclass (r : Rec) : Nat := (r.d1.extractLsb 9 8).toNat

/-- 0 to 14 clusters, or 15 for 16. -/
def clusterCode (n : Nat) : Nat := if n = 15 then 16 else n

def Rec.lpref (r : Rec) : Nat := clusterCode (r.d1.extractLsb 7 4).toNat
def Rec.lmin (r : Rec) : Nat := clusterCode (r.d1.extractLsb 3 0).toNat

def inDieWindow (a : Nat) : Bool := decide (0x7F0010000000 ≤ a) && decide (a < 0x7F0018000000)

/-- A record that never moves between dies: PIN, or a frame in the die window. -/
def Rec.pinned (r : Rec) : Bool := r.d1.getLsbD 11 || inDieWindow r.frame.toNat

def Rec.setPriority (r : Rec) (p : BitVec 16) : Rec := { r with d0 := p ++ r.d0.extractLsb 47 0 }

/-- Reason of a record `wpush` refuses as illegal (R283). -/
def recFault (d0 d1 : Word64) : Option Nat :=
  let a := ((d0.extractLsb 47 0).signExtend 64 : Word64).toNat
  if d1 >>> 12 ≠ 0 then some 1
  else if a % 64 ≠ 0 ∨ !(decide (0x100000 ≤ a) && decide (a < 0x7F0000000000) || inDieWindow a) then some 2
  else none

/-! Bins of a context (R272). -/

def Ctx.bin (c : Ctx) (die b : Nat) : Bin := fget Bin.empty c.bins (die * 256 + b)
def Ctx.setBin (c : Ctx) (die b : Nat) (v : Bin) : Ctx := { c with bins := fset Bin.empty c.bins (die * 256 + b) v }
def State.bin (s : State) (ctx die b : Nat) : Bin := (s.ctx ctx).bin die b
def State.setBin (s : State) (ctx die b : Nat) (v : Bin) : State := s.setCtx ctx ((s.ctx ctx).setBin die b v)

/-- Records of a bin in its ring. -/
def Bin.ringRecs (b : Bin) : List Rec := b.ring.map Prod.snd

/-- Whether a bin holds any record. -/
def Bin.any (b : Bin) : Bool := !b.chip.isEmpty || !b.ringRecs.isEmpty

/-- Bins of a die that are listed, by number, rising. -/
def Ctx.binsOf (c : Ctx) (die : Nat) : List (Nat × Bin) :=
  c.bins.filterMap fun e => if e.1 / 256 = die then some (e.1 % 256, e.2) else none

/-- Dies that hold a press of a context, rising. -/
def Ctx.dies (c : Ctx) : List Nat := (List.range 4).filter fun d => c.cfg.presses.any fun p => p / 32 == d

/-- Whether a hart belongs to a context: its press holds it. -/
def State.inCtx (s : State) (ctx h : Nat) : Bool := (s.press (pressOfHart h)).resident == some ctx

/-- The running tasks of a context with their harts. -/
def State.tasks (s : State) (ctx : Nat) : List (Nat × Task) :=
  s.harts.filterMap fun e => if s.inCtx ctx e.1 then e.2.task.map fun t => (e.1, t) else none

/-- Free entries of a die's store: running tasks keep theirs. -/
def State.storeFree (s : State) (ctx die : Nat) : Nat :=
  262144 - (((s.ctx ctx).binsOf die).map fun e => e.2.chip.length).sum -
    ((s.tasks ctx).filter fun t => dieOfHart t.1 == die).length

/-- Whether a ring of a context has room: it holds fewer than 2^SPILLLOG records; a voided entry is none (R286). -/
def Ctx.ringRoom (c : Ctx) (b : Bin) : Bool := c.spill != 0 && decide (b.ring.length < 2 ^ c.spilllog)

/-- The first slot from `k` on that holds no record (log entry 27). -/
def freeSlot (size : Nat) (used : List Nat) : Nat → Nat → Nat
  | 0, k => k % size
  | n + 1, k => if used.contains (k % size) then freeSlot size used n (k + 1) else k % size

/-- The slot of a bin's next spilled record. -/
def Ctx.nextSlot (c : Ctx) (b : Bin) : Nat := freeSlot (2 ^ c.spilllog) (b.ring.map Prod.fst) b.ring.length b.tail

/-- Address of a ring slot (R269). -/
def Ctx.slotAddr (c : Ctx) (die b slot : Nat) : Nat :=
  c.spill.toNat + die * 2 ^ (c.spilllog + 12) + (b * 2 ^ c.spilllog + slot) * 16

/-- Storage behind a ring slot of a die for an access of the worklist unit: a window of R216 as the die's cores see it, else global
memory under the page's permission (R59). -/
def State.slotKey (s : State) (ctx die va : Nat) (acc : Acc) : Except Fail Nat :=
  if inWindow (va % 2 ^ 48) then s.resolve (die * 128) ctx (2 ^ 20) (va % 2 ^ 64) acc
  else s.translate ctx (va % 2 ^ 48) acc ((s.ctx ctx).st == .resident)

/-- Write a record's two doublewords to its ring slot, where that memory can be written (log entry 27), the watchpoints first
(R373). -/
def State.writeSlot (s : State) (ctx die va : Nat) (r : Rec) : State :=
  match s.slotKey ctx die va .store with
  | .ok key => (((s.meetWalk ctx va).watch key 16 true false).1).storeAt key (leBytes 8 r.d0.toNat ++ leBytes 8 r.d1.toNat)
  | .error _ => s

/-- A record of bin `b` read back from its ring slot: what the slot holds now, free values where it is poisoned, and the record
as pushed where the slot cannot be read (log entry 27). It stays a record of its ring's bin. -/
def State.readSlot (s : State) (ctx die va b : Nat) (r : Rec) : State × Rec :=
  match s.slotKey ctx die va .load with
  | .error _ => (s, r)
  | .ok key =>
    let s1 := (((s.meetWalk ctx va).watch key 16 false false).1).touch key 16
    let bs := if (s1.poisonedAt key 16).isSome then
        (List.range 16).map fun i => Config.staleByte (4 * s1.freeNo) 0 (key + i) 0
      else s1.bytes key 16
    let d0 : Word64 := BitVec.ofNat 64 (leNat (bs.take 8))
    ({ s1 with freeNo := s1.freeNo + 1 },
      { r with d0 := BitVec.ofNat 8 b ++ d0.extractLsb 55 0, d1 := BitVec.ofNat 64 (leNat (bs.drop 8)) })

/-- Place a record by the push rules (R272): 0 on chip, 1 in the ring, 2 refused. -/
def State.placeRec (s : State) (ctx die : Nat) (r : Rec) : State × Nat :=
  let c := s.ctx ctx
  let b := c.bin die r.bin
  let r1 := { r with arrival := s.seqNo, headerRead := false }
  let s1 := { s with seqNo := s.seqNo + 1 }
  if b.chip.length < 1024 ∧ b.ring = [] ∧ s.storeFree ctx die ≠ 0 then
    (s1.setBin ctx die r.bin { b with chip := b.chip ++ [r1] }, 0)
  else if c.ringRoom b then
    let slot := c.nextSlot b
    ((s1.setBin ctx die r.bin { b with ring := b.ring ++ [(slot, r1)], tail := (slot + 1) % 2 ^ c.spilllog }).writeSlot ctx die
      (c.slotAddr die r.bin slot) r1, 1)
  else (s, 2)

/-! The floor and eligibility (R273, R274). -/

/-- Every queued record of a context. -/
def Ctx.queued (c : Ctx) : List Rec :=
  c.bins.flatMap (fun e => e.2.chip ++ e.2.ringRecs) ++ c.flight.flatMap Batch.recs ++ c.xflight.flatMap Prod.snd

/-- The least of a list. -/
def leastOf : List Nat → Option Nat
  | [] => none
  | x :: t => match leastOf t with
    | none => some x
    | some y => some (min x y)

/-- Clocks a parked task counts on toward the floor; one more marks that it has stopped counting. -/
def parkLimit : Nat := 257

/-- The floor (R273). -/
def State.floor (s : State) (ctx : Nat) : Option Nat :=
  leastOf ((s.ctx ctx).queued.map Rec.bin ++
    ((s.tasks ctx).filter fun t => decide ((s.hart t.1).parked ≤ parkLimit)).map fun t => t.2.record.bin)

/-- Whether a bin's records are eligible (R274). -/
def State.binOk (s : State) (ctx b : Nat) : Bool :=
  match s.floor ctx with
  | some f => decide (b ≤ f + (s.ctx ctx).wbound.toNat)
  | none => false

/-! Where tasks may run (R314 to R316, R342). -/

/-- Physical core behind a logical one (R21). -/
def State.physCore (s : State) (core : Nat) : Nat :=
  dieOfCore core * 136 + (s.press (pressOfCore core)).phys * 4 + core % 4

/-- A drained core: by wear, or its press waits for repair. -/
def State.drained (s : State) (core : Nat) : Bool :=
  let l := (s.wearOf (s.physCore core)).life
  l == .drained || l == .retired || (s.press (pressOfCore core)).repair

/-- Whether a press is due for replacement (R345). -/
def State.repairDue (s : State) (press : Nat) : Bool :=
  (s.press press).repair || (List.range 4).any fun j => (s.wearOf (s.physCore (coreOfPress press + j))).life == .retired

/-- Whether a press selects by R275 alone. -/
def State.permitted (s : State) (press : Nat) : Bool :=
  let d := s.die (dieOfPress press)
  d.power == .normal || d.permitted.contains press

/-- The record served first of a list: least ORDER, then earliest arrival. -/
def firstRec : List Rec → Option Rec
  | [] => none
  | r :: t =>
    match firstRec t with
    | none => some r
    | some q => if q.order < r.order ∨ (q.order = r.order ∧ q.arrival < r.arrival) then some q else some r

/-- The lowest bin of a die that holds an eligible record which `ok` accepts. -/
def State.lowBin (s : State) (ctx die : Nat) (ok : Rec → Bool) : Option Nat :=
  if (s.ctx ctx).bins = [] then none
  else
    (List.range 256).find? fun b =>
      let v := s.bin ctx die b
      (v.chip ++ v.ringRecs).any ok && s.binOk ctx b

/-- The candidate of R275 among the records `ok` accepts: the lowest bin that holds an eligible one, then its on-chip
records. -/
def State.candidate (s : State) (ctx die : Nat) (ok : Rec → Bool) : Option Rec :=
  match s.lowBin ctx die ok with
  | none => none
  | some b => firstRec ((s.bin ctx die b).chip.filter ok)

/-- What hart `h` would select (R275, R315, R316). -/
def State.pick (s : State) (h : Nat) : Option Rec :=
  let ctx := (s.press (pressOfHart h)).resident.getD 0
  let die := dieOfHart h
  if s.drained (coreOfHart h) then none
  else if s.permitted (pressOfHart h) then s.candidate ctx die fun _ => true
  else
    let low := fun (k : Nat) => (s.lowBin ctx die fun r => r.eclass == k).isSome
    if low 0 then s.candidate ctx die fun r => r.eclass == 0
    else if low 1 then s.candidate ctx die fun r => r.eclass == 1
    else none

/-! Pre-emption requests (R293). -/

/-- Whether a hart of a context waits in `wpop` on a die. -/
def State.wpopWaits (s : State) (ctx die : Nat) : Bool :=
  s.harts.any fun e => dieOfHart e.1 == die && s.inCtx ctx e.1 && match e.2.wait with
    | .wpop _ _ => true
    | _ => false

/-- Where a hart stands among the selections of one clock (R275): by core and hart, in the Low and Critical states by the wear of
the core first (R316). -/
def State.selectRank (s : State) (h : Nat) : Nat :=
  (if (s.die (dieOfHart h)).power == .normal then 0 else (s.wearOf (s.physCore (coreOfHart h))).w) * 1024 + h % 1024

/-- Whether a hart waits in `wpop` and can select now. -/
def State.selects (s : State) (h : Nat) : Bool :=
  let H := s.hart h
  !H.csr.halt && H.sup.isNone && (match H.wait with | .wpop _ _ => true | _ => false) && (s.pick h).isSome

/-- A waiting hart that selects before hart `h` does in one clock, the first of them. -/
def State.earlier (s : State) (h : Nat) : Option Nat :=
  s.harts.foldl (fun (best : Option Nat) e =>
    if e.1 ≠ h ∧ dieOfHart e.1 = dieOfHart h ∧ (s.press (pressOfHart e.1)).resident = (s.press (pressOfHart h)).resident ∧
        s.selectRank e.1 < (best.map s.selectRank).getD (s.selectRank h) ∧ s.selects e.1 = true then some e.1 else best) none

/-- A running task that pre-emption can choose: idempotent, not halted, not chosen already (R291, R375). -/
def State.preemptible (s : State) (t : Nat × Task) : Bool :=
  let h := s.hart t.1
  !t.2.committed && !h.csr.halt && !h.preempt && !(match h.wait with | .leave _ => true | _ => false)

/-- Whether task `a` is less urgent than `b`: the larger BIN, ORDER, core and hart. -/
def lessUrgent (a b : Nat × Task) : Bool :=
  let k := fun (t : Nat × Task) => (t.2.record.bin * 256 + t.2.record.order) * 4096 + t.1 % 4096
  decide (k b < k a)

/-- The least urgent of a list. -/
def leastUrgent : List (Nat × Task) → Option (Nat × Task)
  | [] => none
  | t :: l => match leastUrgent l with
    | none => some t
    | some u => if lessUrgent u t then some u else some t

/-- A record became queued in bin `b` on a die: at most one task is chosen (R293). -/
def State.requestPreempt (s : State) (ctx die b : Nat) : State :=
  if s.wpopWaits ctx die then s
  else
    match leastUrgent ((s.tasks ctx).filter fun t =>
      dieOfHart t.1 == die && s.preemptible t && decide (b < t.2.record.bin)) with
    | some t => s.setHart t.1 { s.hart t.1 with preempt := true }
    | none => s

/-- Records have entered the context's bins: a wave fails, and what this device has confirmed alone is void (R295). -/
def State.notePush (s : State) (ctx : Nat) : State :=
  s.setCtx ctx { s.ctx ctx with pushed := true, alone := false, xwave := none }

/-- Push a record (R272, R284). -/
def State.pushRec (s : State) (ctx die : Nat) (r : Rec) : State × Nat :=
  let p := s.placeRec ctx die r
  if p.2 = 2 then p else ((p.1.notePush ctx).requestPreempt ctx die r.bin, p.2)

/-- Re-queue a record into the entry its task kept (R272). -/
def State.requeue (s : State) (ctx die : Nat) (r : Rec) : State :=
  let b := s.bin ctx die r.bin
  let s1 := s.setBin ctx die r.bin { b with chip := b.chip ++ [{ r with arrival := s.seqNo, headerRead := false }] }
  ({ s1 with seqNo := s1.seqNo + 1 }.notePush ctx).requestPreempt ctx die r.bin

/-- A record of d0 and d1. -/
def recOf (d0 d1 : Word64) : Rec := { d0 := d0, d1 := d1, arrival := 0, headerRead := false }

/-! The baseline state (R279). -/

def HartCsr.baseline (c : HartCsr) : HartCsr :=
  { HartCsr.reset with dskid := c.dskid, wphit := c.wphit, stop := c.stop, halt := c.halt, instret := c.instret }

/-- A hart in the baseline state, its lanes aside. -/
def Hart.baseline (h : Hart) (globals : Word64) : Hart :=
  { h with
    x := fset 0 [] 4 globals, v := [], p := [], csr := h.csr.baseline, loops := [], handler := false,
    pmInForce := false, task := none, window := none, pendBar := [], barAt := none, wait := .none,
    waited := 0, parked := 0, wake := none, laneFault := none, preempt := false }

/-- The acting hart takes the baseline state: its clusters are released and the arbiter serves (R203, R279). -/
def State.toBaseline (s : State) : State :=
  let h := s.me.baseline s.myCtx.globals
  (s.setMe { h with lmap := [], grant := 0 }).serve s.myCoreId

/-! Task entry (R280). -/

/-- A doubleword of a frame as the worklist unit of a core's die reads it for a context, and none if it cannot: a read like
any other, which watchpoints test (R373) and which finds latent errors (R323). -/
def State.frameWord (s : State) (core ctx : Nat) (va : Word64) : State × Option Word64 :=
  let s0 := s.meetWalk ctx va.toNat
  match s0.resolve core ctx (2 ^ 20) va.toNat .load with
  | .error _ => (s0, none)
  | .ok key =>
    let s1 := ((s0.watch key 8 false false).1).touch key 8
    (s1, if (s1.poisonedAt key 8).isSome then none else some (BitVec.ofNat 64 (s1.readLe key 8)))

/-- Several doublewords of a frame in order; none if one of them cannot be read. -/
def State.frameWords (s : State) (core ctx : Nat) : List Word64 → State × Option (List Word64)
  | [] => (s, some [])
  | va :: t =>
    let r := s.frameWord core ctx va
    let q := r.1.frameWords core ctx t
    (q.1, match r.2, q.2 with
      | some v, some l => some (v :: l)
      | _, _ => none)

/-- Addresses of ENTRY, RESUME, XMASK and SP in a frame (R271). -/
def headerWords (fr : Word64) : List Word64 := [fr, fr + 8, fr + 16, fr + 32]

/-- A frame as entry needs it: where to issue, SP, XMASK without bits 0 and 3, and the restored registers. -/
structure Frame where
  pc : Word64
  sp : Word64
  xmask : Word32
  regs : List (Nat × Word64)

/-- Registers a mask names. -/
def maskRegs (m : Word32) : List Nat := (List.range 32).filter fun i => m.getLsbD i

/-- The frame of a record as a die's unit reads it at entry (R280 steps 2 to 5): the header, then the slots of the registers it
restores; none if any of them cannot be read. -/
def State.frameOf (s : State) (core ctx : Nat) (fr : Word64) : State × Option Frame :=
  match s.frameWords core ctx (headerWords fr) with
  | (s1, some [entry, resume, m, sp]) =>
    let xmask : Word32 := m.setWidth 32 &&& 0xFFFFFFF6
    let re : BitVec 48 := resume.setWidth 48
    let names := if re = 0 then [] else maskRegs xmask
    match s1.frameWords core ctx (names.map fun i => fr + 64 + BitVec.ofNat 64 (8 * i)) with
    | (s2, some vals) =>
      (s2, some { pc := if re = 0 then canon48 (entry.setWidth 48) else canon48 re, sp := sp, xmask := xmask,
                  regs := names.zip vals })
    | (s2, none) => (s2, none)
  | (s1, _) => (s1, none)

/-- Take a record out of its bin's on-chip part. -/
def State.takeRec (s : State) (ctx die : Nat) (r : Rec) : State :=
  let b := s.bin ctx die r.bin
  s.setBin ctx die r.bin { b with chip := b.chip.filter fun q => q.arrival != r.arrival }

/-- Steps 1 to 7 of entry for the acting hart. -/
def State.enterTask (s : State) (r : Rec) (f : Frame) : State :=
  let here := s.me.pc
  let s1 := s.toBaseline
  let h := s1.me.countRetired
  let base := fset 0 (fset 0 h.x 2 f.sp) 3 r.frame
  let h1 := { h with
    x := f.regs.foldl (fun (m : FMap Word64) e => fset 0 m e.1 e.2) base, dispatchPc := here, pc := f.pc,
    task := some { record := r, xmask := f.xmask, committed := false },
    csr := { h.csr with
      wclass := BitVec.ofNat 2 r.eclass, leaseMin := BitVec.ofNat 5 r.lmin,
      leasePref := BitVec.ofNat 5 (max r.lmin r.lpref) } }
  let s2 := (s1.setMe h1).arbitrate
  if r.lmin ≤ s2.me.grant then s2.endBoundary
  else ((s2.setMe s2.me.releaseLanes).beginWait .taskLease).serve s2.myCoreId

/-- A hart granted the lease of its task's entry issues (R280 steps 6 and 7). -/
def State.taskLeaseGranted (s : State) : State :=
  if s.me.wake.isSome && !s.me.csr.halt then
    let s1 := s.endBoundary
    s1.setMe { s1.me with wait := .none, waited := 0, wake := none }
  else s

/-- An unreadable header: the record is dropped, counted, logged and reported (R280, R322, R331). -/
def State.dropRec (s : State) (r : Rec) : State :=
  let seq := s.hub.seq
  ((s.count (dieOfHart s.cur) 6).logEntry (s.myLog 16 0 (r.frame.toNat % 2 ^ 48) 0)).event (some (vfOfCtx s.myCtxId)) seq "frame record dropped"

/-- Select and enter for the acting hart, dropping unreadable records on the way; `none` when nothing can be selected. -/
def State.selectTask (s : State) : Nat → State × Bool
  | 0 => (s, false)
  | n + 1 =>
    match s.pick s.cur with
    | none => (s, false)
    | some r =>
      let s1 := s.takeRec s.myCtxId (dieOfHart s.cur) r
      match s1.frameOf s1.myCoreId s1.myCtxId r.frame with
      | (s2, some f) => (s2.enterTask r f, true)
      | (s2, none) => (s2.dropRec r).selectTask n

/-- Records on chip on the acting hart's die: a bound on the selections one `wpop` can drop. -/
def State.selectFuel (s : State) : Nat :=
  ((s.myCtx.binsOf (dieOfHart s.cur)).map fun e => e.2.chip.length).sum + 1

/-! Leaving a task (R281). -/

/-- Whether an engine command a hart pushed is not complete; one whose record only waits for room is discarded. -/
def State.engineBusy (s : State) (h : Nat) : Bool :=
  let c := s.core (coreOfHart h)
  let mine := fun (e : Engine) =>
    e.fifo.any (fun x => x.hart == h) || e.running.any fun r => r.cmd.hart == h && !r.recordWait
  mine c.eng0 || mine c.eng1

/-- Records of a hart that wait for room are discarded (R281 step 2). -/
def State.discardRecords (s : State) (h : Nat) : State :=
  let c := s.core (coreOfHart h)
  let drop := fun (e : Engine) => { e with running := e.running.filter fun r => !(r.cmd.hart == h && r.recordWait) }
  s.setCore (coreOfHart h) { c with eng0 := drop c.eng0, eng1 := drop c.eng1 }

/-- The acting hart is done with the launch: it takes the baseline state and stops issuing; completion records stay where they are
(R279, R288). -/
def State.endPart (s : State) : State :=
  let t := s.toBaseline
  t.setMe { t.me with life := .ended }

/-- Steps 2 to 4 of R281 once the acting hart's engine commands are complete: the records still in its output FIFOs are discarded, the
hart takes the baseline state and goes on at its dispatch PC. The record of a task pre-emption has stopped is queued again (R292). A
hart without a task is done with the launch instead (R288). -/
def State.leaveDone (s : State) (ends : Bool) : State :=
  if ends then s.endPart
  else
    let ctx := s.myCtxId
    let task := s.me.task
    let s1 := (s.discardRecords s.cur).toBaseline
    let s2 := s1.setMe { s1.me with out0 := [], out1 := [], pc := s1.me.dispatchPc }
    match task with
    | some t => s2.requeue ctx (dieOfHart s2.cur) t.record
    | none => s2

/-- The acting hart leaves its task, after the engine commands it has pushed (R281), or the launch: there R288 names no wait, and the
model waits too (DESIGN CHOICE, log entry 81). -/
def State.leave (s : State) (ends : Bool) : State :=
  if s.engineBusy s.cur then s.beginWait (.leave ends) else s.leaveDone ends

/-- Stores of 8 bytes the acting hart's `yield`, `commit` or `tend` makes: checked together under R79 and by the
watchpoints, then performed, all under the translation the instruction has begun with (R304, R409). -/
def State.frameStores (s : State) (stores : List (Word64 × Word64)) : Except (State × Nat × Word64) State :=
  let fail := stores.foldl (fun (best : Option (Fail × Nat)) e =>
    match s.rangeFailMe e.1.toNat 8 .store with
    | some (f, a) => worseFail best f a
    | none => best) none
  match fail with
  | some (f, a) => .error (s, f.cause, failEval f a)
  | none =>
    let w := stores.foldl (fun (acc : State × Option Nat) e =>
      let r := acc.1.watchSegs true true (acc.1.segmentsMe e.1.toNat 8 .store) 0
      (r.1, match acc.2, r.2 with
        | some a, some off => some (min a (e.1.toNat + off))
        | none, some off => some (e.1.toNat + off)
        | a, none => a)) (s, none)
    match w.2 with
    | some a => .error (w.1, 12, BitVec.ofNat 64 a)
    | none => .ok (stores.foldl (fun t e => t.storeSegs (s.segmentsMe e.1.toNat 8 .store) (leBytes 8 e.2.toNat)) w.1)

/-! The worklist instructions (R282 to R290). -/

/-- `wpush` (R284). -/
def execWpush (a b c : XReg) (s : State) : Host.Outcome State Fault Refusal :=
  match recFault (s.x b) (s.x c) with
  | some r => .next (s.illegalR 5 r)
  | none =>
    let p := s.pushRec s.myCtxId (dieOfHart s.cur) (recOf (s.x b) (s.x c))
    .next (p.1.retireX a (BitVec.ofNat 64 p.2))

/-- What a `wpop` that selects nothing writes (R285, R316): held, or empty. -/
def State.heldOrEmpty (s : State) : Word64 :=
  if !s.drained s.myCoreId && ((s.myCtx.binsOf (dieOfHart s.cur)).any fun e => e.2.any) then 1 else 2

/-- `wpop` (R285). -/
def execWpop (a b : XReg) (s : State) : Host.Outcome State Fault Refusal :=
  if s.me.task.isSome then .next (s.illegalR 5 5)
  else
    let r := s.selectTask s.selectFuel
    if r.2 then .next r.1
    else if s.x b = 0 then .next (r.1.retireX a r.1.heldOrEmpty)
    else .next (r.1.beginWait (.wpop a (s.x b)))

/-- WPOP_WAIT_SELECT (R285). -/
def State.wpopSelect (s : State) : State :=
  match s.me.wait with
  | .wpop _ _ => if s.me.csr.halt then s else (s.selectTask s.selectFuel).1
  | .taskLease => s.taskLeaseGranted
  | _ => s

def execWpopWaitSelect (hart : Nat) (s : State) : Host.Outcome State Fault Refusal :=
  .next (s.atHart hart State.wpopSelect)

/-- WPOP_WAIT_EXPIRY (R285): the wait is over and there is still nothing to select. -/
def State.wpopExpire (s : State) : State :=
  match s.me.wait with
  | .wpop rd limit =>
    if s.me.csr.halt || decide (s.me.waited < limit.toNat) || (s.pick s.cur).isSome then s else s.retireX rd s.heldOrEmpty
  | _ => s

def execWpopWaitExpiry (hart : Nat) (s : State) : Host.Outcome State Fault Refusal :=
  .next (s.atHart hart State.wpopExpire)

/-- Move one on-chip record to a new priority (R286): whether it was placed. -/
def State.moveChip (s : State) (ctx die : Nat) (r : Rec) (p : BitVec 16) : State × Bool :=
  let b := s.bin ctx die r.bin
  let s1 := s.setBin ctx die r.bin { b with chip := b.chip.filter fun q => q.arrival != r.arrival }
  let q := s1.placeRec ctx die (r.setPriority p)
  if q.2 = 2 then (s, false) else ((q.1.notePush ctx).requestPreempt ctx die (r.setPriority p).bin, true)

/-- Move one ring record: the entry it leaves is voided. -/
def State.moveRing (s : State) (ctx die : Nat) (r : Rec) (p : BitVec 16) : State × Bool :=
  let b := s.bin ctx die r.bin
  let void := b.ring.filter fun e => e.2.arrival != r.arrival
  let q := (s.setBin ctx die r.bin { b with ring := void }).placeRec ctx die (r.setPriority p)
  if q.2 = 2 then (s, false) else ((q.1.notePush ctx).requestPreempt ctx die (r.setPriority p).bin, true)

/-- Change every matching record; whether one was left (R286). -/
def State.moveAll (s : State) (ctx : Nat) (p : BitVec 16) : List (Nat × Bool × Rec) → State × Bool
  | [] => (s, false)
  | (die, chip, r) :: t =>
    let q := if chip then s.moveChip ctx die r p else s.moveRing ctx die r p
    let u := q.1.moveAll ctx p t
    (u.1, !q.2 || u.2)

/-- `wprio` (R286). -/
def execWprio (a b c : XReg) (s : State) : Host.Outcome State Fault Refusal :=
  if s.x c >>> 16 ≠ 0 then .next (s.illegalR 5 3)
  else
    let ctx := s.myCtxId
    let p : BitVec 16 := (s.x c).setWidth 16
    let hit := fun (r : Rec) => r.d0.extractLsb 47 0 == (s.x b).extractLsb 47 0
    let found := (s.ctx ctx).bins.flatMap fun e =>
      (e.2.chip.filter hit).map (fun r => (e.1 / 256, true, r)) ++ (e.2.ringRecs.filter hit).map fun r => (e.1 / 256, false, r)
    let inFlight := (s.ctx ctx).flight.any fun w => w.recs.any hit
    let flight := (s.ctx ctx).flight.map fun w =>
      if w.recs.any hit then { w with moves := w.moves ++ [((s.x b).extractLsb 47 0, p)] } else w
    let c1 := { s.ctx ctx with flight := flight }
    let m := (s.setCtx ctx c1).moveAll ctx p found
    let v : Word64 := if m.2 then 3 else if found ≠ [] ∨ inFlight then 0
      else if (s.tasks ctx).any fun t => hit t.2.record then 1 else 2
    .next (m.1.retireX a v)

/-- Close the run of the acting hart's task after its stores: the task ends and its record is queued again if asked, as one
change; then the hart leaves (R287, R288). -/
def State.endRun (s : State) (again : Option Rec) : State :=
  let s1 := s.setMe { s.me.countRetired with task := none, window := none, preempt := false }
  (match again with
    | some r => s1.requeue s1.myCtxId (dieOfHart s1.cur) r
    | none => s1).leave false

/-- `yield` (R287, R409). -/
def execYield (b : XReg) (s : State) : Host.Outcome State Fault Refusal :=
  let y := s.x b
  if y >>> 18 ≠ 0 then .next (s.illegalR 5 3)
  else
    match s.me.task with
    | none => .next (s.illegalR 5 4)
    | some t =>
      let fr := t.record.frame
      let slots := (maskRegs t.xmask).map fun i =>
        (fr + 64 + BitVec.ofNat 64 (8 * i), s.me.getX (BitVec.ofNat 5 i))
      match s.frameStores ((fr + 8, (s.me.npc.setWidth 48).setWidth 64) :: (fr + 24, 2) :: slots) with
      | .error (s1, c, ev) => .next (s1.trap c ev)
      | .ok s1 =>
        let r := if y.getLsbD 16 then t.record else t.record.setPriority (y.setWidth 16)
        .next (s1.endRun (if y.getLsbD 17 then none else some r))

/-- `commit` (R289, R409). -/
def execCommit (s : State) : Host.Outcome State Fault Refusal :=
  match s.me.task with
  | none => .next (s.illegalR 5 4)
  | some t =>
    if s.me.window.isSome then .next s.retire
    else
      match s.frameStores [(t.record.frame + 24, 1)] with
      | .error (s1, c, ev) => .next (s1.trap c ev)
      | .ok s1 => .next (s1.setMe { s1.me with task := some { t with committed := true }, window := some (0, 0) }).retire

/-- `tend` (R288, R409): ends the task, or the hart's part in the launch. -/
def execTend (s : State) : Host.Outcome State Fault Refusal :=
  match s.me.task with
  | none => .next ((s.setMe s.me.countRetired).leave true)
  | some t =>
    match s.frameStores [(t.record.frame + 24, 3)] with
    | .error (s1, c, ev) => .next (s1.trap c ev)
    | .ok s1 => .next (s1.endRun none)

/-- `wterm` (R290): a task never sees 1. -/
def execWterm (a b : XReg) (s : State) : Host.Outcome State Fault Refusal :=
  if s.myCtx.terminated && s.me.task.isNone then .next (s.retireX a 1)
  else if s.x b = 0 then .next (s.retireX a 0)
  else .next (s.beginWait (.wterm a (s.x b)))

/-- WTERM_CONFIRM (R290). -/
def State.wtermConfirmed (s : State) : State :=
  match s.me.wait with
  | .wterm rd _ => if s.me.csr.halt || !s.myCtx.terminated || s.me.task.isSome then s else s.retireX rd 1
  | _ => s

def execWtermConfirm (hart : Nat) (s : State) : Host.Outcome State Fault Refusal :=
  .next (s.atHart hart State.wtermConfirmed)

/-- WTERM_WAIT_EXPIRY (R290). -/
def State.wtermExpire (s : State) : State :=
  match s.me.wait with
  | .wterm rd limit => if s.me.csr.halt || decide (s.me.waited < limit.toNat) then s else s.retireX rd 0
  | _ => s

def execWtermWaitExpiry (hart : Nat) (s : State) : Host.Outcome State Fault Refusal :=
  .next (s.atHart hart State.wtermExpire)

/-! The unit's own steps. -/

/-- FRAME_HEADER_READ (R271): the unit reads the header of the on-chip record `idx`; entry reads it again. -/
def execFrameHeaderRead (ctx die bin idx : Nat) (s : State) : Host.Outcome State Fault Refusal :=
  let b := s.bin ctx die bin
  let s1 := match b.chip[idx]? with
    | some r => (s.frameWords (die * 128) ctx (headerWords r.frame)).1
    | none => s
  .next (s1.setBin ctx die bin
    { b with chip := b.chip.zipIdx.map fun e => if e.2 = idx then { e.1 with headerRead := true } else e.1 })

/-- Whether the unit can refill a bin (R272). -/
def State.canRefill (s : State) (ctx die bin : Nat) : Bool :=
  let b := s.bin ctx die bin
  decide (b.chip.length < 1024) && !b.ring.isEmpty && s.storeFree ctx die != 0

/-- SPILL_REFILL (R272): the record at the head of the ring is read and comes on chip. -/
def State.refill (s : State) (ctx die bin : Nat) : State :=
  let b := s.bin ctx die bin
  if s.canRefill ctx die bin then
    match b.ring with
    | [] => s
    | (slot, r) :: t =>
      let q := s.readSlot ctx die ((s.ctx ctx).slotAddr die bin slot) bin r
      q.1.setBin ctx die bin { b with ring := t, chip := b.chip ++ [q.2] }
  else s

def execSpillRefill (ctx die bin : Nat) (s : State) : Host.Outcome State Fault Refusal := .next (s.refill ctx die bin)

/-- PARK_FLOOR_TIMEOUT (R273): a task parked for more than 256 clk stops counting. -/
def State.parkOut (s : State) : State :=
  if s.me.parked = parkLimit then s.setMe { s.me with parked := parkLimit + 1 } else s

def execParkFloorTimeout (hart : Nat) (s : State) : Host.Outcome State Fault Refusal :=
  .next (s.atHart hart State.parkOut)

/-- Whether a die holds an eligible record, on chip or in a ring. -/
def State.hasEligible (s : State) (ctx die : Nat) : Bool :=
  ((s.ctx ctx).binsOf die).any fun e => s.binOk ctx e.1 && e.2.any

/-- Eligible on-chip records of a die that may move. -/
def State.movable (s : State) (ctx die : Nat) (ok : Rec → Bool) : List (Nat × Rec) :=
  ((s.ctx ctx).binsOf die).flatMap fun e =>
    if s.binOk ctx e.1 then (e.2.chip.filter fun r => !r.pinned && ok r).map fun r => (e.1, r) else []

/-- Records a die can place in an empty bin (R277). -/
def State.roomFor (s : State) (ctx die : Nat) : Nat :=
  let c := s.ctx ctx
  min 1024 (s.storeFree ctx die) + (if c.spill = 0 then 0 else 2 ^ c.spilllog)

/-- The batch a die sends for a request of `room` records: of its lowest such bin, the end it would serve last, in the
order it would have served them (R277). -/
def State.batchOf (s : State) (ctx die room : Nat) (ok : Rec → Bool) : List Rec :=
  let e := s.movable ctx die ok
  match leastOf (e.map Prod.fst) with
  | none => []
  | some b =>
    let u := (e.filter fun x => x.1 == b).map Prod.snd
    let n := min (min 32 ((e.length + 1) / 2)) (min u.length room)
    let l := sortBy (fun x y => decide (x.order * 2 ^ 64 + x.arrival ≤ y.order * 2 ^ 64 + y.arrival)) u
    l.drop (l.length - n)

def takeAll (s : State) (ctx die : Nat) : List Rec → State
  | [] => s
  | r :: t => takeAll (s.takeRec ctx die r) ctx die t

/-- RACK_REQUEST (R277). -/
def State.rackAsk (s : State) (ctx die : Nat) : State :=
  let c := s.ctx ctx
  if s.wpopWaits ctx die && !s.hasEligible ctx die && s.roomFor ctx die != 0 && !(c.flight.any fun w => w.dst == die) then
    match c.dies.find? fun d => d != die && !(s.movable ctx d fun _ => true).isEmpty with
    | none => s
    | some d =>
      let l := s.batchOf ctx d (s.roomFor ctx die) fun _ => true
      match l with
      | [] => s
      | r :: _ =>
        let s1 := takeAll s ctx d l
        let c1 := s1.ctx ctx
        s1.setCtx ctx { c1 with
          flight := c1.flight ++ [{ src := d, dst := die, bin := r.bin, recs := l, moves := [] }],
          sent := fset 0 c1.sent d (fget 0 c1.sent d + l.length) }
  else s

def execRackRequest (ctx die : Nat) (s : State) : Host.Outcome State Fault Refusal := .next (s.rackAsk ctx die)

/-- The last priority `wprio` gave to a record in flight (R286). -/
def Rec.moved (moves : List (BitVec 48 × BitVec 16)) (r : Rec) : Option (BitVec 16) :=
  (moves.reverse.find? fun m => m.1 == r.d0.extractLsb 47 0).map Prod.snd

/-- One record lands on a die as a push; one that cannot be placed is re-queued (a batch always fits, R277). -/
def State.landRec (s : State) (ctx die : Nat) (r : Rec) : State :=
  let p := s.pushRec ctx die r
  if p.2 = 2 then s.requeue ctx die r else p.1

/-- Append arrived records on a die, each with the priority `wprio` gave it in flight where the push rules can place it so. -/
def State.landAll (s : State) (ctx die : Nat) (moves : List (BitVec 48 × BitVec 16)) : List Rec → State
  | [] => s
  | r :: t =>
    (match r.moved moves with
      | none => s.landRec ctx die r
      | some q =>
        let p := s.pushRec ctx die (r.setPriority q)
        if p.2 = 2 then s.landRec ctx die r else p.1).landAll ctx die moves t

/-- RACK_ARRIVAL (R277): the oldest batch on its way to a die. -/
def State.rackLand (s : State) (ctx die : Nat) : State :=
  let c := s.ctx ctx
  match (if c.st = .resident then c.flight.find? fun w => w.dst == die else none) with
  | none => s
  | some w =>
    let c1 := { c with
      flight := c.flight.erase w, received := fset 0 c.received die (fget 0 c.received die + w.recs.length) }
    (s.setCtx ctx c1).landAll ctx die w.moves w.recs

def execRackArrival (ctx die : Nat) (s : State) : Host.Outcome State Fault Refusal := .next (s.rackLand ctx die)

/-- Other devices a context spans, as far as its VF has memory there (R306). -/
def State.peers (s : State) (ctx : Nat) : List Nat := ((s.vf (vfOfCtx ctx)).remote.map Prod.fst).eraseDups

/-- Whether this device asks the others of a context for records (R278): none of its dies holds an eligible record, and a hart
waits. -/
def State.wantsRecords (s : State) (ctx : Nat) : Bool :=
  let c := s.ctx ctx
  c.st == .resident && !(s.peers ctx).isEmpty && (c.dies.any fun d => s.wpopWaits ctx d) &&
    !(c.dies.any fun d => s.hasEligible ctx d)

/-- A batch of XDEV records leaves for another device that can place `n`; it is in flight until the receiver has appended it. -/
def State.xsend (s : State) (ctx n : Nat) : State :=
  let c := s.ctx ctx
  match (if c.st = .resident then c.dies.find? fun d => !(s.movable ctx d Rec.xdev).isEmpty else none) with
  | none => s
  | some d =>
    let l := s.batchOf ctx d n Rec.xdev
    let s1 := takeAll s ctx d l
    let c1 := s1.ctx ctx
    s1.setCtx ctx { c1 with xflight := c1.xflight ++ [(d, l)], xsent := c1.xsent + l.length }

/-- XDEV records of another device that was asked arrive, on the lowest die with a waiting hart. -/
def State.xland (s : State) (ctx : Nat) (l : List Rec) : State :=
  let c := s.ctx ctx
  if c.st = .resident ∧ c.asked ≠ 0 then
    (s.setCtx ctx { c with asked := c.asked - 1, xreceived := c.xreceived + l.length }).landAll ctx
      ((c.dies.find? fun d => s.wpopWaits ctx d).getD (c.dies.headD 0)) [] l
  else s

/-- DEVICE_RACK (R278): with neither, this device asks the others of the context; with `ask` = n another device asks and can
place n records, or with n = 0 it has appended the oldest batch sent; with records, those of another device arrive
(log entry 53). -/
def State.deviceRack (s : State) (ctx : Nat) (ask : Option Nat) (recs : List (Word64 × Word64)) : State :=
  let c := s.ctx ctx
  match ask, (recs.map fun r => recOf r.1 r.2).filter Rec.xdev with
  | none, [] => if s.wantsRecords ctx then s.setCtx ctx { c with asked := (s.peers ctx).length } else s
  | some 0, [] => s.setCtx ctx { c with xflight := c.xflight.drop 1 }
  | some n, [] => s.xsend ctx n
  | _, l => s.xland ctx l

def execDeviceRack (ctx : Nat) (ask : Option Nat) (recs : List (Word64 × Word64)) (s : State) :
    Host.Outcome State Fault Refusal :=
  .next (s.deviceRack ctx ask recs)

/-- Whether a hart's task can be stopped now (R291): idempotent, outside handler mode, no pending barrier generation, at a point
between its instructions (R281 step 1), not halted (R375) and not with a supervisor core. -/
def State.canPreempt (s : State) (h : Nat) : Bool :=
  let H := s.hart h
  (match H.task with | some t => !t.committed | none => false) && !H.handler && H.pendBar.isEmpty && !H.csr.halt &&
    H.sup.isNone && !H.wait.completes && !H.wait.goesOn

/-- PREEMPTION (R291, R292): the task is stopped, its hart leaves once its engine commands are complete, and its record is
queued again unchanged; a request that cannot be met yet stands. -/
def State.preemptMe (s : State) : State :=
  if s.canPreempt s.cur then s.leave false
  else if s.me.task.isSome then s.setMe { s.me with preempt := true }
  else s

def execPreemption (hart : Nat) (s : State) : Host.Outcome State Fault Refusal :=
  .next (s.atHart hart State.preemptMe)

/-- Clocks of a commit window (R268, R294): 0 means 20 µs. -/
def Ctx.windowClk (c : Ctx) : Nat := (if c.cwin = 0 then 20 else c.cwin) * 1800

/-- COMMIT_WINDOW_EXPIRY (R294): cause 15 to a supervisor with the task's FRAME. -/
def State.windowExpire (s : State) : State :=
  match s.me.window, s.me.task with
  | some (t, n), some k =>
    if decide (s.myCtx.windowClk ≤ t) && s.me.sup.isNone then
      s.setMe { (s.me.stopForSupervisor 15 k.record.frame s.me.csr.vri) with
        window := some (0, n + 1), wait := s.me.wait, waited := s.me.waited, parked := s.me.parked,
        wake := s.me.wake }
    else s
  | _, _ => s

def execCommitWindowExpiry (hart : Nat) (s : State) : Host.Outcome State Fault Refusal :=
  .next (s.atHart hart State.windowExpire)

/-- Whether a die's unit is idle for a context (R295). -/
def State.dieIdle (s : State) (ctx die : Nat) : Bool :=
  !(((s.ctx ctx).binsOf die).any fun e => e.2.any) && !((s.tasks ctx).any fun t => dieOfHart t.1 == die) &&
    !((s.ctx ctx).flight.any fun w => w.src == die || w.dst == die) &&
    !((s.ctx ctx).xflight.any fun w => w.1 == die)

/-- A wave of this device: two clean ones with equal unchanged totals and no push between confirm termination here, which is
all for a context of one device. -/
def State.localWave (s : State) (ctx : Nat) : State :=
  let c := s.ctx ctx
  let totals := ((c.sent.map Prod.snd).sum, (c.received.map Prod.snd).sum)
  let clean := (c.dies.all fun d => s.dieIdle ctx d) && totals.1 == totals.2 && !c.pushed
  let done := clean && c.waveClean && c.waveTotals == totals
  s.setCtx ctx { c with
    waveClean := clean, waveTotals := totals, pushed := false, alone := done,
    terminated := c.terminated || (done && (s.peers ctx).isEmpty) }

/-- A wave across devices, once this one has confirmed alone: the totals of this device and of the others, as they report
them. -/
def State.deviceWave (s : State) (ctx : Nat) (idle : Bool) (sent received : Nat) : State :=
  let c := s.ctx ctx
  let totals := (c.xsent + sent, c.xreceived + received)
  let clean := idle && (c.dies.all fun d => s.dieIdle ctx d) && totals.1 == totals.2 && !c.pushed
  s.setCtx ctx { c with
    xwave := if clean then some totals else none, pushed := false, peer := none,
    terminated := c.terminated || (clean && c.xwave == some totals) }

/-- TERMINATION_WAVE (R295): a wave starts while the context's lowest die is idle. -/
def State.wave (s : State) (ctx : Nat) : State :=
  let c := s.ctx ctx
  if c.st ≠ .resident ∨ !s.dieIdle ctx (c.dies.headD 0) then s
  else if c.alone ∧ !(s.peers ctx).isEmpty then
    match c.peer with
    | some (idle, sent, received) => s.deviceWave ctx idle sent received
    | none => s
  else s.localWave ctx

/-- The other devices of a context report to a wave across devices. -/
def State.peerReport (s : State) (ctx : Nat) (idle : Bool) (sent received : Nat) : State :=
  s.setCtx ctx { s.ctx ctx with peer := some (idle, sent, received) }

def execTerminationWave (ctx : Nat) (s : State) : Host.Outcome State Fault Refusal := .next (s.wave ctx)

end Sys2Proof.Machine
end

