-- ==== Sys2Proof/Machine/Context.lean ====
section
/-!
DEFINITION. Contexts (R297 to R312): finishing a core's issued work, saving a context to its save area and restoring it,
starting a launch's harts, residency slices, the cellar reload, page walks that fill the TLBs.
-/
namespace Sys2Proof.Machine

/-! The units of a context. -/

/-- Cores of a context's presses, PRESSIDX by PRESSIDX. -/
def Ctx.coreList (c : Ctx) : List Nat := c.cfg.presses.flatMap fun p => (List.range 4).map fun j => coreOfPress p + j

/-- Harts of a context's presses. -/
def Ctx.hartList (c : Ctx) : List Nat := c.coreList.flatMap hartsOf

/-- Whether any press of a context has another context resident. -/
def State.pressesBusy (s : State) (ctx : Nat) : Bool :=
  (s.ctx ctx).cfg.presses.any fun p => match (s.press p).resident with
    | some c => c != ctx
    | none => false

/-- Whether two contexts share a press. -/
def State.sharePress (s : State) (a b : Nat) : Bool :=
  (s.ctx a).cfg.presses.any fun p => (s.ctx b).cfg.presses.contains p

/-- Contexts waiting to become resident (R299). -/
def State.waitingCtxs (s : State) : List Nat := (List.range 64).filter fun c => (s.ctx c).st == .saved

/-- The entries of a press's tenure that the last 1 ms before a clock still sees. -/
def recentTenure (clk : Nat) : List (Nat × Option Nat) → List (Nat × Option Nat)
  | [] => []
  | (t, c) :: l => if t + 1800000 ≤ clk then [(t, c)] else (t, c) :: recentTenure clk l

/-- Whether a resident context keeps a waiting one off its presses. -/
def State.hasRival (s : State) (ctx : Nat) : Bool := s.waitingCtxs.any fun c => c != ctx && s.sharePress ctx c

/-- Set the context resident on the presses of `ctx`; what was resident in the last 1 ms is remembered (R317). -/
def State.setResident (s : State) (ctx : Nat) (v : Option Nat) : State :=
  (s.ctx ctx).cfg.presses.foldl (fun t p =>
    let q := t.press p
    t.setPress p { q with resident := v, tenure := (s.clk, v) :: recentTenure s.clk q.tenure }) s

/-! Copies of whole areas by the firmware. -/

/-- Drop the bytes, free areas, poison and flaws of [lo, lo + n). -/
def State.clearArea (s : State) (lo n : Nat) : State :=
  let out := fun (u : Nat) => decide (u * 32 < lo) || decide (lo + n ≤ u * 32)
  { s with
    mem := s.mem.filter fun e => decide (e.1 < lo) || decide (lo + n ≤ e.1), stale := cutArea lo (lo + n) s.stale,
    poison := ffilter out s.poison, inband := ffilter out s.inband, flaws := ffilter out s.flaws }

/-- A read of [lo, lo + n) meets its latent flaws (R323). -/
def State.touchArea (s : State) (lo n : Nat) : State :=
  s.flaws.foldl (fun t e => if lo ≤ e.1 * 32 ∧ e.1 * 32 < lo + n then t.findFlaw (e.1 * 32) else t) s

/-- Write [lo, lo + n) with bytes no rule fixes. -/
def State.scrub (s : State) (lo n : Nat) : State := ((s.clearArea lo n).forget lo (lo + n)).noteWrite lo n

/-- A store of bytes for a VF by the firmware, under the VF's key (R366). -/
def State.storeFor (s : State) (vf key : Nat) (bs : List Byte) : State :=
  ((s.setBytesFor vf key bs).clearPoison key bs.length).noteWrite key bs.length

/-- Whether a VF reads memory at a key in the clear, but for marked areas (R366). -/
def State.clearFor (s : State) (vf key : Nat) : Bool := !isPhys key || s.ownsPa vf key

/-- Bytes of [lo, lo + n) were written under a VF's key, be the memory another's now (R366). -/
def State.underKey (s : State) (vf lo n : Nat) : State :=
  if s.clearFor vf lo then s else { s with stale := (lo, lo + n, s.markOf lo (s.vkey vf)) :: cutArea lo (lo + n) s.stale }

/-- Copy `n` bytes for a VF, poison with them (R327); what its key does not read in the clear becomes free values (R366), and free
values stay free. -/
def State.copyArea (s : State) (vf src dst n : Nat) : State :=
  let s0 := s.touchArea src n
  let vals := s0.mem.filter fun e => decide (src ≤ e.1) && decide (e.1 < src + n)
  let read := fun (a : Nat × Nat × (Nat × Nat)) =>
    if s0.clearFor vf src then a.2.2.1 % 4 == 3 else decide (2 ≤ a.2.2.1 % 4) && a.2.2.1 / 4 == s0.vkey vf
  let hidden := fun (a : Nat × Nat × (Nat × Nat)) => !read a && decide (a.1 < src + n) && decide (src < a.2.1)
  let areas := if s0.clearFor vf src then s0.stale.filter hidden
    else (s0.stale.filter read).foldl (fun l a => cutArea a.1 a.2.1 l) [(src, src + n, 0, 0)]
  let bad := if (s0.poisonedAt src n).isNone then [] else
    (List.range (n / 32)).filter fun i => (s0.poisonedAt (src + 32 * i) 32).isSome
  let s1 := s0.clearArea dst n
  let s2 := vals.foldl (fun t e => t.setByte (dst + (e.1 - src)) e.2) s1
  let s3 := areas.foldl (fun t a => t.forget (dst + (a.1 - src)) (dst + (min a.2.1 (src + n) - src))) s2
  ((bad.foldl (fun t i => t.markPoison (dst + 32 * i)) s3).underKey vf dst n).noteWrite dst n

/-- Bytes as the firmware reads them back for a VF; those of a poisoned unit are free values. -/
def State.areaBytes (s : State) (vf key n : Nat) : List Byte :=
  if (s.poisonedAt key n).isNone then s.bytesFor vf key n
  else (List.range n).map fun i =>
    if (s.poisonedAt (key + i) 1).isSome then Config.staleByte (4 * s.freeNo) 0 (key + i) 0 else s.byteFor vf (key + i)

/-! Issued work runs out (R309 steps 1 to 3, R333). -/

/-- The matrix commands and tiles of a core's harts run out; no test stalls the queue. -/
def State.settleMatrix (s : State) (core : Nat) : Nat → State
  | 0 => s
  | n + 1 =>
    let s1 := (hartsOf core).foldl (fun t k => match (t.hart k).wait with
      | .tile _ _ _ _ _ => t.atHart k State.tileArrives
      | _ => t) s
    (s1.matrixNext core).settleMatrix core n

/-- Engine commands of a core that still have work to do. -/
def Core.engWork (c : Core) : List Cmd :=
  c.eng0.fifo ++ c.eng1.fifo ++ ((c.eng0.running ++ c.eng1.running).filter fun r => !r.recordWait).map Running.cmd

/-- One round of a core's engines: whatever may start starts, whatever runs goes on or completes. -/
def State.engRound (s : State) (core : Nat) : State :=
  (s.core core).engWork.foldl (fun t c =>
    ((t.engineStart core c.eng c.seq).chunkRelease core c.seq).commandDone core c.eng c.seq) s

/-- A core's engines finish their queued commands. -/
def State.settleEngines (s : State) (core : Nat) : Nat → State
  | 0 => s
  | n + 1 => if (s.core core).engWork = [] then s else (s.engRound core).settleEngines core n

/-- Rounds that suffice: a decode takes at least one byte of its source a round. -/
def Core.engFuel (c : Core) : Nat := (c.engWork.map fun x => x.len.toNat + 2).sum

/-- Everything a core has issued or queued completes or faults. -/
def State.settleCore (s : State) (core : Nat) : State :=
  let s1 := s.settleMatrix core 24
  s1.settleEngines core (s1.core core).engFuel

/-! The save area (R310). -/

/-- Where the area of core `j` of PRESSIDX `i` begins. -/
def Ctx.coreArea (c : Ctx) (i j : Nat) : Nat := c.cfg.savebase + i * 0x800000 + j * 0x190000

/-- Where core `j`'s image of a plane begins. -/
def Ctx.imageArea (c : Ctx) (i j plane : Nat) : Nat :=
  c.cfg.savebase + i * 0x800000 + 0x640000 + j * 0x40000 + plane * 0x20000

/-- The hart-owned control registers in number order. -/
def ownedCsrs : List Nat :=
  [0x000, 0x001, 0x002, 0x003, 0x004, 0x008, 0x009, 0x020, 0x021, 0x022, 0x023, 0x024, 0x025, 0x026, 0x027, 0x028,
   0x029, 0x02A, 0x02B, 0x040, 0x041, 0x042, 0x043, 0x050, 0x052, 0x7B0, 0x7B1, 0xC01, 0xF00]

/-- Save hart `h` at `at_`; the bytes R310 does not fix are free values already. -/
def State.saveHart (s : State) (vf h at_ : Nat) : State :=
  let H := s.hart h
  let put := fun (t : State) (off : Nat) (bs : List Byte) => t.storeFor vf (at_ + off) bs
  let s1 := put s 0 ((List.range 32).flatMap fun i => leBytes 8 (H.getX (BitVec.ofNat 5 i)).toNat)
  let s2 := put s1 0x100 ((List.range 32).flatMap fun i => leBytes 4 (H.getV (BitVec.ofNat 5 i)).descBits.toNat)
  let s3 := put s2 0x180 ((List.range 16).flatMap fun i => leBytes 32 (H.getP (BitVec.ofNat 4 i)).toNat)
  let vals := ownedCsrs.map fun n => (((s.actAs h).csrRead n).getD 0).toNat
  let s4 := put s3 0x380 (((vals ++ [0, 0, 0]).flatMap fun v => leBytes 8 v))
  let recs := fun (l : List CompletionRec) => l.flatMap fun r => leBytes 8 r.word0.toNat ++ leBytes 8 r.detail.toNat
  let s5 := put (put s4 0x4C0 (recs H.out0)) 0x5C0 (recs H.out1)
  put s5 0x6C0 (leBytes 8 H.pc.toNat)

/-- The rows of a core's pools that are in use (R310): the physical cluster, the row's number there, the hart, its register,
the logical cluster and the row of the register. A cluster's rows in use are numbered by hart, register and row (log
entry 11). -/
def rowsInUse (hart : Nat → Hart) (core : Nat) : List (Nat × Nat × Nat × Nat × Nat × Nat) :=
  (List.range 16).flatMap fun k =>
    ((hartsOf core).flatMap fun h => (List.range (hart h).lmap.length).flatMap fun c =>
      if (hart h).lmap[c]? = some k then
        (hart h).v.flatMap fun e => (List.range (e.2.rowsAt c)).map fun j => (h, e.1, c, j)
      else []).zipIdx.map fun e => (k, e.2, e.1.1, e.1.2.1, e.1.2.2.1, e.1.2.2.2)

/-- Where row `n` of cluster `k` lies in a core's save area. -/
def rowAddr (at_ k n : Nat) : Nat := at_ + 0x100000 + k * 0x8000 + 64 * n

/-- Save the rows in use, poisoned bank words as poison. -/
def State.saveRows (s : State) (vf core at_ : Nat) : State :=
  (rowsInUse s.hart core).foldl (fun t (k, n, h, r, c, j) =>
    let v := fget VRegister.zero (s.hart h).v r
    let a := rowAddr at_ k n
    let bad := fun (half : Nat) => v.badRow (16 * c + 8 * half) j
    let t1 := t.storeFor vf a ((List.range 16).flatMap fun i => leBytes 4 (v.row (16 * c + i) j).toNat)
    let t2 := if bad 0 then t1.markPoison a else t1
    if bad 1 then t2.markPoison (a + 32) else t2) s

/-- Save a core's queues. -/
def State.saveQueues (s : State) (vf core at_ : Nat) : State :=
  let c := s.core core
  (List.range 4).foldl (fun t q =>
    let l := c.queue q
    let t1 := t.storeFor vf (at_ + 0x184000 + 0x80 * q) (l.flatMap fun e => leBytes 8 e.1.toNat)
    let t2 := l.zipIdx.foldl (fun u e => if e.1.2 then u.markPoison (at_ + 0x184000 + 0x80 * q + 8 * e.2) else u) t1
    t2.storeFor vf (at_ + 0x184200 + 4 * q) (leBytes 4 l.length)) s

/-- A plane's blocks as a switch saves them (R311): under MPOL = 1 resolved to f32 first, with the flags of that. -/
def savedBlocks (mpol : Bool) (l : List Block) : List Block × FpFlags :=
  if mpol then
    let r := l.map fun b => if b.res.isSome then (b, flNone) else b.resolve .rne false .f32
    (r.map Prod.fst, r.foldl (fun f e => f ||| e.2) flNone)
  else (l, flNone)

/-- NV, OF, UF, NX as H3 holds them. -/
def h3Flags (f : FpFlags) : Nat :=
  (if f.getLsbD 4 then 8 else 0) + (if f.getLsbD 2 then 4 else 0) + (if f.getLsbD 1 then 2 else 0) +
    (if f.getLsbD 0 then 1 else 0)

/-- The cells of a block that 32-byte word `j` of its image holds a part of. -/
def imageCells (res : Option ElemTy) (j : Nat) : List Nat :=
  let n := match res with | none => 20 | some t => t.width / 8
  (List.range ((32 * j + 31) / n - 32 * j / n + 1)).map fun i => 32 * j / n + i

/-- Whether 32-byte word `j` of a block's image is saved as poison: an unresolved block's image is what its bank words hold. -/
def Block.imageBad (b : Block) (j : Nat) : Bool :=
  b.anyBad && match b.res with
    | none => fget false b.bad j
    | some _ => (imageCells b.res j).any b.cellBad

/-- The bank words of a block that poison in word `j` of its image falls on when it is restored. -/
def imageWords (res : Option ElemTy) (j : Nat) : List Nat :=
  match res with
  | none => [j]
  | some _ => (imageCells res j).flatMap cellWords

/-- Bytes of the blocks before each one in an image's data. -/
def imageStart (l : List Block) (k : Nat) : Nat := 32 + ((l.take k).map Block.imageBytes).sum

/-- Save core `core`'s rows of a plane at `at_` (R195, R311); poisoned bank words are saved as poison. -/
def State.savePlane (s : State) (vf core plane at_ : Nat) (mpol : Bool) : State :=
  let c := s.core core
  let r := savedBlocks mpol (c.blocks.map ((s.press (pressOfCore core)).blk plane))
  let data := r.1.zipIdx.flatMap fun e => e.1.image (s.freeNo + 1536 * e.2)
  let h0 := 0x5A03 * 2 ^ 48 + 16 * c.blocks.length * 2 ^ 32
  let s1 := s.storeFor vf at_ (leBytes 8 h0 ++ imageHeader r.1 (c.stickyBits plane) (h3Flags r.2) ++ data)
  let s2 := r.1.zipIdx.foldl (fun t e =>
    ((List.range (e.1.imageBytes / 32)).filter e.1.imageBad).foldl (fun u i =>
      u.markPoison (at_ + imageStart r.1 e.2 + 32 * i)) t) s1
  { s2 with freeNo := s2.freeNo + 1536 * c.blocks.length }

/-- Save a core (R309 steps 3 to 7). -/
def State.saveCore (s : State) (ctx i j : Nat) (core : Nat) : State :=
  let c := s.ctx ctx
  let a := c.coreArea i j
  let vf := vfOfCtx ctx
  let s1 := s.scrub (a + 0x180000) 0x5000
  let s2 := (s1.savePlane vf core 0 (c.imageArea i j 0) (c.cfg.mpol == 1)).savePlane vf core 1 (c.imageArea i j 1)
    (c.cfg.mpol == 1)
  let s3 := (List.range 8).foldl (fun t h => t.saveHart vf (core * 8 + h) (a + 0x180000 + h * 0x800)) s2
  ((s3.saveRows vf core a).saveQueues vf core a).copyArea vf (spadKey core 0) a (2 ^ 20)

/-- Barriers bound to a context, and the others. -/
def barsOfCtx (ctx : Nat) (b : FMap Barrier) : FMap Barrier :=
  b.filter fun e => match e.2.bound with | some (c, _, _) => c == ctx | none => false

def barsNotOf (ctx : Nat) (b : FMap Barrier) : FMap Barrier :=
  b.filter fun e => match e.2.bound with | some (c, _, _) => c != ctx | none => true

/-- Barriers with the numbers they get among those a unit has bound meanwhile: its own where that is free, else the lowest free
one, else one of the supervisor's from `limit` up (R251; log entry 11). -/
def rebind (limit : Nat) : FMap Barrier → FMap Barrier → FMap Barrier
  | have_, [] => have_
  | have_, (n, b) :: t =>
    let used := fun (k : Nat) => (fget Barrier.reset have_ k).bound.isSome
    let free := (List.range (limit + have_.length + 1)).find? fun k => !used k
    rebind limit (fset Barrier.reset have_ (if used n then free.getD n else n) b) t

/-- A hart as it goes into a snapshot: its wait ends, to issue again, but for a wait at a barrier it has arrived at, for
its task's lease and for its engine commands before it leaves; a timer of R215, R222 or R232 keeps its count (R307, R308). -/
def Hart.saved (h : Hart) : Hart :=
  match h.wait with
  | .bar _ _ => h
  | .taskLease => { h with wake := none }
  | .none | .leave _ => h
  | w => { h with wait := .none, waited := if w.carries then h.waited else 0, parked := 0, wake := none }

/-- What a core keeps when its context leaves: clusters, rows, queues and windows are released. The B buffers, which a switch does
not save (R170), keep what is in them: DESIGN CHOICE, log entry 85. -/
def Core.released (c : Core) (ctx : Nat) : Core :=
  { c with
    q := [], shift := 0, inx0 := false, ovf0 := false, inx1 := false, ovf1 := false, blocks := [], win0 := 0, win1 := 0,
    winSync := 0, bars := barsNotOf ctx c.bars }

/-- A hart whose context has left. -/
def Hart.released (h : Hart) : Hart :=
  { h with
    life := .off, v := [], lmap := [], grant := 0, age := 0, wait := .none, waited := 0, parked := 0, wake := none,
    sup := none, supNext := [], stepping := false, stepDone := false, stopPend := [], haltPend := false, preempt := false,
    task := none, window := none, barAt := none, flit := false, out0 := [], out1 := [], csr := { h.csr with halt := false, stop := 0 } }

/-- What of a context's state R310 fixes no bytes for. A hart keeps the map and the number of its clusters, and is given them back
when it resumes: R23 does not say in which order leases are requested again (DESIGN CHOICE, log entry 11). -/
def State.snapshot (s : State) (ctx : Nat) : Saved :=
  let c := s.ctx ctx
  { harts := c.hartList.foldl (fun m h => fset Hart.reset m h (s.hart h).saved) [],
    cores := c.coreList.foldl (fun m k =>
      let x := s.core k
      fset Core.reset m k { Core.reset with
        shift := x.shift, blocks := x.blocks, win0 := x.win0, win1 := x.win1, winSync := x.winSync, eng0 := x.eng0,
        eng1 := x.eng1, bars := barsOfCtx ctx x.bars }) [],
    pressBars := c.cfg.presses.foldl (fun m p => fset [] m p (barsOfCtx ctx (s.press p).bars)) [],
    dieBars := c.dies.foldl (fun m d => fset [] m d (barsOfCtx ctx (s.die d).bars)) [] }

/-- Whether a core's engines hold no command but those that wait for room for their records. -/
def dropRecords (e : Engine) : Engine := { e with running := [] }

/-- The presses, cores and harts of a context after step 8. -/
def State.releaseUnits (s : State) (ctx : Nat) : State :=
  let c := s.ctx ctx
  let s1 := c.hartList.foldl (fun t h => t.setHart h (t.hart h).released) s
  let s2 := c.coreList.foldl (fun t k =>
    let x := (t.core k).released ctx
    t.setCore k { x with eng0 := dropRecords x.eng0, eng1 := dropRecords x.eng1 }) s1
  let s3 := c.cfg.presses.foldl (fun t p =>
    t.setPress p { t.press p with blocks := [], bars := barsNotOf ctx (t.press p).bars }) s2
  c.dies.foldl (fun t d => t.setDie d { t.die d with bars := barsNotOf ctx (t.die d).bars }) s3

/-- Whether a switch out can run: no test stalls a press's queue, no frozen engine holds a command (R329, R375). -/
def State.canSwitchOut (s : State) (ctx : Nat) : Bool :=
  let c := s.ctx ctx
  c.st == .resident && c.leaving && !(c.cfg.presses.any fun p => (s.press p).stallMatrix) &&
    !(c.coreList.any fun k => s.engFrozen k && (s.core k).engWork != [])

/-- The areas of a press's barriers and windows and, in the block of the lowest PRESSIDX on a die, of the die's barriers: R310
gives them no format. -/
def State.forgetBarriers (s : State) (ctx : Nat) : State :=
  let c := s.ctx ctx
  c.cfg.presses.zipIdx.foldl (fun t e =>
    let a := c.cfg.savebase + e.2 * 0x800000 + 0x740000
    let first := !((c.cfg.presses.take e.2).any fun p => dieOfPress p == dieOfPress e.1)
    t.scrub a (if first then 0x1000 else 0x800)) s

/-- CONTEXT_SWITCH_OUT (R307 to R311): issued work runs out, windows close, the state goes to the save area, the presses
are released. -/
def State.switchOut (s : State) (ctx : Nat) : State :=
  if s.canSwitchOut ctx then
    let c := s.ctx ctx
    let s1 := c.coreList.foldl (fun t k => t.settleCore k) s
    let s2 := c.coreList.foldl (fun t k => t.setCore k { t.core k with win0 := 0, win1 := 0 }) s1
    let snap := s2.snapshot ctx
    let s3 := (c.cfg.presses.zipIdx).foldl (fun t e =>
      (List.range 4).foldl (fun u j => u.saveCore ctx e.2 j (coreOfPress e.1 + j)) t) (s2.forgetBarriers ctx)
    let s4 := (s3.releaseUnits ctx).setResident ctx none
    let s5 := s4.setCtx ctx { s4.ctx ctx with
      st := .saved, leaving := false, slice := 0, saved := some snap, savedOrder := s4.seqNo }
    { s5 with seqNo := s5.seqNo + 1 }
  else s

def execContextSwitchOut (ctx : Nat) (s : State) : Host.Outcome State Fault Refusal := .next (s.switchOut ctx)

/-! The way in. -/

/-- The cellar of a press becomes the context's (R312). -/
def State.reloadCellar (s : State) (ctx : Nat) : State :=
  let c := s.ctx ctx
  c.cfg.presses.zipIdx.foldl (fun t e =>
    if (t.press e.1).cellarCtx = some ctx then t
    else
      let t1 := if c.cfg.cellarimg = 0 then t.clearArea (cellarKey e.1 0) 20971520
        else t.copyArea (vfOfCtx ctx) (c.cfg.cellarimg + e.2 * 20971520) (cellarKey e.1 0) 20971520
      t1.setPress e.1 { t1.press e.1 with cellarCtx := some ctx }) s

/-- The harts of a launch start at KREC + 32 (R269, R279). Completion records of an earlier launch are gone (log entry 81). -/
def State.startHarts (s0 : State) (ctx : Nat) : State :=
  let c := s0.ctx ctx
  let s := c.coreList.foldl (fun (t : State) k =>
    let x := t.core k
    t.setCore k { x with eng0 := dropRecords x.eng0, eng1 := dropRecords x.eng1 }) s0
  c.hartList.foldl (fun t h =>
    let H := (t.hart h).baseline c.globals
    let on := c.hartmask.getLsbD (h % 8)
    t.setHart h { H with
      life := if on then .running else .off, pc := c.krec + 32, header := c.header, lmap := [], grant := 0, age := 0,
      dispatchPc := 0, sup := none, out0 := [], out1 := [] }) s

/-- A field of a hart's control registers from the save area. `VL` stays within the lanes the hart holds; one that waits at
`lease` holds none and has the `VL` it was saved with (R23). -/
def Hart.loadCsr (h : Hart) (n : Nat) (v : Word64) : Hart :=
  let c := h.csr
  let lv := fun (k : Nat) (f : LoopLevel → LoopLevel) => h.setLevel k (f (h.level k))
  let a : BitVec 48 := v.setWidth 48 &&& ~~~3#48
  match n with
  | 0x000 => { h with csr := { c with vl := BitVec.ofNat 9 (min (v.toNat % 512) (if h.grant = 0 then c.vl.toNat else h.stripCap)) } }
  | 0x001 => { h with csr := { c with vrem := v.setWidth 48 } }
  | 0x002 => { h with csr := { c with leasePref := v.extractLsb 28 24, leaseMin := v.extractLsb 20 16 } }
  | 0x003 => { h with csr := { c with vpolPm := v.getLsbD 1, vpolTd := v.getLsbD 0 } }
  | 0x004 => { h with csr := { c with vri := v.setWidth 9 } }
  | 0x008 => { h with csr := { c with ftz := v.getLsbD 3, rm := if v.toNat % 8 < 5 then v.setWidth 3 else c.rm } }
  | 0x009 => { h with csr := { c with fflags := v.setWidth 6 } }
  | 0x020 | 0x021 | 0x022 | 0x023 => lv (n - 0x020) fun l => { l with count := v.setWidth 32 }
  | 0x024 | 0x025 | 0x026 | 0x027 => lv (n - 0x024) fun l => { l with start := a }
  | 0x028 | 0x029 | 0x02A | 0x02B => lv (n - 0x028) fun l => { l with stop := a }
  | 0x040 => { h with csr := { c with epc := a } }
  | 0x041 => { h with csr := { c with ecause := v.setWidth 6 } }
  | 0x042 => { h with csr := { c with eval := v } }
  | 0x043 => { h with csr := { c with etvec := a } }
  | 0x050 => { h with csr := { c with role := v.setWidth 2 } }
  | 0x052 => { h with csr := { c with wclass := v.setWidth 2 } }
  | 0x7B0 => { h with csr := { c with dskid := v.setWidth 16 } }
  | 0x7B1 => { h with csr := { c with wphit := v.extractLsb 15 8, stop := v.extractLsb 4 1, halt := v.getLsbD 0 } }
  | 0xC01 => { h with csr := { c with instret := v } }
  | _ => h

/-- The rows of a core's pools from its save area, as the snapshot numbers them. -/
def State.loadRows (s : State) (vf : Nat) (snap : Saved) (core at_ : Nat) : State :=
  let s0 := s.touchArea (at_ + 0x100000) 0x80000
  (rowsInUse (fun h => fget Hart.reset snap.harts h) core).foldl (fun t (k, n, h, r, c, j) =>
    let a := rowAddr at_ k n
    let bs := s0.bytesFor vf a 64
    let v := fget VRegister.zero (t.hart h).v r
    let w := (List.range 16).foldl (fun (u : VRegister) i =>
      let bad := (s0.poisonedAt (a + i / 8 * 32) 32).isSome
      { u with
        data := fset 0 u.data ((16 * c + i) * 256 + j) (BitVec.ofNat 32 (leNat ((bs.drop (4 * i)).take 4))),
        bad := fset false u.bad ((16 * c + i) / 8 * 256 + j) bad }) v
    t.setHart h { t.hart h with v := fset VRegister.zero (t.hart h).v r w }) s0

/-- A completion record from the two doublewords of its place in the save area (R231, R310); TRAPF is not among them. -/
def CompletionRec.load (r : CompletionRec) (w0 w1 : Nat) : CompletionRec :=
  { r with
    seq := BitVec.ofNat 32 (w0 / 2 ^ 32), tag := BitVec.ofNat 16 (w0 / 2 ^ 16), status := BitVec.ofNat 8 (w0 / 2 ^ 8),
    kind := BitVec.ofNat 8 w0, detail := BitVec.ofNat 48 w1 }

/-- A hart from its save area over its snapshot. Registers that come from poisoned bytes hold free values and the hart stands with
a supervisor core for consumed poison, cause 10 with `EVAL` 0 (log entry 11). -/
def State.loadHart (s0 : State) (vf : Nat) (snap : Saved) (h at_ : Nat) : State :=
  let s := s0.touchArea at_ 0x800
  let H := fget Hart.reset snap.harts h
  let word := fun (off n : Nat) => leNat (s.areaBytes vf (at_ + off) n)
  let H1 := (List.range 32).foldl (fun (k : Hart) i => k.setX (BitVec.ofNat 5 i) (BitVec.ofNat 64 (word (8 * i) 8))) H
  let H2 := (List.range 32).foldl (fun (k : Hart) i =>
    let r := BitVec.ofNat 5 i
    k.setV r { k.getV r with desc := descOf (BitVec.ofNat 64 (word (0x100 + 4 * i) 4)) }) H1
  let H3 := (List.range 16).foldl (fun (k : Hart) i =>
    k.setP (BitVec.ofNat 4 i) (BitVec.ofNat 256 (word (0x180 + 32 * i) 32))) H2
  let H4 := ownedCsrs.zipIdx.foldl (fun (k : Hart) e => k.loadCsr e.1 (BitVec.ofNat 64 (word (0x380 + 8 * e.2) 8))) H3
  let recs := fun (off : Nat) (l : List CompletionRec) =>
    l.zipIdx.map fun e => e.1.load (word (off + 16 * e.2) 8) (word (off + 16 * e.2 + 8) 8)
  let H5 := { H4 with
    pc := BitVec.ofNat 64 (word 0x6C0 8), age := 0, out0 := recs 0x4C0 H4.out0, out1 := recs 0x5C0 H4.out1 }
  s.setHart h (if (s.poisonedAt at_ 0x6C8).isSome && H5.sup.isNone then
    { H5 with sup := some { cause := 10, epc := H5.pc.setWidth 48, eval := 0, source := 0, vri := 0, logSeq := none,
                            emul := none } }
    else H5)

/-- A core's queues from the save area. -/
def State.loadQueues (s0 : State) (vf core at_ : Nat) : State :=
  let s := s0.touchArea (at_ + 0x184000) 0x210
  (List.range 4).foldl (fun t q =>
    let n := min 16 (leNat (t.areaBytes vf (at_ + 0x184200 + 4 * q) 4))
    let l := (List.range n).map fun i =>
      let k := at_ + 0x184000 + 0x80 * q + 8 * i
      ((BitVec.ofNat 64 (leNat (t.bytesFor vf k 8)) : Word64), (t.poisonedAt k 8).isSome)
    let c := t.core core
    t.setCore core { c with q := fset [] c.q q l }) s

/-- A plane with `mrest` semantics (R196): an image that is none leaves the rows zero; what is poisoned there is poisoned in the
plane. -/
def State.loadPlane (s1 : State) (vf core plane at_ : Nat) : State :=
  let s := s1.touchArea at_ 0x20000
  let c := s.core core
  let press := pressOfCore core
  let word := fun (i : Nat) => leNat (s.areaBytes vf (at_ + 8 * i) 8)
  match imageStates (word 1) c.blocks.length with
  | none => s
  | some l =>
    if word 0 / 2 ^ 48 ≠ 0x5A03 ∨ word 0 / 2 ^ 32 % 256 ≠ 16 * c.blocks.length then s
    else
      let bs := blocksOf (word 2) l (s.bytesFor vf (at_ + 32) (imageTotal l - 32))
      let bs1 := bs.zipIdx.map fun e =>
        let k := at_ + imageStart bs e.2
        let hurt := if (s.poisonedAt k e.1.imageBytes).isNone then [] else
          (List.range (e.1.imageBytes / 32)).filter fun j => (s.poisonedAt (k + 32 * j) 32).isSome
        { e.1 with bad := (hurt.flatMap (imageWords e.1.res)).foldl (fun m w => fset false m w true) [] }
      let s1 := (c.blocks.zip bs1).foldl (fun t e => t.setBlk press plane e.1 e.2) s
      s1.setCore core ((s1.core core).sticky plane (word 3 % 2 == 1) (word 3 / 2 % 2 == 1))

/-- A core from the save area (R309). Its B buffers hold what the context that ran there last has left (log entry 85). -/
def State.loadCore (s : State) (ctx : Nat) (snap : Saved) (i j core : Nat) : State :=
  let c := s.ctx ctx
  let a := c.coreArea i j
  let k := fget Core.reset snap.cores core
  let vf := vfOfCtx ctx
  let s1 := s.copyArea vf a (spadKey core 0) (2 ^ 20)
  let x := s1.core core
  let s2 := s1.setCore core { x with
    shift := k.shift, blocks := k.blocks, eng0 := { x.eng0 with running := k.eng0.running },
    eng1 := { x.eng1 with running := k.eng1.running }, bars := rebind 16 x.bars k.bars }
  let s3 := s2.loadQueues vf core a
  let s4 := (List.range 8).foldl (fun t h => t.loadHart vf snap (core * 8 + h) (a + 0x180000 + h * 0x800)) s3
  ((s4.loadRows vf snap core a).loadPlane vf core 0 (c.imageArea i j 0)).loadPlane vf core 1 (c.imageArea i j 1)

/-- Whether every press of a context is enabled, holds no context and is not due for replacement, which comes before another context
enters (R345). -/
def State.pressesFree (s : State) (ctx : Nat) : Bool :=
  !((s.ctx ctx).cfg.presses.any fun p => (s.press p).resident.isSome || !(s.press p).enabled || s.repairDue p)

/-- Whether a switch in of a context can run: it waits, its presses are free and enabled, and none that became Saved
earlier waits for one of them (R300). -/
def State.canSwitchIn (s : State) (ctx : Nat) : Bool :=
  let c := s.ctx ctx
  c.st == .saved && s.pressesFree ctx &&
    !(s.waitingCtxs.any fun o => decide ((s.ctx o).savedOrder < c.savedOrder) && s.sharePress ctx o)

/-- A context becomes Resident (R309, R312): the state comes back and every hart resumes; a launch that has not run yet
starts. -/
def State.enterPresses (s : State) (ctx : Nat) : State :=
  let c := s.ctx ctx
  let s1 := s.setResident ctx (some ctx)
  let s2 := match c.saved with
    | none => (s1.reloadCellar ctx).startHarts ctx
    | some snap =>
      let t0 := c.cfg.presses.zipIdx.foldl (fun (t : State) (e : Nat × Nat) =>
        (List.range 4).foldl (fun (u : State) j => u.loadCore ctx snap e.2 j (coreOfPress e.1 + j)) t) s1
      let t1 := c.cfg.presses.foldl (fun (u : State) p =>
        u.setPress p { u.press p with bars := rebind 8 (u.press p).bars (fget [] snap.pressBars p) }) t0
      let t2 := c.dies.foldl (fun (u : State) d =>
        u.setDie d { u.die d with bars := rebind 4 (u.die d).bars (fget [] snap.dieBars d) }) t1
      c.coreList.foldl (fun u k => u.serve k) (t2.reloadCellar ctx)
  s2.setCtx ctx { s2.ctx ctx with st := .resident, leaving := false, slice := 0, saved := none }

/-- CONTEXT_SWITCH_IN (R300, R309). -/
def State.switchIn (s : State) (ctx : Nat) : State := if s.canSwitchIn ctx then s.enterPresses ctx else s

def execContextSwitchIn (ctx : Nat) (s : State) : Host.Outcome State Fault Refusal := .next (s.switchIn ctx)

/-- SLICE_EXPIRY (R300): a resident context that has used TSLICE leaves for a waiting one. -/
def State.sliceOver (s : State) (ctx : Nat) : Bool :=
  let c := s.ctx ctx
  c.st == .resident && !c.leaving && c.cfg.tslice != 0 && decide (c.cfg.tslice * 1800000 ≤ c.slice) && s.hasRival ctx

def execSliceExpiry (ctx : Nat) (s : State) : Host.Outcome State Fault Refusal :=
  .next (if s.sliceOver ctx then s.setCtx ctx { s.ctx ctx with leaving := true } else s)

/-- PAGE_WALK (R301 to R304): the walk for a VA of the context on a core's press; a leaf that passes is kept. -/
def State.pageWalk (s : State) (core : Nat) (va : Word64) : State :=
  match (s.press (pressOfCore core)).resident with
  | none => s
  | some ctx =>
    let a := va.toNat % 2 ^ 48
    if !canonical va || (s.tlb.any fun t => t.ctx == ctx && decide (t.va ≤ a) && decide (a < t.va + t.size)) then s
    else
      let s1 := s.meetWalk ctx va.toNat
      match s1.walkFrom (vfOfCtx ctx) a (fun _ => true) 4 1 (s1.ctx ctx).cfg.tbase with
      | .ok (e, size) => { s1 with tlb := s1.tlb ++ [{ ctx := ctx, va := a / size * size, size := size, leaf := e }] }
      | .error _ => s1

def execPageWalk (core : Nat) (va : Word64) (s : State) : Host.Outcome State Fault Refusal := .next (s.pageWalk core va)

end Sys2Proof.Machine
end

