-- ==== Sys2Proof/Machine/Wear.lean ====
section
/-!
DEFINITION. Wear (R317, R318, R340 to R345): the wear increment and its charge, the lifecycle states of a core, the wear
record in flash, clock changes, the measurements (R360), press resets and the repair point.
-/
namespace Sys2Proof.Machine

/-! Lifecycle states (R342). -/

def Life.rank : Life → Nat
  | .nominal => 0
  | .derated1 => 1
  | .derated2 => 2
  | .drained => 3
  | .retired => 4

def Life.ofRank : Nat → Life
  | 0 => .nominal
  | 1 => .derated1
  | 2 => .derated2
  | 3 => .drained
  | _ => .retired

/-- Clock of a core that enters a state, from the clock it had (R342). -/
def Life.clock (l : Life) (old : Nat) : Nat :=
  match l with
  | .nominal => 1800
  | .derated1 => 1500
  | .derated2 => 1200
  | .drained | .retired => old

/-- The logical press behind a physical one of a die. -/
def State.pressOfPhys (s : State) (die phys : Nat) : Option Nat :=
  ((List.range 32).find? fun p => (s.press (die * 32 + p)).enabled && (s.press (die * 32 + p)).phys == phys).map
    fun p => die * 32 + p

/-- The logical core behind a physical one. -/
def State.coreOfPhys (s : State) (pc : Nat) : Option Nat :=
  (s.pressOfPhys (pc / 136) (pc % 136 / 4)).map fun p => coreOfPress p + pc % 4

/-- The clock of a press: the lowest of its four cores (R343). -/
def State.wantedMhz (s : State) (press : Nat) : Nat :=
  (List.range 4).foldl (fun m j => min m (s.wearOf (s.physCore (coreOfPress press + j))).mhz) 1800

/-! The wear record (R341). -/

/-- The bytes of a copy under its CRC-32C: the generation, W and state of each of the 544 physical cores, the lasting entries (log
entry 54 for their places). -/
def WearCopy.bytes (c : WearCopy) : List Byte :=
  leBytes 8 c.gen ++
    ((List.range 544).flatMap fun pc =>
      let e := fget (0, Life.nominal) c.wear pc
      leBytes 8 e.1 ++ leBytes 1 e.2.rank) ++
    c.lasting.flatMap fun e => e.words.flatMap fun w => leBytes 8 w.toNat

/-- Whether a copy's CRC-32C is right. -/
def WearCopy.valid (c : WearCopy) : Bool := c.crc == crc32c c.bytes

/-- The copy in use has the generation before. -/
def State.nextCopy (s : State) : WearCopy :=
  let h := s.hub
  let c : WearCopy :=
    { gen := (if h.wearTurn then h.wearCopy0.gen else h.wearCopy1.gen) + 1,
      wear := s.wear.map fun e => (e.1, (e.2.w, e.2.life)), lasting := h.lasting, crc := 0 }
  { c with crc := crc32c c.bytes }

/-- Put a copy where the record's next one goes. -/
def Hub.putCopy (h : Hub) (c : WearCopy) : Hub := if h.wearTurn then { h with wearCopy1 := c } else { h with wearCopy0 := c }

/-- Write the record: the two copies alternately (R341). -/
def State.writeWear (s : State) : State :=
  { s with hub := { s.hub.putCopy s.nextCopy with wearTurn := !s.hub.wearTurn, wearTime := s.hub.time } }

/-- The supply is lost while a copy is being written: its CRC-32C does not fit, the other copy stays. -/
def State.tearWear (s : State) : State :=
  let c := s.nextCopy
  { s with hub := s.hub.putCopy { c with crc := c.crc + 1 } }

/-- Whether copy 1 is the one in use: the valid copy with the higher generation (R341). -/
def Hub.copyOne (h : Hub) : Bool :=
  !h.wearCopy0.valid || (h.wearCopy1.valid && decide (h.wearCopy0.gen < h.wearCopy1.gen))

def Hub.wearCopy (h : Hub) : WearCopy := if h.copyOne then h.wearCopy1 else h.wearCopy0

/-- Whether the record has not been written for 10 s (R341). -/
def State.wearDue (s : State) : Bool :=
  (s.hub.power == .run || s.hub.power == .standby) && decide (s.hub.wearTime + 10000000 ≤ s.hub.time)

/-- Wear limits of the states, in units of 2^-32 wear unit (R342). -/
def wearLimit (units : Nat) : Nat := units * 2 ^ 32

/-- Clock of a core read back from a record, where its state does not give it. -/
def recordMhz (l : Life) (w : Nat) : Nat :=
  match l with
  | .nominal => 1800
  | .derated1 => 1500
  | .derated2 => 1200
  | .drained | .retired =>
    if wearLimit 55188 ≤ w then 1200 else if wearLimit 52122 ≤ w then 1500 else 1800

/-- The wear figures as the record holds them. -/
def WearCopy.load (c : WearCopy) : FMap Wear :=
  c.wear.map fun e => (e.1, { Wear.reset with w := e.2.1, life := e.2.2, mhz := recordMhz e.2.2 e.2.1 })

/-- WEAR_RECORD_WRITE (R341): Olinath is off in Off (R347). -/
def execWearRecordWrite (s : State) : Host.Outcome State Fault Refusal :=
  .next (if s.hub.power = .off then s else s.writeWear)

/-! Transitions. -/

/-- The log entry of a core's change of state, KIND 13 (R344). -/
def lifeLog (pc rank : Nat) : LogEntry :=
  { seq := 0, kind := 13, code := 0, result := 0, die := pc / 136, press := pc % 136 / 4, ctx := 0xFF, hart := 0,
    core := pc % 4, pa := false, addr := 0, time := 0, detail := BitVec.ofNat 64 rank }

/-- Every task of a core in its idempotent region is chosen for pre-emption (R344), which R375 defers while it is halted. -/
def State.preemptCore (s : State) (core : Nat) : State :=
  (hartsOf core).foldl (fun t h =>
    match (t.hart h).task with
    | some k => if k.committed then t else t.setHart h { t.hart h with preempt := true }
    | none => t) s

/-- A press whose cores call for another clock issues nothing until the change takes effect (R343). -/
def State.askClock (s : State) (press : Nat) : State :=
  let p := s.press press
  if p.enabled && p.mhz != s.wantedMhz press then s.setPress press { p with stallClock := true } else s

/-- Every press runs at the lowest clock of its cores, as a reset leaves it. -/
def State.clocked (s : State) : State :=
  if s.wear = [] then s
  else (List.range 128).foldl (fun t p =>
    if (t.press p).mhz = t.wantedMhz p then t else t.setPress p { t.press p with mhz := t.wantedMhz p }) s

/-- A physical core enters a state; it only moves down (R342, R344). -/
def State.setLife (s : State) (pc : Nat) (l : Life) : State :=
  let w := s.wearOf pc
  if l.rank ≤ w.life.rank then s
  else
    let s1 := (s.setWear pc { w with life := l, mhz := l.clock w.mhz }).logEntry (lifeLog pc l.rank)
    let s2 := s1.writeWear
    match s2.coreOfPhys pc with
    | none => s2
    | some core =>
      let s3 := if 3 ≤ l.rank then s2.preemptCore core else s2
      s3.askClock (pressOfCore core)

/-- A press enters the drained state (R330): its cores enter `l`, and it waits for its repair point. -/
def State.drainPress (s : State) (press : Nat) (l : Life) : State :=
  let s1 := s.setPress press { s.press press with repair := true }
  (List.range 4).foldl (fun t j => t.setLife (t.physCore (coreOfPress press + j)) l) s1

/-! The wear increment (R340). -/

/-- The greatest r below 2^n added to `acc` with r^100 ≤ x. -/
def root100 (x : Nat) : Nat → Nat → Nat
  | 0, acc => acc
  | n + 1, acc => if (acc + 2 ^ n) ^ 100 ≤ x then root100 x n (acc + 2 ^ n) else root100 x n acc

/-- 2^(k/100) in units of 2^-64, for k below 100 (log entry 29 for the precision). -/
def pow2Hundredth (k : Nat) : Nat := root100 (2 ^ (6400 + k)) 65 0

/-- How many of an hour's intervals of 1 ms make one wear unit at full activity, nominal voltage and 85 °C (R317). -/
def wearHour : Nat := 3600000

/-- The increment of an interval of 1 ms, in units of 2^-96 wear unit over `wearHour`, so that the division of R340 loses nothing: the
exponents of temperature and voltage together are (Tj − 850 + 4 × dv) / 100, with Tj in tenths of a degree and dv in mV. -/
def wearInc (m : WearSample) : Nat :=
  let e : Int := m.tj - 850 + 4 * m.dv
  let q := e / 100
  let x := m.act * pow2Hundredth (e % 100).toNat * 2 ^ 32
  if 0 ≤ q then x * 2 ^ q.toNat / m.of else x / (m.of * 2 ^ (-q).toNat)

/-- Device clocks in the interval of a wear update, 1 ms. -/
def wearClocks : Nat := 1800000

/-- Charge an increment to a context for the clocks it was resident (R317, R318): the floor of each core's charge in units of 2^-32,
its remainder kept whole. -/
def State.chargeWear (s : State) (pc inc : Nat) (e : Nat × Nat) : State :=
  let w := s.wearOf pc
  let t := fget 0 w.charge e.1 + inc * e.2
  let unit := 2 ^ 64 * wearHour * wearClocks
  let s1 := s.setWear pc { w with charge := fset 0 w.charge e.1 (t % unit) }
  s1.setCtx e.1 { s1.ctx e.1 with wear := (s1.ctx e.1).wear + BitVec.ofNat 64 (t / unit) }

/-- The state a core's figures call for (R342). -/
def wantedRank (w : Nat) (m : WearSample) : Nat :=
  if wearLimit 61320 ≤ w then 4
  else if wearLimit 58254 ≤ w ∨ 100 ≤ m.em then 3
  else if wearLimit 55188 ≤ w ∨ 50 ≤ m.ageing then 2
  else if wearLimit 52122 ≤ w ∨ 30 ≤ m.ageing then 1
  else 0

/-- How long each context was resident from clock `lo` to `hi`, by a press's tenure (R317). -/
def tenureShares (lo : Nat) : Nat → List (Nat × Option Nat) → List (Nat × Nat)
  | _, [] => []
  | hi, (t, c) :: l =>
    (match c with
      | some k => if max t lo < hi then [(k, hi - max t lo)] else []
      | none => []) ++ if t ≤ lo then [] else tenureShares lo (min t hi) l

/-- What was resident on a physical press of a die: of the press it is or was last mapped to, one fused off among them (R345). -/
def State.tenureOf (s : State) (die phys : Nat) : List (Nat × Option Nat) :=
  let all := (List.range 32).map fun p => s.press (die * 32 + p)
  match all.find? fun p => p.phys == phys with
  | some p => p.tenure
  | none => (((all.flatMap fun p => p.former).find? fun e => e.1 == phys).map fun e => e.2).getD []

/-- The device clocks of the last 1 ms in which each context was resident on a physical core: save clocks count to the context
that leaves, restore clocks to the one that enters. -/
def State.sharesOf (s : State) (pc : Nat) : List (Nat × Nat) :=
  tenureShares (s.clk - wearClocks) s.clk (s.tenureOf (pc / 136) (pc % 136 / 4))

/-- WEAR_UPDATE (R340, R317, R342). -/
def State.wearUpdate (s : State) (pc : Nat) (m : WearSample) : State :=
  let inc := wearInc m
  let w := s.wearOf pc
  let t := w.frac + inc
  let unit := 2 ^ 64 * wearHour
  let s1 := s.setWear pc { w with w := w.w + t / unit, frac := t % unit }
  let s2 := (s.sharesOf pc).foldl (fun u e => u.chargeWear pc inc e) s1
  s2.setLife pc (Life.ofRank (wantedRank (s2.wearOf pc).w m))

/-- WEAR_UPDATE (R340): Olinath computes it, which is off in Off (R347). -/
def execWearUpdate (pcore : Nat) (m : WearSample) (s : State) : Host.Outcome State Fault Refusal :=
  .next (if s.hub.power = .off then s else s.wearUpdate pcore m)

/-- CLOCK_CHANGE (R343): CYCLE goes on from its value at the new rate. -/
def State.clockChange (s : State) (press : Nat) : State :=
  if (s.press press).stallClock then
    let counts := (List.range 4).map fun j => (coreOfPress press + j, s.cycle (coreOfPress press + j))
    let s1 := s.setPress press { s.press press with mhz := s.wantedMhz press, stallClock := false }
    counts.foldl (fun t e => t.setCore e.1 { t.core e.1 with cycleBase := e.2, cycleSince := t.coreClk }) s1
  else s

def execClockChange (press : Nat) (s : State) : Host.Outcome State Fault Refusal := .next (s.clockChange press)

/-! Measurements (R360). -/

/-- A list of numbers as bytes. -/
def numBytes (l : List Nat) : List Byte := l.flatMap fun n => leBytes 8 n

/-- Assignments as measured: every VF's presses and ranges, and the count of ASSIGNs, with which index 5 changes each time. -/
def State.assignBytes (s : State) : List Byte :=
  numBytes (s.hub.assigns :: (List.range 128).map fun p => match (s.press p).vf with | some v => v + 1 | none => 0) ++
    (List.range 16).flatMap fun v => numBytes (s.vf v).ranges

/-- The enabled-press mask (R2, R345): the physical presses of every die that an enabled press is mapped to. A fused-off press and a
spare that is not mapped in are not in it. -/
def State.enabledMask (s : State) : List Nat :=
  (List.range 136).map fun q => if (s.pressOfPhys (q / 34) (q % 34)).isSome then 1 else 0

/-- The firmware slot in use. -/
def Hub.slot (h : Hub) : Slot := if h.fwSlot then h.fw1 else h.fw0

/-- Measurement `i` of 1 to 8. -/
def State.measurement (s : State) (i : Nat) : Nat :=
  match i with
  | 1 => (Config.shake256 s.hub.slot.image).toNat
  | 4 => (Config.shake256 (Config.measuredObject 4 ++ numBytes s.enabledMask)).toNat
  | 5 => (Config.shake256 s.assignBytes).toNat
  | 6 => (Config.shake256 (Config.certChain s.hub.identity)).toNat
  | 7 => (Config.shake256 [if s.hub.debugUnlocked then 1 else 0]).toNat
  | 8 => (Config.shake256 (leBytes 8 s.hub.slot.version.toNat)).toNat
  | _ => (Config.shake256 (Config.measuredObject i)).toNat

def State.measurements (s : State) : List Nat := [1, 2, 3, 4, 5, 6, 7, 8].map s.measurement

/-- Measurements as raw blocks of 64 bytes (R360). -/
def measurementBlocks (l : List Nat) : List Byte := l.flatMap fun m => leBytes 64 m

/-- Olinath measures objects again and appends them to its measurement log (R348). -/
def State.measure (s : State) (l : List Nat) : State :=
  { s with hub := { s.hub with mlog := s.hub.mlog ++ l.map fun i => (i, s.measurement i) } }

/-- A reset restarts Olinath's measurement of the firmware (R348; log entry 40). -/
def State.measureAll (s : State) : State := s.measure [1, 2, 3, 4, 5, 6, 7, 8]

/-! A press's reset and the repair point (R345, R348). -/

/-- A core right out of reset. -/
def Core.fresh (clk : Nat) : Core := { Core.reset with cycleSince := clk }

/-- One press is reset; what belongs to the device about it stays, and Olinath measures again (R348). -/
def State.resetPress (s : State) (press : Nat) : State :=
  let s1 := (List.range 4).foldl (fun t j =>
    let k := coreOfPress press + j
    (hartsOf k).foldl (fun u h => u.setHart h Hart.reset)
      ((t.setCore k { Core.fresh t.coreClk with withdrawn := (t.core k).withdrawn }).clearArea (spadKey k 0) (2 ^ 20))) s
  let p := s1.press press
  ((s1.setPress press { p with blocks := [], bars := [], cellarCtx := none, stallMatrix := false }).clearArea
    (cellarKey press 0) 20971520).measureAll

/-- PRESS_RESET (R348): only with no resident context. -/
def execPressReset (press : Nat) (s : State) : Host.Outcome State Fault Refusal :=
  .next (if (s.press press).resident.isSome then s else s.resetPress press)

/-- Whether a press is due for replacement (R345). -/
def State.needsRepair (s : State) (press : Nat) : Bool :=
  (s.press press).enabled && (s.press press).resident.isNone && s.repairDue press

/-- A spare's cores take the Nominal state (R345). -/
def State.nominalCores (s : State) (press : Nat) : State :=
  (List.range 4).foldl (fun t j =>
    let pc := t.physCore (coreOfPress press + j)
    if (t.wearOf pc).life = .nominal then t else t.setWear pc { t.wearOf pc with life := .nominal, mhz := 1800 }) s

/-- REPAIR_POINT (R345): an unused spare takes the PRESSID, or the press leaves the mask and its contexts miss it. -/
def State.repairPoint (s : State) (press : Nat) : State :=
  if s.needsRepair press then
    let d := dieOfPress press
    match (s.die d).spares with
    | q :: rest =>
      let s1 := s.setDie d { s.die d with spares := rest }
      let p := s1.press press
      let s2 := s1.setPress press
        { p with phys := q, repair := false, mhz := 1800, stallClock := false, tenure := [(s.clk, none)],
                 former := (p.phys, p.tenure) :: p.former }
      let s3 := (List.range 4).foldl (fun t j =>
        let k := coreOfPress press + j
        t.setCore k { t.core k with withdrawn := 0 }) s2
      ((s3.resetPress press).nominalCores press).writeWear
    | [] =>
      let s1 := s.setPress press { s.press press with enabled := false, repair := false }
      let gone := (List.range 64).filter fun c => (s1.ctx c).cfg.presses.contains press
      (gone.foldl (fun t c => t.setCtx c { t.ctx c with missing := true }) s1).writeWear
  else s

/-- REPAIR_POINT (R345): not in Off, where the supervisors have no supply (R347). -/
def execRepairPoint (press : Nat) (s : State) : Host.Outcome State Fault Refusal :=
  .next (if s.hub.power = .off then s else s.repairPoint press)

end Sys2Proof.Machine
end

