-- ==== Sys2Proof/Machine/Errors.lean ====
section
/-!
DEFINITION. Errors (R322 to R336): physical upsets, flits, patrol scrubbing, page quarantine, the targeted self-test, what a
supervisor core does with a cause, aborting a launch, and the function-level reset (R349).
-/
namespace Sys2Proof.Machine

/-! Memory controllers (R325, R326; log entry 23 for which controller serves an address). -/

/-- Eight controllers a die, 64 KiB pages in turn, then one for each CXL port (R370). -/
def State.ctrlOf (s : State) (pa : Nat) : Nat :=
  if pa < 0x040000000000 then pa / 2 ^ 37 % 4 * 8 + pa / 65536 % 8
  else 32 + cxlPort s.hub.cxl0 s.hub.cxl1 (pa - 0x040000000000)

/-- The sectors a controller has to record, as their first addresses, newest first. -/
def State.recorded (s : State) (ctrl : Nat) : List Nat :=
  (s.recordOrder.filter fun u => fget false s.poison u && s.ctrlOf (u * 32) == ctrl).map fun u => u * 32

/-- The entries of its record: those it had before the sectors that no longer fit (R325, R326). -/
def State.entries (s : State) (ctrl : Nat) : List Nat :=
  let l := s.recorded ctrl
  l.drop (l.length - 512)

/-- Recorded sectors of a page. -/
def pageCount (l : List Nat) (page : Nat) : Nat := (l.filter fun k => k / 65536 == page).length

/-- The page with the most entries, the lowest among equals. -/
def worstPage (l : List Nat) : Option Nat :=
  (l.map fun k => k / 65536).foldl (fun best p => match best with
    | none => some p
    | some b =>
      if pageCount l b < pageCount l p ∨ (pageCount l b = pageCount l p ∧ p < b) then some p else best) none

/-- A log entry that is also a lasting one: it goes into the wear record (R334). -/
def State.logLasting (s : State) (e : LogEntry) : State :=
  let s1 := s.logEntry e
  { s1 with hub := { s1.hub with lasting := s1.hub.lasting ++ [{ e with seq := s.hub.seq, time := s.hub.time }] } }.writeWear

/-- Quarantine or withdraw a page (R326): its entries become in-band codes. A spare page takes the sector that is still to be recorded
as a new entry; a withdrawn page has every sector coded in place and keeps no entry. -/
def State.quarantine (s : State) (ctrl page : Nat) : State :=
  let c := s.ctrl ctrl
  let spare := decide (c.sparesUsed < 32)
  let mine := (if spare then s.entries ctrl else s.recorded ctrl).filter fun k => k / 65536 == page
  let coded := if spare then mine.map poisonUnit else (List.range 1024).map fun i => poisonUnit (page * 65536 + 64 * i)
  let s1 := { s with
    poison := mine.foldl (fun m k => fset false m (poisonUnit k) false) s.poison,
    inband := coded.foldl (fun m u => fset false m u true) s.inband }
  let s2 := s1.setCtrl ctrl (if spare then { c with sparesUsed := c.sparesUsed + 1, remap := c.remap ++ [(page, c.sparesUsed)] }
    else { c with withdrawn := c.withdrawn ++ [page] })
  let die := dieOfKey (page * 65536)
  let e := { keyLog s (page * 65536) (if spare then 10 else 11) with die := die }
  ((s2.count die (if spare then 10 else 11)).logLasting e).event (s.ownerOf (page * 65536)) s.hub.seq
    (if spare then "page quarantined" else "page withdrawn")

/-- PAGE_QUARANTINE (R326): a controller that must record a 513th sector. -/
def State.overflowing (s : State) (ctrl : Nat) : Bool := decide (512 < (s.recorded ctrl).length)

def execPageQuarantine (ctrl : Nat) (s : State) : Host.Outcome State Fault Refusal :=
  .next (if s.overflowing ctrl then
    match worstPage (s.entries ctrl) with
    | some p => s.quarantine ctrl p
    | none => s
  else s)

/-! Physical upsets and flits (R323, R324, R327). -/

/-- The press, and the core and hart where it is theirs, of an array key (see `upsetArray`). -/
def arrayPlace (key : Nat) : Nat × Nat × Nat :=
  if key < 2 ^ 61 then
    let h := (key - 2 ^ 60) / 2 ^ 21
    (pressOfHart h, coreOfHart h % 4, h % 8)
  else if key < 2 ^ 62 then
    let c := (key - 2 ^ 61) / 2 ^ 13
    (pressOfCore c, c % 4, 0)
  else if key < 2 ^ 63 then ((key - 2 ^ 62) / 2 ^ 13, 0, 0)
  else
    let c := (key - 2 ^ 63) / 64
    (pressOfCore c, c % 4, 0)

/-- An error in a hart's, core's or press's own array, found when it strikes (log entry 30). -/
def State.arrayError (s : State) (row sort : Nat) : State :=
  let w := arrayPlace row
  let die := dieOfPress w.1
  let e : LogEntry :=
    { seq := 0, kind := if sort = 1 then 1 else 2, code := 0, result := 0, die := die, press := (s.press w.1).phys, ctx := 0xFF,
      hart := w.2.2, core := w.2.1, pa := false, addr := 0, time := 0, detail := BitVec.ofNat 64 row }
  let s1 := s.count die (if sort = 1 then 0 else 1)
  if sort = 1 ∧ (s1.recent.any fun r => r.1 == row && decide (s1.hub.time < r.2 + 1000000)) then s1
  else
    let s2 := s1.logTested e (.sramRow row)
    if sort = 1 then { s2 with recent := (row, s2.hub.time) :: s2.recent.filter fun r => r.1 != row } else s2

/-- Arrays with keys of their own: row-pool words 2^60 + (hart × 32 + register) × 2^16 + index, B buffers 2^61 + (core × 2 +
buffer) × 2^12 + bank word of 32 bytes, those of scales from 3072 on, accumulator planes 2^62 + (press × 8 + plane × 4 + block) × 2^10
+ row × 60 + bank word of the row, queue entries 2^63 + core × 64 + queue × 16 + place (log entry 28). -/
def State.upsetArray (s : State) (key sort : Nat) : State :=
  let hurt := decide (sort ≠ 1)
  if key < 2 ^ 61 then
    let i := key - 2 ^ 60
    let h := i / 2 ^ 21
    let r := BitVec.ofNat 5 (i / 2 ^ 16 % 32)
    let v := (s.hart h).getV r
    let s1 := if hurt then s.setHart h ((s.hart h).setV r { v with bad := fset false v.bad (i % 2 ^ 16 / 256 / 8 * 256 + i % 256) true }) else s
    s1.arrayError key sort
  else if key < 2 ^ 62 then
    let c := (key - 2 ^ 61) / 2 ^ 13
    let n := (key - 2 ^ 61) / 2 ^ 12 % 2
    let w := (key - 2 ^ 61) % 2 ^ 12
    let b := (s.core c).buf n
    let b1 := if w < 3072 then { b with bad := fset false b.bad w true }
      else { b with badScales := fset false b.badScales (w - 3072) true }
    (if hurt then s.setCore c ((s.core c).setBuf n b1) else s).arrayError key sort
  else if key < 2 ^ 63 then
    let word := (key - 2 ^ 62) % 2 ^ 10
    let i := (key - 2 ^ 62) / 2 ^ 10
    let p := i / 8
    let b := (s.press p).blk (i / 4 % 2) (i % 4)
    let s1 := if hurt then s.setBlk p (i / 4 % 2) (i % 4) { b with bad := fset false b.bad word true } else s
    s1.arrayError key sort
  else
    let i := key - 2 ^ 63
    let c := i / 64
    let q := i / 16 % 4
    let l := ((s.core c).queue q).zipIdx.map fun e => (e.1.1, e.1.2 || (hurt && e.2 == i % 16))
    let s1 := s.setCore c { s.core c with q := fset [] (s.core c).q q l }
    s1.arrayError key sort

/-- A physical upset: in storage it is latent until a read or a scrub finds it; one more in a unit never makes an uncorrectable
error correctable. -/
def State.upset (s : State) (key sort : Nat) : State :=
  if 2 ^ 60 ≤ key then s.upsetArray key sort
  else
    let u := poisonUnit key
    { s with
      flaws := fset 0 s.flaws u (max (fget 0 s.flaws u) (if sort = 1 then 1 else 2)),
      flawClk := if fget 0 s.flaws u = 0 then fset 0 s.flawClk u s.clk else s.flawClk }

/-- Clocks in which patrol scrubbing reads every unit of a key's kind once (R324): 24 h for memory, 1 s for cellars and
scratchpads. -/
def patrolClk (key : Nat) : Nat := if isPhys key then 24 * 3600 * 1800000000 else 1800000000

/-- A latent flaw patrol scrubbing has come to, as a key. -/
def State.scrubDue (s : State) : Option Nat :=
  (s.flaws.find? fun e => decide (e.1 * 32 < 2 ^ 58) && decide (fget 0 s.flawClk e.1 + patrolClk (e.1 * 32) ≤ s.clk)).map fun e =>
    e.1 * 32

/-- A KIND that R334 lists, 1 to 17, where it does not say which: the others are never written. -/
def listedKind (n : Nat) : Nat := n % 17 + 1

/-- The press whose router or link segment a poisoned flit to `key` tests: the key's own, or the die's first. -/
def pressAt (die key : Nat) : Nat :=
  if isSpad key then pressOfCore (spadCore key)
  else if 2 ^ 57 ≤ key ∧ key < 2 ^ 58 then (key - 2 ^ 57) / 2 ^ 25 else die * 32

/-- A flit over a link of a press fails its CRC `fails` times in a row (R323, R324): each retry is counted; one that a retry
brings through is a corrected error, logged and tested when it is the link's first in 1 s; after 8 failed retries it is
delivered poisoned, which is an uncorrected error. `e` is the entry but for its kind (log entry 71). -/
def State.flitFails (s : State) (die fails press : Nat) (e : LogEntry) : State :=
  let s1 := (List.range (min fails 8)).foldl (fun t _ => t.count die 4) s
  let row := 2 ^ 64 + press
  if fails = 0 then s
  else if fails ≤ 8 then
    if s1.recent.any fun r => r.1 == row && decide (s1.hub.time < r.2 + 1000000) then s1
    else
      let s2 := s1.logTested { e with kind := listedKind Config.flitKind, die := die } (.link press)
      { s2 with recent := (row, s2.hub.time) :: s2.recent.filter fun r => r.1 != row }
  else (s1.count die 5).logTested { e with kind := 6, die := die } (.link press)

/-- FLIT_RECEIVE (R323, R327): a flit that carries a write of `n` bytes at `key` fails `fails` times; delivered poisoned, every unit
it covers is poisoned. -/
def State.flitReceive (s : State) (die fails key n : Nat) : State :=
  let s1 := s.flitFails die fails (pressAt die key) (keyLog s key 6)
  if fails ≤ 8 then s1
  else ((List.range n).foldl (fun t i => t.markPoison (key + i)) s1).logEntry (keyLog s1 key 7)

/-- A flit that brings hart `h` data fails `fails` times: delivered poisoned, the hart's next read over the fabric is a read of
poison (R323). -/
def State.readFlit (s : State) (h fails : Nat) : State :=
  let p := pressOfHart h
  let e := hartLog h 6 0 0xFF (s.press p).phys 0 0
  let s1 := s.flitFails (dieOfHart h) fails p e
  if fails ≤ 8 then s1 else s1.setHart h { s1.hart h with flit := true }

def execFlitReceive (die fails key n : Nat) (s : State) : Host.Outcome State Fault Refusal :=
  .next (s.flitReceive die fails key n)

/-- PATROL_SCRUB (R324): what it finds is handled as a read's find; it consumes nothing. -/
def execPatrolScrub (key : Nat) (s : State) : Host.Outcome State Fault Refusal := .next (s.findFlaw key)

/-! Aborting a launch (R333). -/

/-- The hart of an aborted launch. -/
def Hart.aborted (h : Hart) : Hart :=
  { h with
    life := .off, wait := .none, waited := 0, parked := 0, wake := none, sup := none, stepping := false,
    stepDone := false, stopPend := [], haltPend := false, preempt := false, task := none, window := none, pendBar := [], barAt := none,
    supNext := [], flit := false, out0 := [], out1 := [], csr := { h.csr with halt := false, stop := 0 } }

/-- Whether EVAL of a cause holds an address (R95), for ADDR of a KIND 17 entry. -/
def evalIsAddress (cause : Nat) (eval : Word64) : Bool :=
  [3, 4, 5, 6, 12, 13, 16].contains cause || (cause == 2 && eval.extractLsb 63 56 == 7)

/-- A cause delivered to a supervisor core, before it is dealt with: its counter, its log entry and its event (R322), but for the event
of consumed poison, which only a reflection or an abort raises, and for cause 14, counted when it is emulated. -/
def State.noteCause (s : State) (k : SupStop) : State :=
  let die := dieOfHart s.cur
  let vf := some (vfOfCtx s.myCtxId)
  let addr := k.eval.toNat % 2 ^ 48
  let epc : Word64 := k.epc.setWidth 64
  match k.cause.toNat with
  | 10 => (s.count die 6).logEntry (s.myLog 5 10 addr epc)
  | 14 => s
  | 15 => ((s.count die 14).logEntry (s.myLog 14 15 addr epc)).event vf s.hub.seq "commit window overrun"
  | cause =>
    (s.logEntry (s.myLog 17 cause (if evalIsAddress cause k.eval then addr else 0) epc)).event vf s.hub.seq "handlerless fault"

/-- The causes still pending on the acting hart whose launch is aborted: each is noted, consumed poison with its event (R322). -/
def State.notePending (s : State) : State :=
  (s.me.sup.toList ++ s.me.supNext).foldl (fun t k =>
    let u := t.noteCause k
    if k.cause = 10 then u.event (some (vfOfCtx u.myCtxId)) t.hub.seq "poison consumed" else u) s

/-- Steps 1 and 2: the harts stop, issued work completes or faults, what is pending for a supervisor core is noted, records are
discarded. -/
def State.stopCtx (s : State) (ctx : Nat) : State :=
  let c := s.ctx ctx
  let s1 := c.hartList.foldl (fun t h => t.setHart h { t.hart h with csr := { (t.hart h).csr with halt := false } }) s
  let s2 := c.cfg.presses.foldl (fun t p => t.setPress p { t.press p with stallMatrix := false }) s1
  let s3 := c.coreList.foldl (fun t k => t.settleCore k) s2
  let s4 := c.hartList.foldl (fun t h =>
    let u := t.atHart h State.notePending
    u.setHart h (u.hart h).aborted) s3
  let s5 := c.coreList.foldl (fun t k =>
    let x := t.core k
    t.setCore k { x with eng0 := dropRecords x.eng0, eng1 := dropRecords x.eng1 }) s4
  c.cfg.presses.foldl (fun t p => t.setPress p { t.press p with stallMatrix := (s.press p).stallMatrix }) s5

/-- The KIND 15 entry, placed by its cause's entry or by PRESSIDX 0 (R333). -/
def State.abortEntry (s : State) (ctx : Nat) (cause : Option LogEntry) : LogEntry :=
  match cause with
  | some e => { e with kind := 15, code := 0, result := 0, ctx := ctx, pa := false, addr := 0, detail := BitVec.ofNat 64 e.seq }
  | none =>
    let p := (s.ctx ctx).cfg.presses.headD 0
    { seq := 0, kind := 15, code := 0, result := 0, die := dieOfPress p, press := (s.press p).phys, ctx := ctx, hart := 0,
      core := 0, pa := false, addr := 0, time := 0, detail := 0 }

/-- Barriers whose binding to a context ends, their GEN kept: once no hart of its kernel runs those with no arrival pending, or `all` of
them (R247). -/
def unbound (ctx : Nat) (all : Bool) (b : FMap Barrier) : FMap Barrier :=
  fmapValues Barrier.reset (fun _ x => match x.bound with
    | some (c, _, _) => if c = ctx ∧ (all ∨ x.count = 0) then { x with bound := none, count := 0 } else x
    | none => x) b

/-- The barriers of a context's units as `keep` leaves them. -/
def State.unbindBars (s : State) (ctx : Nat) (keep : FMap Barrier → FMap Barrier) : State :=
  let c := s.ctx ctx
  let s1 := c.coreList.foldl (fun t k => t.setCore k { t.core k with bars := keep (t.core k).bars }) s
  let s2 := c.cfg.presses.foldl (fun t p => t.setPress p { t.press p with bars := keep (t.press p).bars }) s1
  c.dies.foldl (fun t d => t.setDie d { t.die d with bars := keep (t.die d).bars }) s2

/-- A context whose launch is over: it is Idle and holds no record, here or on its way. -/
def Ctx.over (c : Ctx) : Ctx :=
  { c with
    st := .idle, bins := [], flight := [], xflight := [], asked := 0, alone := false, peer := none, xwave := none,
    terminated := true, leaving := false, saved := none, slice := 0 }

/-- Complete a context's launch with a STATUS (R269, R333); its barriers' bindings end (R247). -/
def State.finishLaunch (s : State) (ctx status detail : Nat) : State :=
  let c := s.ctx ctx
  let s1 := (s.setResident ctx none).unbindBars ctx (unbound ctx false)
  let s2 := s1.setCtx ctx c.over
  s2.respond { op := 1, tag := c.tag, vf := vfOfCtx ctx, mgmt := c.mgmt, status := status, detail := detail, body := .empty }

/-- Abort a context's launch (R333); a Saved launch runs steps 3 to 5 only. -/
def State.abort (s : State) (ctx : Nat) (cause : Option LogEntry) : State :=
  let c := s.ctx ctx
  if c.st ≠ .resident ∧ c.st ≠ .saved then s
  else
    let s1 := if c.st = .resident then s.stopCtx ctx else s
    let e := s1.abortEntry ctx cause
    let seq := match cause with | some x => x.seq | none => s1.hub.seq
    let s2 := (s1.count e.die 15).logEntry e
    let s3 := s2.setCtx ctx { s2.ctx ctx with
      failSeq := BitVec.ofNat 32 seq,
      failCause := BitVec.ofNat 8 (match cause with | some x => x.code | none => 0) }
    if c.st = .resident then s3.finishLaunch ctx 6 seq
    else
      let c3 := s3.ctx ctx
      (s3.setCtx ctx c3.over).respond
        { op := 1, tag := c3.tag, vf := vfOfCtx ctx, mgmt := c3.mgmt, status := 6, detail := seq, body := .empty }

/-! The targeted self-test (R329, R330). -/

/-- Whether a test of a unit may begin: an error has selected it, or it is a matrix engine's, which no logged error selects
(log entry 30). -/
def State.testWanted (s : State) (u : TestUnit) : Bool :=
  s.selfTests.contains u || (match u with | .matrix _ => !s.unitBusy u | _ => false)

/-- SELF_TEST_START (R329): the unit's accesses, queue or issue stall for the test. -/
def State.testStart (s : State) (u : TestUnit) : State :=
  if s.testWanted u && !(s.tests.any fun t => decide (t.1 = u) && t.2.2) then
    let s1 := { s with
      selfTests := s.selfTests.filter fun x => decide (x ≠ u),
      tests := (u, s.hub.time, true) :: s.tests.filter fun t => decide (t.1 ≠ u) }
    match u with
    | .cluster core _ => s1.setCore core { s1.core core with stallTest := true }
    | .matrix p => s1.setPress p { s1.press p with stallMatrix := true }
    | _ => s1
  else s

def execSelfTestStart (u : TestUnit) (s : State) : Host.Outcome State Fault Refusal := .next (s.testStart u)

/-- Die and press of a test unit; die 4 for the hub. -/
def placeOf : TestUnit → Nat × Option Nat
  | .sramRow r =>
    if 2 ^ 60 ≤ r then
      let p := (arrayPlace r).1
      (dieOfPress p, some p)
    else
    let key := r / 32 * 32768
    (dieOfKey key, if isSpad key then some (pressOfCore (spadCore key))
      else if 2 ^ 57 ≤ key ∧ key < 2 ^ 58 then some ((key - 2 ^ 57) / 2 ^ 25) else none)
  | .sector k => (dieOfKey (k * 64), none)
  | .cluster c _ => (dieOfCore c, some (pressOfCore c))
  | .matrix p => (dieOfPress p, some p)
  | .link p => if 128 ≤ p then (4, none) else (dieOfPress p, some p)

/-- The bank of an SRAM row: its 1 MiB of storage and the bank within; an array of a hart, core or press is a bank of its own. -/
def bankOfRow (r : Nat) : Nat :=
  if r < 2 ^ 60 then r / 32 / 32 * 32 + r % 32
  else if r < 2 ^ 61 then 2 ^ 60 + (r - 2 ^ 60) / 2 ^ 21
  else if r < 2 ^ 62 then 2 ^ 61 + (r - 2 ^ 61) / 2 ^ 12
  else if r < 2 ^ 63 then 2 ^ 62 + (r - 2 ^ 62) / 2 ^ 12
  else 2 ^ 63 + (r - 2 ^ 63) / 64

/-- The log entry of a test's result. -/
def State.testEntry (s : State) (u : TestUnit) (kind result : Nat) : LogEntry :=
  let w := placeOf u
  { seq := 0, kind := kind, code := 0, result := result, die := w.1,
    press := match w.2 with | some p => (s.press p).phys | none => 0, ctx := 0xFF, hart := 0,
    core := match u with
      | .cluster c _ => c % 4
      | .sramRow r => if 2 ^ 60 ≤ r then (arrayPlace r).2.1
        else if isSpad (r / 32 * 32768) then spadCore (r / 32 * 32768) % 4 else 0
      | _ => 0, pa := false, addr := 0, time := 0,
    detail := match u with
      | .sramRow r => BitVec.ofNat 64 r
      | .sector k => BitVec.ofNat 64 (k / 1024)
      | .cluster _ c => BitVec.ofNat 64 c
      | _ => 0 }

/-- The repair of a unit that failed its test (R330). -/
def State.repairUnit (s : State) (u : TestUnit) : State :=
  match u with
  | .sramRow r =>
    let b := bankOfRow r
    if fget 0 s.rowSpares b < 4 then
      ({ s with rowSpares := fset 0 s.rowSpares b (fget 0 s.rowSpares b + 1) }.count (placeOf u).1 12).logEntry
        (s.testEntry u 12 0)
    else
      match (placeOf u).2 with
      | some p => s.drainPress p .drained
      | none => s
  | .sector k => s.quarantine (s.ctrlOf (k * 64)) (k / 1024)
  | .cluster core cl =>
    let c := s.core core
    let s1 := s.setCore core { c with withdrawn := c.withdrawn ||| (1#16 <<< cl) }
    s1.drainPress (pressOfCore core) .drained
  | .matrix p | .link p =>
    if 128 ≤ p then s
    else
    let s1 := match (s.press p).resident with
      | some ctx => s.abort ctx ((s.die (dieOfPress p)).log.head?)
      | none => s
    s1.drainPress p .retired

/-- SELF_TEST_RESULT (R330): a running test ends; a failure is lasting, reported and repaired. -/
def State.testResult (s : State) (u : TestUnit) (pass : Bool) : State :=
  if s.tests.any fun t => decide (t.1 = u) && t.2.2 then
    let s1 := { s with tests := s.tests.map fun (t : TestUnit × Nat × Bool) => if t.1 = u then (t.1, t.2.1, false) else t }
    let s2 := match u with
      | .cluster core _ => s1.setCore core { s1.core core with stallTest := false }
      | .matrix p => s1.setPress p { s1.press p with stallMatrix := false }
      | _ => s1
    let die := (placeOf u).1
    if pass then (s2.count die 8).logEntry (s2.testEntry u 9 1)
    else
      let seq := s2.hub.seq
      let vf := match u with
        | .sector k => s2.ownerOf (k * 64)
        | _ => (placeOf u).2.bind fun p => (s2.press p).vf
      (((s2.count die 9).logLasting (s2.testEntry u 9 2)).event vf seq "lasting fault").repairUnit u
  else s

def execSelfTestResult (u : TestUnit) (pass : Bool) (s : State) : Host.Outcome State Fault Refusal :=
  .next (s.testResult u pass)

/-! The supervisor (R331, R332). -/

/-- The acting hart goes on at its PC. -/
def State.supDone (s : State) : State := s.setMe { s.me with sup := none }

/-- The next cause of the hart's engine commands goes to the supervisor once it is done with one. -/
def Hart.nextCause (h : Hart) : Hart :=
  match h.sup, h.supNext with
  | none, k :: t => { h with sup := some { k with epc := h.pc.setWidth 48 }, supNext := t }
  | _, _ => h

/-- The context's handler takes a cause as if the trap had gone there (R332). -/
def State.reflect (s : State) (k : SupStop) : State := s.setMe (s.supDone.me.enterHandler k.cause.toNat k.eval (some k.vri))

/-- The clean copy of a poisoned cellar word (R331), whose address is that of the access, or of the engine command's source: where it
lies in the image, and the word's key. The supervisor reads the image, which can find an error there (R323). -/
def State.cleanCopy (s : State) (eval : Word64) : State × Option (Nat × Nat) :=
  match s.resolveMe eval.toNat .load with
  | .error _ => (s, none)
  | .ok key =>
    let c := s.myCtx
    if 2 ^ 57 ≤ key ∧ key < 2 ^ 58 ∧ c.cfg.cellarimg ≠ 0 ∧ eval ≠ 0 then
      let p := (key - 2 ^ 57) / 2 ^ 25
      let off := (key - 2 ^ 57) % 2 ^ 25 / 32 * 32
      match c.cfg.presses.findIdx? fun x => x == p with
      | some i =>
        let img := c.cfg.cellarimg + i * 20971520 + off
        let t := s.touch img 32
        (t, if (t.poisonedAt img 32).isNone then some (img, cellarKey p off) else none)
      | none => (s, none)
    else (s, none)

/-- The instruction cause 14 left is completed in software (R251). -/
def State.emulate (s : State) (e : Emul) : State :=
  match e with
  | .waitm key n rd old limit =>
    let t := s.touch key n
    let v := BitVec.ofNat 64 (t.readLe key n)
    if (t.poisonedAt key n).isSome then t.trap 10 (t.x (t.me.ir.extractLsb 17 13))
    else if v ≠ old then t.retireX rd v
    else t.beginWait (.waitm key n rd limit false)
  | .futGet key rd =>
    let t := s.touch key 16
    if (t.poisonedAt key 16).isSome then t.trap 10 (t.x (t.me.ir.extractLsb 17 13))
    else if t.futFull key then t.retireX rd (BitVec.ofNat 64 (t.readLe key 8))
    else t.beginWait (.futGet key rd false)
  | .bar level id n waits =>
    match s.boundBar level id with
    | some num => (s.arriveBar level id num false n).finish s level id waits
    | none => (s.arriveBar level id (s.softBar level) true n).finish s level id waits

/-- Abort the acting hart's context for its cause, just logged. -/
def State.abortFor (s : State) (ctx die : Nat) : State := s.supDone.abort ctx ((s.die die).log.head?)

/-- SUPERVISOR_CAUSE for the acting hart (R331). The instruction of a halted hart is completed in software once it is resumed (R375;
log entry 16). -/
def State.superviseOne (s : State) : State :=
  match s.me.sup with
  | none => s
  | some k =>
    let ctx := s.myCtxId
    let die := dieOfHart s.cur
    let s1 := s.noteCause k
    match k.cause.toNat with
    | 10 =>
      match s1.cleanCopy k.source with
      | (s2, some (img, key)) =>
        let s3 := (s2.storeAt key (s2.bytes img 32)).supDone
        s3.setMe { s3.me with handler := false, csr := { s3.me.csr with vri := k.vri } }
      | (s2, none) =>
        let s3 := s2.event (some (vfOfCtx ctx)) s.hub.seq "poison consumed"
        if s3.me.csr.etvec ≠ 0 ∧ s3.me.handler = false then s3.reflect k
        else s3.supDone.abort ctx ((s1.die die).log.head?)
    | 14 =>
      match k.emul with
      | some e => if s.me.csr.halt then s else ((s.count die 13).supDone).emulate e
      | none => (s.count die 13).supDone
    | 15 =>
      let overruns := match s1.me.window with | some w => w.2 | none => 0
      if overruns ≤ 1 then s1.supDone else s1.abortFor ctx die
    | _ => s1.abortFor ctx die

/-- The supervisor handles the acting hart's cause, and takes the next one that waits. -/
def State.supervise (s : State) : State :=
  let t := s.superviseOne
  if t.me.supNext = [] then t else t.setMe t.me.nextCause

def execSupervisorCause (hart : Nat) (s : State) : Host.Outcome State Fault Refusal :=
  .next (s.atHart hart State.supervise)

/-! The function-level reset (R349). -/

/-- A hart scrubbed to the baseline state. -/
def Hart.scrubbed (h : Hart) : Hart :=
  { (h.aborted.baseline 0) with lmap := [], grant := 0, age := 0, pc := 0, dispatchPc := 0, header := KHeader.max }

/-- Scrub a press (R349 step 4): zeros, no poison, harts in the baseline state, GRANT.ROWS = 0. -/
def State.scrubPress (s : State) (press : Nat) : State :=
  let s1 := (List.range 4).foldl (fun t j =>
    let k := coreOfPress press + j
    let c := t.core k
    let c1 := { c with
      q := [], shift := 0, inx0 := false, ovf0 := false, inx1 := false, ovf1 := false, blocks := [], win0 := 0, win1 := 0,
      winSync := 0, b0 := BBuf.zero, b1 := BBuf.zero, mq := [], eng0 := { c.eng0 with fifo := [], running := [] },
      eng1 := { c.eng1 with fifo := [], running := [] }, bars := [] }
    ((hartsOf k).foldl (fun u h => u.setHart h (u.hart h).scrubbed) (t.setCore k c1)).clearArea (spadKey k 0) (2 ^ 20)) s
  (s1.setPress press { s1.press press with blocks := [], bars := [], cellarCtx := none, resident := none }).clearArea
    (cellarKey press 0) 20971520

/-- A context returned to Free; its wear count is cleared by a new configuration only (R318). -/
def Ctx.freed (c : Ctx) : Ctx := { Ctx.reset with wear := c.wear, failSeq := c.failSeq, failCause := c.failCause }

/-- Presses a VF owns. -/
def State.pressesOf (s : State) (vf : Nat) : List Nat := (List.range 128).filter fun p => (s.press p).vf == some vf

/-- The response of a data command (R356, R387). -/
def DataCmd.answer (c : DataCmd) (status detail : Nat) (body : RespBody) : Resp :=
  { op := c.op, tag := c.hdr.tag, vf := c.hdr.vf, mgmt := c.hdr.mgmt, status := status, detail := detail % 2 ^ 56, body := body }

/-- The VA of the 64-byte sector that holds a piece's address (R387): host window and cellar as R216 places them (log entry 67). -/
def State.sectorVa (s : State) (c : DataCmd) (a : Nat) : Nat :=
  let va :=
    if c.op = 0x0013 ∨ c.op = 0x0014 then 0x7F0200000000 + a
    else if c.op = 0x0012 then
      0x7F0100000000 + (s.ctx c.ctx).cfg.presses.getD (a / 20971520) 0 % 32 * 2 ^ 25 + a % 20971520
    else a
  va / 64 * 64

/-- The lowest of a list of addresses. -/
def lowest : List Nat → Nat
  | [] => 0
  | [a] => a
  | a :: t => min a (lowest t)

/-- Sectors a data command has still to perform. -/
def State.sectorsLeft (s : State) (c : DataCmd) : List Nat := c.todo.map fun e => s.sectorVa c e.1

/-- The data commands of a VF under way are discarded: none of their pieces still to do is performed, and each gets STATUS 2 with the
VA of the lowest such sector (R349 step 3, R387). -/
def State.dropData (s : State) (vf : Nat) : State :=
  let mine := s.hub.data.filter fun c => c.hdr.vf == vf
  let s1 := mine.foldl (fun t c => t.respond (c.answer 2 (lowest (s.sectorsLeft c)) .empty)) s
  { s1 with hub := { s1.hub with data := s1.hub.data.filter fun c => c.hdr.vf != vf } }

/-- A function-level reset begins: new commands for the VF are refused until it ends (R349 step 1, R386). -/
def State.flrBegin (s : State) (vf : Nat) : State := s.setVf vf { s.vf vf with resetting := true }

/-- The function-level reset of a VF, or all that is left of it, as one step (R349, R365; log entry 31). -/
def State.functionReset (s0 : State) (vf : Nat) : State :=
  let mine := (List.range 4).map fun i => vf * 4 + i
  let s1 := (mine.foldl (fun t c => t.abort c none) s0).dropData vf
  let s2 := (s1.pressesOf vf).foldl (fun t p => t.scrubPress p) s1
  let s3 := mine.foldl (fun t c =>
    let u := (List.range 4).foldl (fun w d => w.setDie d { w.die d with bars := barsNotOf c (w.die d).bars }) t
    u.setCtx c (u.ctx c).freed) s2
  let s4 := { s3 with tlb := s3.tlb.filter fun t => vfOfCtx t.ctx != vf }
  (s4.setVf vf { s4.vf vf with tdisp := .unlocked, nonce := 0, resetting := false }).measureAll

end Sys2Proof.Machine
end

