-- ==== Sys2Proof/Machine/Power.lean ====
section
/-!
DEFINITION. Power and resets (R313 to R315, R346 to R348): the state and budget of a die, HIPRESS and the permitted set,
throttling, the power states of the device, cold and warm resets, loss of the supply.
-/
namespace Sys2Proof.Machine

/-! Power of a die (R313, R314, R315). -/

/-- Whether a press is drained: it waits for repair, or one of its cores is Drained or Retired. -/
def State.pressDrained (s : State) (p : Nat) : Bool := (List.range 4).any fun j => s.drained (coreOfPress p + j)

/-- Enabled presses of a die that are not drained. -/
def State.livePresses (s : State) (die : Nat) : List Nat :=
  ((List.range 32).map fun p => die * 32 + p).filter fun p => (s.press p).enabled && !s.pressDrained p

/-- Accumulated wear of a press: the sum over its cores (log entry 32). -/
def State.pressWear (s : State) (p : Nat) : Nat :=
  ((List.range 4).map fun j => (s.wearOf (s.physCore (coreOfPress p + j))).w).sum

/-- The state of a die at a power in mW and a junction in tenths of a degree (R313). -/
def powerState (budget mw tj : Nat) : DiePower :=
  if budget < mw ∨ 1050 ≤ tj then .critical else if budget * 9 ≤ mw * 10 ∨ 950 ≤ tj then .low else .normal

/-- HIPRESS (R314), powers in mW. -/
def hipressOf (st : DiePower) (live budget ph pl : Nat) : Nat :=
  if st = .normal ∨ ph ≤ pl then live
  else
    let share : Nat := if st = .critical then 80 else 90
    let n : Int := ((share * budget : Nat) - (100 * live * pl : Nat) : Int) / ((100 * (ph - pl) : Nat) : Int)
    min live (max 1 n).toNat

/-- POWER_STATE_UPDATE (R313 to R315): state, HIPRESS and the permitted set together. -/
def State.powerUpdate (s : State) (die mw tj : Nat) (ph pl : Option Nat) : State :=
  let d := s.die die
  let st := powerState d.budget mw tj
  let live := s.livePresses die
  let hi := hipressOf st live.length d.budget (ph.getD 11000) (pl.getD 3000)
  let order := sortBy (fun a b => decide (s.pressWear a * 32 + a % 32 ≤ s.pressWear b * 32 + b % 32)) live
  let crit := decide (st = .critical)
  s.setDie die { d with
    power := st, mw := mw, tj := tj, hipress := hi, permitted := if st = .normal then [] else order.take hi,
    criticalMs := if crit && decide (d.power = .critical) then d.criticalMs + 1 else 0, throttle := if crit then d.throttle else 0,
    stopped := crit && d.stopped }

def execPowerStateUpdate (die mw tj : Nat) (ph pl : Option Nat) (s : State) : Host.Outcome State Fault Refusal :=
  .next (s.powerUpdate die mw tj ph pl)

/-- POWER_BUDGET_UPDATE (R346): what the hub, LPDDR 6, SerDes and rails (`other` mW) leave of PLIM, in four equal parts. -/
def execPowerBudgetUpdate (other : Nat) (s : State) : Host.Outcome State Fault Refusal :=
  let b := (s.hub.plim * 1000 - other) / 4
  .next ((List.range 4).foldl (fun t d => t.setDie d { t.die d with budget := b }) s)

/-- CRITICAL_THROTTLE (R346): one step of a die Critical for more than 10 ms; timing only. -/
def execCriticalThrottle (die : Nat) (s : State) : Host.Outcome State Fault Refusal :=
  let d := s.die die
  .next (if d.power = .critical ∧ 10 < d.criticalMs then s.setDie die { d with throttle := d.throttle + 1 } else s)

/-- CRITICAL_STOP (R346): a die still Critical after 100 ms stops issue; Olinath's entry is in the hub's log, and its KIND is a free
value, as R334 lists none for it. -/
def execCriticalStop (die : Nat) (s : State) : Host.Outcome State Fault Refusal :=
  let d := s.die die
  if d.power = .critical ∧ 100 ≤ d.criticalMs ∧ d.stopped = false then
    let seq := s.hub.seq
    let e : LogEntry :=
      { seq := 0, kind := listedKind Config.criticalKind, code := 0, result := 0, die := 4, press := 0, ctx := 0xFF, hart := 0,
        core := 0, pa := false, addr := 0, time := 0, detail := 0 }
    .next (((s.setDie die { d with stopped := true }).logEntry e).event none seq "die stopped in Critical")
  else .next s

/-! Resets of the device (R347, R348). -/

/-- The hub after a reset of everything but flash and fuses. -/
def Hub.coldReset (h : Hub) (power : DevPower) : Hub :=
  { Hub.reset with
    product := h.product, power := power, flash0 := h.flash0, flash1 := h.flash1, fw0 := h.fw0, fw1 := h.fw1,
    fwSlot := h.fwSlot, fwMin := h.fwMin, identity := h.identity, xmss := max h.flash0 h.flash1, xmssWarned := h.xmssWarned,
    wearCopy0 := h.wearCopy0, wearCopy1 := h.wearCopy1, wearTurn := !h.copyOne, lasting := h.wearCopy.lasting,
    cxlPop0 := h.cxlPop0, cxlPop1 := h.cxlPop1, cxl0 := h.cxl0, cxl1 := h.cxl1, ucie := h.ucie, resps := h.resps,
    events := h.events }

/-- A press as the fuses and the wear record leave it: one that waits for its repair point still does (R345). -/
def Press.fused (p : Press) : Press :=
  { Press.reset with phys := p.phys, enabled := p.enabled, repair := p.repair }

/-- The listed presses with only their fuses kept. -/
def State.fusedPresses (s : State) : FMap Press :=
  s.presses.foldl (fun m e => fset (Press.resetOf s.hub.product e.1) m e.1 (s.press e.1).fused) []

/-- Every die with only its fuses kept. -/
def State.fusedDies (s : State) : FMap Die :=
  s.dies.foldl (fun m e => fset Die.reset m e.1 { Die.reset with spares := (s.die e.1).spares }) []

/-- Every core as reset leaves it; withdrawn clusters stay withdrawn until the repair point (R330). -/
def State.freshCores (s : State) : FMap Core :=
  (List.range 512).foldl (fun m c =>
    fset Core.reset m c { Core.fresh s.coreClk with withdrawn := (s.core c).withdrawn }) []

/-- Everything but flash and fuses goes back to its reset value; what the outside world has yet to do stays. -/
def State.coldState (s : State) (power : DevPower) : State :=
  let h := s.hub.coldReset power
  let t : State := { State.reset with
    agenda := s.agenda, clk := s.clk, coreClk := s.coreClk, presses := s.fusedPresses, dies := s.fusedDies, hub := h,
    wear := h.wearCopy.load, cores := s.freshCores, links := fmapValues Link.reset (fun _ l => { Link.reset with up := l.up }) s.links,
    seqNo := s.seqNo, freeNo := s.freeNo }
  t.clocked

/-- COLD_RESET (R348), power-up among them: a copy of the record is written (R341). -/
def execColdReset (s : State) : Host.Outcome State Fault Refusal := .next (s.writeWear.coldState .reset)

/-- A die's counters and log stay at a warm reset. -/
def State.warmDies (s : State) : FMap Die :=
  s.dies.foldl (fun m e =>
    let d := s.die e.1
    fset Die.reset m e.1
      { Die.reset with spares := d.spares, log := d.log, logged := d.logged, counters := d.counters }) []

/-- WARM_RESET (R348): compute dies and hub, every context to Free; wear record, fuses, counters, logs, link keys, the
measurement log and memory stay. -/
def State.warmReset (s0 : State) : State :=
  let s := s0.writeWear
  let phys := fun (k : Nat) => decide (k < 2 ^ 56)
  let h := s.hub.coldReset .reset
  let t : State := { s.coldState .reset with
    dies := s.warmDies, links := s.links, wear := s.wear, ctrls := s.ctrls,
    mem := s.mem.filter fun e => phys e.1,
    stale := s.stale.filter fun a => phys a.1,
    flaws := ffilter (fun u => phys (u * 32)) s.flaws, flawClk := s.flawClk, poison := ffilter (fun u => phys (u * 32)) s.poison,
    recordOrder := s.recordOrder, inband := s.inband,
    ctxs := s.ctxs.foldl (fun m e => fset Ctx.reset m e.1 (s.ctx e.1).freed) [],
    hub := { h with
      seq := s.hub.seq, time := s.hub.time, wearTime := s.hub.time, wearTurn := s.hub.wearTurn, assigns := s.hub.assigns,
      mlog := s.hub.mlog, cxlDown0 := s.hub.cxlDown0, cxlDown1 := s.hub.cxlDown1, lasting := s.hub.lasting } }
  t.clocked

/-- WARM_RESET (R348): of a device that has its supply. -/
def execWarmReset (s : State) : Host.Outcome State Fault Refusal :=
  .next (if s.hub.power = .off then s else s.warmReset)

/-- Bytes 0 to 87 of a firmware slot (R363). -/
def Slot.header (f : Slot) : List Byte :=
  leBytes 8 f.magic.toNat ++ leBytes 8 f.version.toNat ++ leBytes 8 f.size.toNat ++ f.digest

/-- Whether a slot can boot (R363): its MAGIC, size, digest and signature are right and its version is not below the fused
minimum. -/
def Slot.boots (f : Slot) (low : Nat) : Bool :=
  f.magic == 0xCD5AF1A500000001 && f.size.toNat == f.image.length && f.digest == leBytes 64 (Config.shake256 f.image).toNat &&
    Config.xmssVerify f.header f.sig && decide (low ≤ f.version.toNat)

/-- The slot the boot takes: the one with the higher version among those that can boot; the slot in use where none can (log
entry 70). -/
def Hub.bootSlot (h : Hub) : Bool :=
  if h.fw0.boots h.fwMin && h.fw1.boots h.fwMin then decide (h.fw0.version < h.fw1.version)
  else if h.fw1.boots h.fwMin then true else if h.fw0.boots h.fwMin then false else h.fwSlot

/-- An image that carries a new identity key provides its one-time indices (R362; log entry 73). -/
def Hub.takeKey (h : Hub) : Hub :=
  match Config.imageKey h.slot.image with
  | some k => if k = h.identity then h else { h with identity := k, xmss := 0, flash0 := 0, flash1 := 0, xmssWarned := false }
  | none => h

/-- RESET_COMPLETE (R348, R363, R370): the boot takes its slot, programs the HDM decoders for the memory at the CXL ports and
measures the firmware again; Gysko is ready. -/
def execResetComplete (s : State) : Host.Outcome State Fault Refusal :=
  let h := s.hub
  if h.power = .reset then
    let h1 := { h with fwSlot := h.bootSlot }.takeKey
    .next ({ s with hub := { h1 with power := .standby, cxl0 := h.cxlPop0, cxl1 := h.cxlPop1 } }.measureAll)
  else .next s

/-- POWER_LOSS (R347, R361): the device goes Off with what flash holds; an index may have been written and not used. -/
def execPowerLoss (indexWritten : Bool) (s : State) : Host.Outcome State Fault Refusal :=
  let h := s.hub
  let h1 := if indexWritten then
    (if h.flash0 ≤ h.flash1 then { h with flash0 := h.xmss + 1 } else { h with flash1 := h.xmss + 1 }) else h
  .next ({ s with hub := h1 }.coldState .off)

end Sys2Proof.Machine
end

