-- ==== Sys2Proof/Machine/Debug.lean ====
section
/-!
DEFINITION. The debug unit of a core (R371 to R377): its registers, halting and resuming harts, stop triggers, stepping one
hart, and writes of control and debug registers from outside (R19, R371). Watchpoints and triggers themselves are in
`Translate`, since accesses raise them.
-/
namespace Sys2Proof.Machine

/-! Halting and resuming. -/

/-- Harts of a core an 8-bit mask names. -/
def maskHarts (core : Nat) (mask : BitVec 8) : List Nat := (hartsOf core).filter fun h => mask.getLsbD (h % 8)

/-- A hart halts with a source and a skid (R374); a single step of it is over. -/
def Hart.halted (h : Hart) (source : BitVec 4) (dskid : BitVec 16) : Hart :=
  { h with
    haltPend := false, stepping := false, stepDone := false,
    csr := { h.csr with halt := true, stop := source, dskid := dskid } }

/-- A hart halted at once by a debug command: STOP = 3, DSKID unchanged (R374), after the instruction it has issued where that is
still to complete, unless a stop trigger that has arrived halts it then. A hart that takes no part in a launch, or is halted
already, is left as it is. A stop on its way is without effect if it finds the hart halted (log entry 16). -/
def Hart.haltNow (h : Hart) : Hart :=
  if h.life == .running && !h.csr.halt then
    if h.wait.completes then { h with haltPend := h.haltPend || !h.stopArrived } else h.halted 3 h.csr.dskid
  else h

/-- A halted hart goes on (R376): HALT and STOP are cleared, DSKID stays; a held wake is then due. -/
def Hart.resumed (h : Hart) : Hart :=
  if h.csr.halt then { h with csr := { h.csr with halt := false, stop := 0 } } else h

/-- OP 1 (R372, R374). -/
def State.cmdHalt (s : State) (core : Nat) (mask : BitVec 8) : State :=
  (maskHarts core mask).foldl (fun t h => t.setHart h (t.hart h).haltNow) s

/-- OP 2 (R376). A resumed hart that waits at `lease` is served as if it asked now (R203, R375). -/
def State.cmdResume (s : State) (core : Nat) (mask : BitVec 8) : State :=
  ((maskHarts core mask).foldl (fun t h => t.setHart h (t.hart h).resumed) s).serve core

/-- OP 3 (R377): exactly one halted hart, or CMDERR. -/
def State.cmdStep (s : State) (core : Nat) (mask : BitVec 8) : State :=
  match maskHarts core mask with
  | [h] =>
    if (s.hart h).csr.halt then
      (s.setHart h { (s.hart h).resumed with stepping := true, stepDone := false }).serve core
    else s.setCore core { s.core core with cmderr := true }
  | _ => s.setCore core { s.core core with cmderr := true }

/-- OP 4 (R372, R374). -/
def State.cmdHaltRole (s : State) (core : Nat) (mask : BitVec 4) : State :=
  ((hartsOf core).filter fun h => mask.getLsbD (s.hart h).csr.role.toNat).foldl
    (fun t h => t.setHart h (t.hart h).haltNow) s

/-- A command while debug is locked is ignored (R371). -/
def State.ifUnlocked (s : State) (t : State) : State := if s.hub.debugUnlocked then t else s

def execDcmdHalt (core : Nat) (mask : BitVec 8) (s : State) : Host.Outcome State Fault Refusal :=
  .next (s.ifUnlocked (s.cmdHalt core mask))

def execDcmdResume (core : Nat) (mask : BitVec 8) (s : State) : Host.Outcome State Fault Refusal :=
  .next (s.ifUnlocked (s.cmdResume core mask))

def execDcmdStep (core : Nat) (mask : BitVec 8) (s : State) : Host.Outcome State Fault Refusal :=
  .next (s.ifUnlocked (s.cmdStep core mask))

def execDcmdHaltRole (core : Nat) (mask : BitVec 4) (s : State) : Host.Outcome State Fault Refusal :=
  .next (s.ifUnlocked (s.cmdHaltRole core mask))

/-- OP 5 (R374): a stop trigger across the press of the core. -/
def execDcmdStopPress (core : Nat) (s : State) : Host.Outcome State Fault Refusal :=
  .next (s.ifUnlocked (s.stopTrigger (pressOfCore core) false 3))

/-- OP 6 (R374): a stop trigger across the die. -/
def execDcmdStopDie (core : Nat) (s : State) : Host.Outcome State Fault Refusal :=
  .next (s.ifUnlocked (s.stopTrigger (pressOfCore core) true 3))

/-- What a hart has issued is complete, and a debug command's halt or the six clocks of a stop are over (R374): a hart that still
runs halts, at a command without a change of DSKID, else with the oldest stop's source and skid. Stops that find the hart halted
change nothing. -/
def Hart.stopped (h : Hart) : Hart :=
  let h1 := { h with stopPend := h.stopPend.filter fun p => decide (p.clk < 6), haltPend := false }
  if h.life == .running && !h.csr.halt then
    if h.haltPend then h1.halted 3 h.csr.dskid
    else
      match h.stopPend.find? fun p => decide (6 ≤ p.clk) with
      | some p => h1.halted p.source (BitVec.ofNat 16 p.skid)
      | none => h1
  else h1

def State.stopArrives (s : State) (h : Nat) : State :=
  if (s.hart h).wait.completes then s else s.setHart h (s.hart h).stopped

def execStopHalt (hart : Nat) (s : State) : Host.Outcome State Fault Refusal := .next (s.stopArrives hart)

/-- Whether a hart is parked at an instruction: not on its way out of its task, and not while its instruction goes on elsewhere. -/
def Wait.parksStep (w : Wait) : Bool := w != .none && !w.goesOn && !w.completes

/-- Whether a stepped hart has come to its halt (R377): its instruction has retired or trapped, or is parked, and it is not on its
way out of its task. -/
def Hart.stepOver (h : Hart) : Bool :=
  h.stepping && h.sup.isNone && !h.wait.goesOn && !h.wait.completes && (h.stepDone || h.wait.parksStep)

/-- STEP_HALT (R377): the hart halts again with STOP = 4, also where the stepped instruction is a `brk` or `halt` that has set STOP
to 2 itself (R90, R92; DESIGN CHOICE, log entry 82). -/
def State.stepEnds (s : State) (h : Nat) : State :=
  let H := s.hart h
  if H.stepOver then
    s.setHart h (if H.life == .running then H.halted 4 H.csr.dskid else { H with stepping := false, stepDone := false })
  else s

def execStepHalt (hart : Nat) (s : State) : Host.Outcome State Fault Refusal := .next (s.stepEnds hart)

/-! Unlocking. -/

/-- DEBUG_UNLOCK (R371): refused while any VF is locked or runs. -/
def execDebugUnlock (s : State) : Host.Outcome State Fault Refusal :=
  .next (if (List.range 16).any fun v => (s.vf v).tdisp == .locked || (s.vf v).tdisp == .run then s
    else { s with hub := { s.hub with debugUnlocked := true } }.measure [7])

/-! Registers from outside (R371, R372). -/

/-- A write of DCTL; BSCOPE 3 leaves the field unchanged. -/
def Core.writeDctl (c : Core) (op : CsrOp) (v : Word64) : Core :=
  let old : BitVec 9 := BitVec.ofBool c.brken ++ c.bscope ++ BitVec.ofBool c.frzeng ++ 0#5
  let n := csrApply op old (v.setWidth 9)
  let b := n.extractLsb 7 6
  { c with brken := n.getLsbD 8, frzeng := n.getLsbD 5, bscope := if b = 3 then c.bscope else b }

/-- A write of DCMD: the command its OP names. -/
def State.writeDcmd (s : State) (core : Nat) (v : Word64) : State :=
  let harts : BitVec 8 := v.extractLsb 15 8
  match (v.extractLsb 2 0).toNat with
  | 1 => s.cmdHalt core harts
  | 2 => s.cmdResume core harts
  | 3 => s.cmdStep core harts
  | 4 => s.cmdHaltRole core (v.extractLsb 19 16)
  | 5 => s.stopTrigger (pressOfCore core) false 3
  | 6 => s.stopTrigger (pressOfCore core) true 3
  | _ => s

/-- A write of WPCTLn; ACT 3 leaves the field unchanged. -/
def WatchPoint.writeCtl (w : WatchPoint) (op : CsrOp) (v : Word64) : WatchPoint :=
  let old : BitVec 40 := w.bytes ++ 0#3 ++ BitVec.ofBool w.scope ++ w.mtch ++ w.act
  let n := csrApply op old (v.setWidth 40)
  let a := n.extractLsb 1 0
  { w with bytes := n.extractLsb 39 8, scope := n.getLsbD 4, mtch := n.extractLsb 3 2, act := if a = 3 then w.act else a }

/-- A write of WPADDRn. -/
def WatchPoint.writeAddr (w : WatchPoint) (op : CsrOp) (v : Word64) : WatchPoint :=
  { w with word := csrApply op w.word (v.extractLsb 19 5) }

/-- Watchpoint `n` of a core changed by `f`. -/
def Core.updWp (c : Core) (n : Nat) (f : WatchPoint → WatchPoint) : Core :=
  { c with wps := fset WatchPoint.reset c.wps n (f (fget WatchPoint.reset c.wps n)) }

/-- A write of a core's debug register at an offset; offsets without a register are ignored. -/
def State.debugWrite (s : State) (core off : Nat) (op : CsrOp) (v : Word64) : State :=
  let c := s.core core
  if off = 0x00 then s.setCore core (c.writeDctl op v)
  else if off = 0x08 then s.writeDcmd core (csrApply op 0 v)
  else if off = 0x10 then
    s.setCore core { c with cmderr := (csrW1c op (BitVec.ofBool c.cmderr) (v.extractLsb 8 8)).getLsbD 0 }
  else if 0x40 ≤ off ∧ off < 0xC0 ∧ off % 16 = 0 then s.setCore core (c.updWp ((off - 0x40) / 16) fun w => w.writeAddr op v)
  else if 0x40 ≤ off ∧ off < 0xC0 ∧ off % 16 = 8 then s.setCore core (c.updWp ((off - 0x40) / 16) fun w => w.writeCtl op v)
  else s

/-- What a core's debug register at an offset reads as; DCMD reads zero, and so does everything while debug is locked. -/
def State.debugRead (s : State) (core off : Nat) : Word64 :=
  let c := s.core core
  let wp := fget WatchPoint.reset c.wps ((off - 0x40) / 16)
  if !s.hub.debugUnlocked then 0
  else if off = 0x00 then (BitVec.ofBool c.brken ++ c.bscope ++ BitVec.ofBool c.frzeng ++ 0#5).setWidth 64
  else if off = 0x10 then
    BitVec.ofNat 64 ((if c.cmderr then 256 else 0) +
      ((hartsOf core).map fun h => if (s.hart h).csr.halt then 2 ^ (h % 8) else 0).sum)
  else if 0x40 ≤ off ∧ off < 0xC0 ∧ off % 16 = 0 then (wp.word ++ 0#5).setWidth 64
  else if 0x40 ≤ off ∧ off < 0xC0 ∧ off % 16 = 8 then
    (wp.bytes ++ 0#3 ++ BitVec.ofBool wp.scope ++ wp.mtch ++ wp.act).setWidth 64
  else 0

/-- The logical core a debug register's name belongs to (R371). -/
def State.debugCore (s : State) (die ppress core : Nat) : Option Nat :=
  (s.pressOfPhys die ppress).map fun p => coreOfPress p + core % 4

/-- REGISTER_WRITE (R19, R371): a control register of the acting hart, or a debug register while debug is unlocked. -/
def execRegisterWrite (r : RegTarget) (op : CsrOp) (v : Word64) (s : State) : Host.Outcome State Fault Refusal :=
  match r with
  | .csr n => .next (s.csrWrite n.toNat op v)
  | .dbg die ppress core off =>
    match s.debugCore die ppress core with
    | some c => .next (s.ifUnlocked (s.debugWrite c off.toNat op v))
    | none => .next s

end Sys2Proof.Machine
end

