-- ==== Sys2Proof/Machine/Security.lean ====
section
/-!
DEFINITION. Attestation (R359, R361, R362; measurements are in `Wear`), TDISP states (R364, R365), memory keys (R366, R367), link keys (R353, R368, R369) and
CXL ports (R370). The order of SPDM requests within a session is SPDM 1.3's (log entry 33).
-/
namespace Sys2Proof.Machine

/-! Signing (R361, R362). -/

/-- Release a signature: the next index is in flash first; none when the indices are used up. From 2^20 − 4096 used indices on the
management session is told once. -/
def State.sign (s : State) (digest : Nat) : Option (State × Nat) :=
  let h := s.hub
  let i := h.xmss
  if 2 ^ 20 ≤ i then none
  else
    let h1 := if h.flash0 ≤ h.flash1 then { h with flash0 := i + 1 } else { h with flash1 := i + 1 }
    let s1 := { s with hub := { h1 with xmss := i + 1 } }
    let s2 := if 2 ^ 20 - 4096 ≤ i + 1 ∧ !h.xmssWarned then
      { s1 with hub := { s1.hub with xmssWarned := true } }.event none 0 "signing key nearly exhausted" else s1
    some (s2, Config.xmssSign h.identity i digest)

/-! Sessions: 0 to 15 of the VFs, 16 of the management (R359). -/

def State.session (s : State) (ses : Nat) : SpdmSession := fget SpdmSession.reset s.hub.sessions ses

def State.setSession (s : State) (ses : Nat) (v : SpdmSession) : State :=
  { s with hub := { s.hub with sessions := fset SpdmSession.reset s.hub.sessions ses v } }

/-- The reply to an SPDM request, with its TAG (R354). -/
def State.reply (s : State) (q : SpdmReq) (status : Nat) (body : RespBody) : State :=
  s.respond { op := 0x30, tag := q.tag, vf := q.ses % 16, mgmt := decide (q.ses = 16), status := status, detail := 0, body := body }

/-- A request whose turn it is not. -/
def State.refuse (s : State) (q : SpdmReq) (status : Nat) : State := s.reply q status .empty

/-- A request as a step of its own: nothing hears it in Off, in Reset it is refused with STATUS 4 (R347, R356), and from a VF whose
function-level reset is under way with STATUS 2 (R349, R386). -/
def State.message (s : State) (q : SpdmReq) (f : State → State) : Host.Outcome State Fault Refusal :=
  .next (if s.hub.power = .off then s else if s.hub.power = .reset then s.refuse q 4
    else if q.ses < 16 ∧ (s.vf q.ses).resetting = true then s.refuse q 2 else f s)

/-- A request that needs `ok`, refused otherwise. -/
def State.spdm (s : State) (q : SpdmReq) (ok : Bool) (f : State → State) : Host.Outcome State Fault Refusal :=
  s.message q fun t => if ok then f t else t.refuse q 1

def execGetVersion (q : SpdmReq) (s : State) : Host.Outcome State Fault Refusal :=
  s.spdm q true fun t => (t.setSession q.ses { SpdmSession.reset with versioned := true }).reply q 0 (.ints [0x13])

def execGetCapabilities (q : SpdmReq) (s : State) : Host.Outcome State Fault Refusal :=
  let k := s.session q.ses
  s.spdm q k.versioned fun t => (t.setSession q.ses { k with capable := true }).reply q 0 .empty

/-- NEGOTIATE_ALGORITHMS (R359): without XMSS, SHA3-384, secp384r1 and AES-256-GCM there is no session. -/
def execNegotiateAlgorithms (q : SpdmReq) (xmss sha dhe aead : Bool) (s : State) : Host.Outcome State Fault Refusal :=
  let k := s.session q.ses
  s.spdm q (k.capable && xmss && sha && dhe && aead) fun t =>
    (t.setSession q.ses { k with negotiated := true }).reply q 0 .empty

def execGetDigests (q : SpdmReq) (s : State) : Host.Outcome State Fault Refusal :=
  s.spdm q (s.session q.ses).negotiated fun t => t.reply q 0 (.bytes (leBytes 48 (Config.sha384 (Config.certChain t.hub.identity)).toNat))

def execGetCertificate (q : SpdmReq) (off len : Nat) (s : State) : Host.Outcome State Fault Refusal :=
  s.spdm q (s.session q.ses).negotiated fun t => t.reply q 0 (.bytes (((Config.certChain t.hub.identity).drop off).take len))

/-- Answer with bytes and a signature over them, or STATUS 8. -/
def State.signed (s : State) (q : SpdmReq) (b : List Byte) (f : State → State) : State :=
  match s.sign (Config.shake256 b).toNat with
  | none => s.refuse q 8
  | some (t, sig) => (f t).reply q 0 (.signed b sig)

/-- Bytes of a requester's nonce (log entry 33). -/
def nonceBytes (n : Nat) : List Byte := leBytes 32 n

/-- Bytes of a secp384r1 key share (R359; log entry 33). -/
def shareBytes (n : Nat) : List Byte := leBytes 96 n

/-- CHALLENGE (R359, R361). -/
def execChallenge (q : SpdmReq) (nonce : Nat) (s : State) : Host.Outcome State Fault Refusal :=
  s.spdm q (s.session q.ses).negotiated fun t => t.signed q (nonceBytes nonce ++ measurementBlocks t.measurements) id

/-- GET_MEASUREMENTS (R360): one of the eight, all of them for 255, their number for 0. -/
def execGetMeasurements (q : SpdmReq) (index : Nat) (sign : Bool) (nonce : Nat) (s : State) : Host.Outcome State Fault Refusal :=
  s.spdm q ((s.session q.ses).negotiated && (decide (index ≤ 8) || decide (index = 255))) fun t =>
    let b := if index = 0 then leBytes 1 8
      else measurementBlocks (if index = 255 then t.measurements else [t.measurement index])
    if sign then t.signed q (b ++ nonceBytes nonce) id else t.reply q 0 (.bytes b)

/-- KEY_EXCHANGE (R359, R361). -/
def execKeyExchange (q : SpdmReq) (share : Nat) (s : State) : Host.Outcome State Fault Refusal :=
  let k := s.session q.ses
  s.spdm q k.negotiated fun t =>
    let x := Config.keyShare share t.freeNo
    t.bumpFree.signed q (shareBytes share ++ shareBytes x) fun u => u.setSession q.ses { k with exchanged := some x }

/-- FINISH (R359): the session is secured if the MAC verifies. -/
def execFinish (q : SpdmReq) (mac : Nat) (s : State) : Host.Outcome State Fault Refusal :=
  let k := s.session q.ses
  match k.exchanged with
  | none => s.spdm q false id
  | some x =>
    s.spdm q true fun t =>
      if Config.finishOk x mac then (t.setSession q.ses { k with exchanged := none, secured := true, keyGen := 0 }).reply q 0 .empty
      else (t.setSession q.ses { k with exchanged := none }).refuse q 1

def execHeartbeat (q : SpdmReq) (s : State) : Host.Outcome State Fault Refusal :=
  s.spdm q (s.session q.ses).secured fun t => t.reply q 0 .empty

def execKeyUpdate (q : SpdmReq) (s : State) : Host.Outcome State Fault Refusal :=
  let k := s.session q.ses
  s.spdm q k.secured fun t => (t.setSession q.ses { k with keyGen := k.keyGen + 1 }).reply q 0 .empty

def execEndSession (q : SpdmReq) (s : State) : Host.Outcome State Fault Refusal :=
  let k := s.session q.ses
  s.spdm q k.secured fun t => (t.setSession q.ses { k with secured := false }).reply q 0 .empty

/-! TDISP (R364, R365). -/

/-- A vendor-defined message for a VF: in that VF's secured session or the management's, and not while the VF's function-level reset is
under way (R349, R386). -/
def State.vendor (s : State) (q : SpdmReq) (vf : Nat) (f : State → State) : State :=
  if !(s.session q.ses).secured then s.refuse q 1
  else if (q.ses ≠ vf ∧ q.ses ≠ 16) ∨ (s.vf vf).resetting = true then s.refuse q 2 else f s

def tdispVersion (q : SpdmReq) (vf : Nat) (s : State) : State := s.vendor q vf fun t => t.reply q 0 (.ints [0x10])

def tdispCapabilities (q : SpdmReq) (vf : Nat) (s : State) : State := s.vendor q vf fun t => t.reply q 0 .empty

def tdispLock (q : SpdmReq) (vf : Nat) (s : State) : State :=
  s.vendor q vf fun t =>
    if (t.vf vf).tdisp = .unlocked then
      let n := Config.freshNonce t.freeNo
      (t.bumpFree.setVf vf { t.vf vf with tdisp := .locked, nonce := n }).reply q 0 (.ints [n])
    else t.refuse q 2

/-- The report: presses, ranges, the host window, the nonce. -/
def tdispReport (q : SpdmReq) (vf : Nat) (s : State) : State :=
  s.vendor q vf fun t =>
    t.reply q 0 (.ints ((t.pressesOf vf).length :: t.pressesOf vf ++ (t.vf vf).ranges.length :: (t.vf vf).ranges ++
      [0x7F0200000000, 65536, (t.vf vf).nonce]))

def tdispCode : Tdisp → Nat
  | .unlocked => 0
  | .locked => 1
  | .run => 2
  | .error => 3

def tdispState (q : SpdmReq) (vf : Nat) (s : State) : State := s.vendor q vf fun t => t.reply q 0 (.ints [tdispCode (t.vf vf).tdisp])

def tdispStart (q : SpdmReq) (vf nonce : Nat) (s : State) : State :=
  s.vendor q vf fun t =>
    if (t.vf vf).tdisp = .locked ∧ nonce = (t.vf vf).nonce then
      (t.setVf vf { t.vf vf with tdisp := .run }).reply q 0 .empty
    else t.refuse q 2

def tdispStop (q : SpdmReq) (vf : Nat) (s : State) : State := s.vendor q vf fun t => (t.functionReset vf).reply q 0 .empty

/-- An unsupported message is answered with an error. -/
def tdispOther (q : SpdmReq) (vf : Nat) (s : State) : State := s.vendor q vf fun t => t.refuse q 1

/-- A VF's key changes: what its memory holds was written under the key before and reads as unrelated bytes under another, but
under that same key again as it was (R367). -/
def State.rekey (s : State) (vf : Nat) (v : Vf) : State :=
  (((s.vf vf).ranges.foldl (fun t r => t.tagRange vf r) s).setVf vf v).rekeyed

/-- A key installed, or generated by Olinath, for a VF: only in CONFIG_UNLOCKED and from its own session, an installed one protected by
session keys that a KEY_UPDATE has renewed (R367; log entry 38). -/
def keyInstall (q : SpdmReq) (vf : Nat) (key : Option Nat) (s : State) : State :=
  s.vendor q vf fun t =>
    let v := t.vf vf
    if v.tdisp = .unlocked ∧ q.ses = vf ∧ (key = none ∨ (t.session q.ses).keyGen ≠ 0) then
      ((t.rekey vf { v with
        keyed := true, key := some (key.getD (2 ^ 256 + Config.freshKey t.freeNo)), keyGen := v.keyGen + 1,
        lostKey := false }).bumpFree).reply q 0 .empty
    else t.refuse q 2

def execMemoryKeyInstall (q : SpdmReq) (vf : Nat) (key : Option Nat) (s : State) : Host.Outcome State Fault Refusal :=
  s.message q (keyInstall q vf key)

def execGetTdispVersion (q : SpdmReq) (vf : Nat) (s : State) : Host.Outcome State Fault Refusal := s.message q (tdispVersion q vf)

def execGetTdispCapabilities (q : SpdmReq) (vf : Nat) (s : State) : Host.Outcome State Fault Refusal :=
  s.message q (tdispCapabilities q vf)

def execLockInterfaceRequest (q : SpdmReq) (vf : Nat) (s : State) : Host.Outcome State Fault Refusal := s.message q (tdispLock q vf)

def execGetDeviceInterfaceReport (q : SpdmReq) (vf : Nat) (s : State) : Host.Outcome State Fault Refusal :=
  s.message q (tdispReport q vf)

def execGetDeviceInterfaceState (q : SpdmReq) (vf : Nat) (s : State) : Host.Outcome State Fault Refusal :=
  s.message q (tdispState q vf)

def execStartInterfaceRequest (q : SpdmReq) (vf nonce : Nat) (s : State) : Host.Outcome State Fault Refusal :=
  s.message q (tdispStart q vf nonce)

def execStopInterfaceRequest (q : SpdmReq) (vf : Nat) (s : State) : Host.Outcome State Fault Refusal := s.message q (tdispStop q vf)

def execTdispUnsupportedMessage (q : SpdmReq) (vf _code : Nat) (s : State) : Host.Outcome State Fault Refusal :=
  s.message q (tdispOther q vf)

/-- VENDOR_DEFINED_REQUEST (R359, R364, R367): the message it carries. -/
def execVendorDefinedRequest (q : SpdmReq) (body : VendorMsg) (s : State) : Host.Outcome State Fault Refusal :=
  s.message q (match body with
    | .getTdispVersion vf => tdispVersion q vf
    | .getTdispCapabilities vf => tdispCapabilities q vf
    | .lockInterface vf => tdispLock q vf
    | .getInterfaceReport vf => tdispReport q vf
    | .getInterfaceState vf => tdispState q vf
    | .startInterface vf nonce => tdispStart q vf nonce
    | .stopInterface vf => tdispStop q vf
    | .memoryKey vf key => keyInstall q vf key
    | .other _ => tdispOther q q.ses)

/-- A locked or running VF goes to ERROR (R365). -/
def State.vfError (s : State) (vf : Nat) : State :=
  let v := s.vf vf
  if v.tdisp = .locked ∨ v.tdisp = .run then s.setVf vf { v with tdisp := .error } else s

/-- SESSION_FAULT (R365). -/
def execSessionFault (vf : Nat) (s : State) : Host.Outcome State Fault Refusal := .next (s.vfError vf)

/-- MEMORY_KEY_LOSS (R367): what was written under the key is unrelated bytes. -/
def execMemoryKeyLoss (vf : Nat) (s : State) : Host.Outcome State Fault Refusal :=
  let v := s.vf vf
  .next ((s.rekey vf { v with keyed := false, lostKey := true }).vfError vf)

/-! Chip-to-chip links (R353, R368, R369). -/

/-- The receiver's key of a slot. -/
def Link.rx (l : Link) (slot : Bool) : Option (Nat × Nat) := if slot then l.rx1 else l.rx0

/-- A link with a key in a slot of both ends. -/
def Link.install (l : Link) (slot : Bool) (k : Option (Nat × Nat)) : Link :=
  if slot then { l with rx1 := k, tx1 := k } else { l with rx0 := k, tx0 := k }

/-- Packets sent under the key of a slot (R368). -/
def Link.psn (l : Link) (slot : Bool) : Nat := if slot then l.psn1 else l.psn0

def Link.setPsn (l : Link) (slot : Bool) (n : Nat) : Link := if slot then { l with psn1 := n } else { l with psn0 := n }

/-- Whether a packet's tag is that of its slot's key and salt, its PSN, slot bit and bytes (R368). -/
def Link.verifies (l : Link) (slot : Bool) (psn : Nat) (packet : List Byte) (tag : Nat) : Bool :=
  match l.rx slot with
  | some (key, salt) => tag == (Config.linkTag key salt psn slot packet).toNat
  | none => false

/-- A packet that has been received as it was sent; its PSN is not taken again under that key (R368). -/
def Link.deliver (l : Link) (slot : Bool) (psn : Nat) : Link :=
  { l.setPsn slot (max (l.psn slot) (psn + 1)) with
    fails := 0, seen := (slot, psn) :: l.seen, counted := l.counted + 1, newSeen := l.newSeen || slot == l.active }

/-- The eighth failure in a row: the packet is delivered with its poison flag set, which is logged and has the link tested
(R323, R324, R368). -/
def State.linkPoisoned (s : State) (port : Nat) (l : Link) : State :=
  let e : LogEntry :=
    { seq := 0, kind := 6, code := 0, result := 0, die := 4, press := 0, ctx := 0xFF, hart := 0, core := 0,
      pa := false, addr := 0, time := 0, detail := BitVec.ofNat 64 port }
  ((s.count 4 5).logTested e (.link (128 + port))).setLink port { l with fails := 0, poisoned := l.poisoned + 1 }

/-- LINK_PACKET_RECEIVE: unreliable and idempotent packets are dropped and counted (R353); a packet whose tag fails or whose
slot is empty is dropped, counted and sent again, and delivered poisoned at the eighth failure in a row (R368, R323). A packet whose PSN
has come under that key before is dropped and counted (R368; log entry 86). -/
def State.linkPacket (s : State) (port : Nat) (mode : Delivery) (slot : Bool) (psn : Nat) (packet : List Byte) (tag : Nat) :
    State :=
  let l0 := s.link port
  let l := { l0 with quiet := if slot == l0.active then l0.quiet else 0 }
  if mode = .unreliable ∨ mode = .idempotent then s.setLink port { l0 with dropped := l0.dropped + 1 }
  else if l.verifies slot psn packet tag then
    s.setLink port (if l.seen.contains (slot, psn) then { l with dropped := l.dropped + 1 } else l.deliver slot psn)
  else
    let s1 := s.count 4 4
    if l.fails + 1 < 8 then s1.setLink port { l with fails := l.fails + 1, dropped := l.dropped + 1 }
    else s1.linkPoisoned port l

def execLinkPacketReceive (port : Nat) (mode : Delivery) (slot : Bool) (psn : Nat) (packet : Packet) (s : State) :
    Host.Outcome State Fault Refusal :=
  .next (s.linkPacket port mode slot psn packet.bytes packet.tag)

/-- A key not used on the link before comes into a slot of both ends, from PSN 0 (R368). -/
def Link.newKey (l : Link) (slot : Bool) (k : Nat × Nat) : Link :=
  let m := (l.install slot (some k)).setPsn slot 0
  { m with used := k.1 :: m.used, seen := m.seen.filter fun e => e.1 != slot }

/-- A rotation's steps 1 to 3 (R369): both ends hold the new key and the sender uses the other slot; on a link without a key
yet the active slot is filled. A rotation waits until the receiver has emptied the slot it goes to, and a key that the link has used is
no new key (R368; log entry 86). -/
def Link.rotate (l : Link) (k : Nat × Nat) : Link :=
  if l.used.contains k.1 then l
  else if (l.rx l.active).isNone then l.newKey l.active k
  else if (l.rx (!l.active)).isSome then l
  else
    { l.newKey (!l.active) k with
      active := !l.active, gen := l.gen + 1, newSeen := false, quiet := 0 }

def execLinkKeyRotation (port key salt : Nat) (s : State) : Host.Outcome State Fault Refusal :=
  .next (s.setLink port ((s.link port).rotate (key, salt)))

/-- Whether the receiver empties the old slot: a packet of the new one has come and 4 µs have passed without an old one. -/
def Link.retires (l : Link) : Bool := (l.rx (!l.active)).isSome && l.newSeen && decide (7200 ≤ l.quiet)

/-- LINK_SLOT_RETIRE (R369). -/
def execLinkSlotRetire (port : Nat) (s : State) : Host.Outcome State Fault Refusal :=
  let l := s.link port
  .next (if l.retires then s.setLink port { l.install (!l.active) none with newSeen := false, quiet := 0 } else s)

/-- The name of a key that Olinath generates for a link: none that is installed has it, and no two have the same (log entry 86). -/
def State.linkKey (s : State) : Nat := 2 ^ 256 + s.freeNo

/-- PSN_LIMIT (R368): at 2^62 packets under one key the sender forces a rotation, with a key and a salt of its own. -/
def execPsnLimit (port : Nat) (s : State) : Host.Outcome State Fault Refusal :=
  let l := s.link port
  .next (if 2 ^ 62 ≤ l.psn l.active then
    (s.setLink port (l.rotate (s.linkKey, Config.freshKey s.freeNo % 2 ^ 32))).bumpFree
  else s)

/-! CXL ports (R370). -/

/-- A memory device is attached to a port; the HDM decoders map it from the next boot on. -/
def State.attachCxl (s : State) (port gib : Nat) : State :=
  { s with hub := if port = 0 then { s.hub with cxlPop0 := gib } else { s.hub with cxlPop1 := gib } }

def State.setCxl (s : State) (port : Nat) (down : Bool) : State :=
  { s with hub := if port = 0 then { s.hub with cxlDown0 := down } else { s.hub with cxlDown1 := down } }

def execCxlPortDown (port : Nat) (s : State) : Host.Outcome State Fault Refusal := .next (s.setCxl port true)

def execCxlPortRetrain (port : Nat) (s : State) : Host.Outcome State Fault Refusal := .next (s.setCxl port false)

end Sys2Proof.Machine
end

