-- ==== Sys2Proof/Machine/HostCmd.lean ====
section
/-!
DEFINITION. The Gysko commands (R354 to R358): what each session may send and when, launches (R268, R269), contexts (R297 to
R300, R305), data commands, SUMMARY (R337 to R339), function-level reset, assignment, power and firmware.
-/
namespace Sys2Proof.Machine

/-! Admission (R347, R355, R365). -/

/-- How R355 lets a command be sent: like LAUNCH; in every session; a VF's in RUN; the management's alone; ASSIGN; outside
a session. -/
inductive Right where
  | kernel | anyone | window | manager | assign | summary | outside
deriving DecidableEq, Repr

/-- The session slot of a message (R359); none outside a session. -/
def slotOf (x : Session) : Option Nat :=
  match x with
  | .none => none
  | .vf v => some v
  | .mgmt => some 16

/-- Whether the session and the MGMT bit allow a command at all. -/
def State.sessionOk (s : State) (h : GyskoHdr) (r : Right) : Bool :=
  match h.session with
  | .none => r == .outside && !h.mgmt
  | .vf v => (r == .outside || (s.session v).secured) && !h.mgmt && v == h.vf && r != .manager && r != .assign
  | .mgmt => (r == .outside || (s.session 16).secured) && h.mgmt && r != .window

/-- Whether the TDISP state of the target VF allows a command (R355, R365). -/
def State.tdispOk (s : State) (h : GyskoHdr) (r : Right) : Bool :=
  let st := (s.vf h.vf).tdisp
  match r with
  | .outside | .summary | .manager => true
  | .anyone => decide (st ≠ .error)
  | .window => decide (st = .run)
  | .kernel => if h.mgmt then decide (st = .unlocked) else decide (st = .run)
  | .assign => (List.range 16).all fun v => decide ((s.vf v).tdisp ≠ .locked) && decide ((s.vf v).tdisp ≠ .run)
      && decide (st = .unlocked)

/-- The STATUS with which a message is refused before its payload is looked at. -/
def State.gate (s : State) (h : GyskoHdr) (r : Right) : Option Nat :=
  if s.hub.power = .reset then some 4
  else if h.zero ≠ 0 ∨ 16 ≤ h.vf then some 1
  else if !s.sessionOk h r then some 2
  else if (s.vf h.vf).resetting ∧ r ≠ .summary ∧ r ≠ .manager then some 2
  else if s.hub.power = .standby ∧ h.mgmt = false ∧ r ≠ .summary ∧ r ≠ .outside then some 2
  else if !s.tdispOk h r then some 2
  else none

/-- A response to a message. -/
def State.answer (s : State) (h : GyskoHdr) (op : BitVec 16) (status detail : Nat) (body : RespBody) : State :=
  s.respond { op := op, tag := h.tag, vf := h.vf, mgmt := h.mgmt, status := status, detail := detail % 2 ^ 56, body := body }

/-- What a command comes to: refused with STATUS and DETAIL, done, or done with its response to come later. -/
inductive Result where
  | refused (status detail : Nat)
  | done (s : State) (body : RespBody)
  | later (s : State)

/-- A Gysko command (R355, R356): nothing hears it in Off; a refused one changes no state. -/
def State.gysko (s : State) (h : GyskoHdr) (op : BitVec 16) (r : Right) (f : State → Result) :
    Host.Outcome State Fault Refusal :=
  if s.hub.power = .off then .next s
  else
    match s.gate h r with
    | some st => .next (s.answer h op st 0 .empty)
    | none =>
      match f s with
      | .refused st d => .next (s.answer h op st d .empty)
      | .done t b => .next (t.answer h op 0 0 b)
      | .later t => .next t

/-! Host addresses (R357). -/

def isCanonical (va : Nat) : Bool := decide (va / 2 ^ 47 = 0) || decide (va / 2 ^ 47 = 2 ^ 17 - 1)

/-- Whether a leaf lets a host access pass: no RD or W is asked, a WRITE to an executable page is refused while the context runs
(R59, R303; log entry 34). -/
def State.hostAllows (s : State) (ctx : Nat) (write : Bool) (e : Word64) : Bool :=
  !(write && pteX e && decide ((s.ctx ctx).st = .resident))

/-- The storage key of a host access to a context's global memory. -/
def State.hostKeyOf (s : State) (ctx va : Nat) (write : Bool) : Option Nat :=
  if !isCanonical va then none
  else
    match s.leafOf ctx (va % 2 ^ 48) (s.hostAllows ctx write) with
    | .error _ => none
    | .ok (e, size) =>
      let pa := pteAddr e + va % size
      some (if pteRemote e then remoteKey (pteDev e) pa else pa)

/-- The first byte of a range in a fixed window. -/
def windowByte (va n : Nat) : Option Nat :=
  if n = 0 then none
  else if va < 0x100000 then some va
  else if 0x7F0000000000 ≤ va ∧ va < 0x800000000000 then some va
  else if va < 0x7F0000000000 ∧ 0x7F0000000000 < va + n then some 0x7F0000000000
  else none

/-- The pieces of a host access with their keys, or the VA the command is refused with. -/
def State.hostSegs (s : State) (ctx va n : Nat) (write : Bool) : Except Nat (List (Nat × Nat)) :=
  match windowByte va n with
  | some a => .error a
  | none =>
    let l := (pieces va n).map fun p => (p.1, (s.hostKeyOf ctx p.1 write).map fun k => (k, p.2))
    match l.find? fun p => p.2.isNone with
    | some p => .error p.1
    | none => .ok (l.filterMap Prod.snd)

/-! Data commands under way: their sectors and words are performed apart (R233, R357, R387; log entry 67). -/

/-- Host writes outside the host window wake no monitored wait (R249): after `t`, the harts are as in `s`. -/
def State.wakesNone (s t : State) : State := { t with harts := s.harts }

/-- Whether `n` bytes fit the payload a header announces (R354). -/
def hdrHolds (h : GyskoHdr) (n : Nat) : Bool := decide (n ≤ h.len.toNat)

/-- The most bytes a payload has (R354). -/
def maxLen : Nat := 16777215

/-- The slice part of a cellar load (R312): a press whose cellar is another context's takes this context's first. -/
def State.loadSlice (s : State) (ctx press i off : Nat) (bytes : List Byte) : State :=
  let c := s.ctx ctx
  let s1 := if (s.press press).cellarCtx = some ctx then s
    else
      let t := if c.cfg.cellarimg = 0 then s.clearArea (cellarKey press 0) 20971520
        else s.copyArea (vfOfCtx ctx) (c.cfg.cellarimg + i * 20971520) (cellarKey press 0) 20971520
      t.setPress press { t.press press with cellarCtx := some ctx }
  s1.storeAt (cellarKey press off) bytes

/-- A part of a CELLARLD (R223, R312): image and slice together; with no image it needs the press. -/
def State.cellarPut (s : State) (vf ctx pidx off : Nat) (bytes : List Byte) : Option State :=
  let c := s.ctx ctx
  let p := c.cfg.presses.getD pidx 0
  let s1 := if c.cfg.cellarimg = 0 then s
    else s.wakesNone (s.storeFor vf (c.cfg.cellarimg + pidx * 20971520 + off) bytes)
  if (s.press p).resident.isNone then some (s1.loadSlice ctx p pidx off bytes)
  else if c.cfg.cellarimg = 0 then none
  else some s1

/-- A range cut at multiples of `n`: address and length of each piece. -/
def cutAt (n va len : Nat) : List (Nat × Nat) :=
  (List.range (len / n + 2)).filterMap fun i =>
    let a := max va ((va / n + i) * n)
    let b := min (va + len) ((va / n + i + 1) * n)
    if b ≤ a then none else some (a, b - a)

/-- Whether a data command reads. -/
def DataCmd.reads (c : DataCmd) : Bool := c.op == 0x0011 || c.op == 0x0014

/-- Whether a data command acts on the host window, word by word in rising order (R358). -/
def DataCmd.window (c : DataCmd) : Bool := c.op == 0x0013 || c.op == 0x0014

/-- What a read has read, by rising address. -/
def DataCmd.read (c : DataCmd) : List Byte :=
  (sortBy (fun a b => decide (a.1 ≤ b.1)) c.got).flatMap Prod.snd

/-- One piece of a data command, whole: the state after it and what it read, or the STATUS and DETAIL the command ends with. A
sector's address is translated and checked as it is performed (R59, R305, R366; log entry 67). -/
def State.piece (s : State) (c : DataCmd) (a : Nat) (bs : List Byte) : Except (Nat × Nat) (State × List Byte) :=
  let store := fun (key : Nat) => if c.window then s.storeAt key bs else s.wakesNone (s.storeAt key bs)
  let load := fun (key va : Nat) =>
    let t := s.touch key bs.length
    match t.poisonedAt key bs.length with
    | some k => Except.error (7, va + (k - key))
    | none => .ok (t, t.bytes key bs.length)
  if c.window then
    let key := hostKey c.hdr.vf a
    if c.reads then load key (0x7F0200000000 + a) else .ok (store key, [])
  else if (s.ctx c.ctx).st = .free then .error (3, 0)
  else if c.op = 0x0012 then
    match (if (s.ctx c.ctx).st = .idle then s.cellarPut c.hdr.vf c.ctx (a / 20971520) (a % 20971520) bs else none) with
    | some t => .ok (t, [])
    | none => .error (3, 0)
  else
    match s.hostKeyOf c.ctx a (!c.reads) with
    | none => .error (7, a)
    | some key => if c.reads then load key a else .ok (store key, [])

/-- One piece of the `i`-th data command under way is performed: any of its sectors, of the host window's words the next one. With the
last one, or the first that fails, the command is answered. -/
def State.dataPiece (s : State) (i piece : Nat) : State :=
  match s.hub.data[i]? with
  | none => s
  | some c =>
    let k := if c.window then 0 else piece
    match c.todo[k]? with
    | none => s
    | some (a, bs) =>
      let drop := fun (t : State) => { t with hub := { t.hub with data := t.hub.data.eraseIdx i } }
      match s.piece c a bs with
      | .error e => (drop s).respond (c.answer e.1 e.2 .empty)
      | .ok (t, got) =>
        let c1 := { c with todo := c.todo.eraseIdx k, got := c.got ++ [(a, got)] }
        if c1.todo = [] then (drop t).respond (c1.answer 0 0 (if c.reads then .bytes c1.read else .empty))
        else { t with hub := { t.hub with data := t.hub.data.set i c1 } }

/-- Whether a command of a header for a context comes after a data command under way: one of the same session and context (R357). -/
def DataCmd.precedes (c : DataCmd) (h : GyskoHdr) (ctx : Nat) : Bool :=
  decide (c.hdr.session = h.session) && c.ctx == ctx && !c.window

/-- The data commands of a session and context are performed to their end. -/
def State.settleData (s : State) (h : GyskoHdr) (ctx : Nat) : Nat → State
  | 0 => s
  | n + 1 =>
    match s.hub.data.findIdx? fun c => c.precedes h ctx with
    | some i => (s.dataPiece i 0).settleData h ctx n
    | none => s

/-- Pieces of the data commands under way. -/
def State.piecesLeft (s : State) : Nat := (s.hub.data.map fun c => c.todo.length).sum

/-- The checks of a command that names a context (R297); it takes effect after the data commands of its session for that context
(R357). -/
def State.withCtx (s : State) (h : GyskoHdr) (ctx : Nat) (f : State → Result) : Result :=
  if 64 ≤ ctx then .refused 1 0 else if vfOfCtx ctx ≠ h.vf then .refused 2 0
  else f (if s.hub.data = [] then s else s.settleData h ctx s.piecesLeft)

/-! Launches (R268, R269). -/

/-- A kernel header record, if it keeps R199. -/
def headerOf (d0 d1 d2 d3 : Nat) : Option KHeader :=
  let h : KHeader :=
    { xregs := d0 / 2 ^ 40 % 256, vregs := d0 / 2 ^ 32 % 256, preds := d0 / 2 ^ 27 % 32 + 1, queues := d0 / 2 ^ 24 % 8,
      rows := d0 / 2 ^ 15 % 512, barc := d0 / 2 ^ 10 % 32, barp := d0 / 2 ^ 6 % 16, bard := d0 / 8 % 8, spad := d1 }
  if d0 / 2 ^ 48 = 0xCD5A ∧ 5 ≤ h.xregs ∧ h.xregs ≤ 32 ∧ h.vregs ≤ 32 ∧ h.preds ≤ 16 ∧ h.queues ≤ 4 ∧ 1 ≤ h.rows ∧
      h.rows ≤ 256 ∧ h.barc ≤ 16 ∧ h.barp ≤ 8 ∧ h.bard ≤ 4 ∧ d0 % 8 = 0 ∧ d1 ≤ 1048576 ∧ d2 = 0 ∧ d3 = 0 then some h
  else none

/-- Fields outside the table of R268. -/
def launchFieldsOk (r : LaunchReq) : Bool :=
  isCanonical r.krec.toNat && decide (r.krec.toNat % 32 = 0) && r.hartmask != 0 && isCanonical r.spill.toNat &&
    decide (r.spill.toNat % 4096 = 0) && decide (4 ≤ r.spilllog) && decide (r.spilllog ≤ 16) && decide (r.cwin ≤ 1000) &&
    decide (r.bound ≤ 255) && decide (1 ≤ r.recs.length) && decide (r.recs.length ≤ 4096) &&
    r.recs.all fun e => (recFault e.1 e.2).isNone

/-- Push the initial records in turn over the dies (R269); none if one cannot be placed. -/
def State.pushInitial (s : State) (ctx : Nat) (dies : List Nat) : Nat → List (Word64 × Word64) → Option State
  | _, [] => some s
  | i, r :: t =>
    let p := s.pushRec ctx (dies.getD (i % dies.length) 0) (recOf r.1 r.2)
    if p.2 = 2 then none else p.1.pushInitial ctx dies (i + 1) t

/-- A new launch binds its kernel's barriers anew (R247). -/
def State.unbind (s : State) (ctx : Nat) : State := s.unbindBars ctx (unbound ctx true)

/-- A launch that passed its checks, up to the pushes (R269 steps 1 and 2). -/
def State.acceptLaunch (s : State) (h : GyskoHdr) (r : LaunchReq) (k : KHeader) : Option State :=
  let c := s.ctx r.ctx
  let c1 := { c with
    krec := r.krec, globals := r.globals, hartmask := r.hartmask, spill := r.spill, spilllog := r.spilllog, cwin := r.cwin,
    header := k, tag := h.tag, mgmt := h.mgmt, wbound := BitVec.ofNat 8 r.bound, bins := [], flight := [], xflight := [],
    xsent := 0, xreceived := 0, asked := 0, sent := [], received := [], waveClean := false, waveTotals := (0, 0), pushed := false,
    alone := false, peer := none, xwave := none, terminated := false, leaving := false, slice := 0, saved := none, savedOrder := s.seqNo, st := .saved }
  ({ s with seqNo := s.seqNo + 1 }.setCtx r.ctx c1 |>.unbind r.ctx).pushInitial r.ctx c.dies 0 r.recs

/-- LAUNCH (R268, R269, R299): Resident at once where no press of the context is taken, else Saved. -/
def State.launch (s : State) (h : GyskoHdr) (r : LaunchReq) : Result :=
  s.withCtx h r.ctx fun t =>
    let c := t.ctx r.ctx
    if !launchFieldsOk r then .refused 1 0
    else if c.st ≠ .idle ∨ c.terminated = false then .refused 3 0
    else if c.missing || c.cfg.presses.any fun p => !(t.press p).enabled || (t.press p).vf != some h.vf then .refused 5 0
    else if inWindow r.krec.toNat then .refused 7 r.krec.toNat
    else
      match t.translate r.ctx (r.krec.toNat % 2 ^ 48) .load false with
      | .error _ => .refused 7 r.krec.toNat
      | .ok key =>
        let t1 := (t.meetWalk r.ctx r.krec.toNat).touch key 32
        if (t1.poisonedAt key 32).isSome then .refused 7 r.krec.toNat
        else
          match headerOf (t1.readLe key 8) (t1.readLe (key + 8) 8) (t1.readLe (key + 16) 8) (t1.readLe (key + 24) 8) with
          | none => .refused 1 0
          | some k =>
            match t1.acceptLaunch h r k with
            | none => .refused 1 0
            | some t2 => .later (if t2.pressesFree r.ctx then t2.enterPresses r.ctx else t2)

def execLaunch (h : GyskoHdr) (r : LaunchReq) (s : State) : Host.Outcome State Fault Refusal :=
  s.gysko h 0x0001 .kernel fun t => t.launch h r

/-- Whether a launch completes: termination is confirmed and every started hart has left (R269). -/
def State.launchDone (s : State) (ctx : Nat) : Bool :=
  let c := s.ctx ctx
  c.st == .resident && c.terminated && c.hartList.all fun h => (s.hart h).life != .running

/-- LAUNCH_COMPLETE (R269). -/
def execLaunchComplete (ctx : Nat) (s : State) : Host.Outcome State Fault Refusal :=
  .next (if s.launchDone ctx then s.finishLaunch ctx 0 0 else s)

/-! Contexts (R298 to R300, R305). -/

/-- Whether [a, a + n) lies in a VF's memory. -/
def State.extentOk (s : State) (vf a align n : Nat) : Bool :=
  decide (a % align = 0) && decide (a + n ≤ 2 ^ 52) &&
    (List.range ((a + n - 1) / 2 ^ 30 - a / 2 ^ 30 + 1)).all fun i => (s.vf vf).ranges.contains (a / 2 ^ 30 + i)

/-- Whether a configuration keeps R298. -/
def State.cfgOk (s : State) (vf : Nat) (c : CtxCfg) : Bool :=
  let n := c.presses.length
  n != 0 && decide c.presses.Nodup && (c.presses.all fun p => decide (p < 128) && (s.press p).enabled &&
    (s.press p).vf == some vf) && s.extentOk vf c.tbase 4096 4096 && s.extentOk vf c.savebase 0x800000 (n * 0x800000) &&
    (c.cellarimg == 0 || s.extentOk vf c.cellarimg 0x100000 (n * 20971520)) && decide (c.tslice ≤ 1000) &&
    decide (c.mpol ≤ 1) && decide (c.t1 ≤ 1)

/-- Drop the cached translations of a context in [lo, hi). -/
def State.dropTlb (s : State) (ctx lo hi : Nat) : State :=
  { s with tlb := s.tlb.filter fun t => t.ctx != ctx || decide (t.va + t.size ≤ lo) || decide (hi ≤ t.va) }

/-- No core keeps a remainder of a context's charge. -/
def State.dropCharge (s : State) (ctx : Nat) : State :=
  { s with wear := fmapValues Wear.reset (fun _ w => { w with charge := ferase w.charge ctx }) s.wear }

/-- CTXCFG (R298). -/
def execCtxcfg (h : GyskoHdr) (ctx : Nat) (cfg : CtxCfg) (s : State) : Host.Outcome State Fault Refusal :=
  s.gysko h 0x0002 .kernel fun t => t.withCtx h ctx fun u =>
    let c := u.ctx ctx
    if !u.cfgOk h.vf cfg then .refused 1 0
    else if c.st ≠ .free ∧ c.st ≠ .idle then .refused 3 0
    else .done (((u.setCtx ctx { c with st := .idle, cfg := cfg, missing := false, wear := 0 }).dropTlb ctx 0 (2 ^ 48)).dropCharge
      ctx) .empty

/-- CTXREL (R299). -/
def execCtxrel (h : GyskoHdr) (ctx : Nat) (s : State) : Host.Outcome State Fault Refusal :=
  s.gysko h 0x0003 .kernel fun t => t.withCtx h ctx fun u =>
    let c := u.ctx ctx
    if c.st ≠ .idle then .refused 3 0 else .done ((u.setCtx ctx c.freed).dropTlb ctx 0 (2 ^ 48)) .empty

/-- SWITCH (R300; log entry 35): a resident context leaves for one that waits for its presses; for a waiting context those
that keep it off its presses leave. -/
def State.switchCmd (s : State) (ctx : Nat) : State :=
  let ask := fun (t : State) (c : Nat) => t.setCtx c { t.ctx c with leaving := true }
  if (s.ctx ctx).st = .resident then (if s.hasRival ctx then ask s ctx else s)
  else ((List.range 64).filter fun c => (s.ctx c).st == .resident && s.sharePress ctx c).foldl ask s

def execSwitch (h : GyskoHdr) (ctx : Nat) (s : State) : Host.Outcome State Fault Refusal :=
  s.gysko h 0x0004 .kernel fun t => t.withCtx h ctx fun u =>
    let st := (u.ctx ctx).st
    if st ≠ .resident ∧ st ≠ .saved then .refused 3 0 else .done (u.switchCmd ctx) .empty

/-- INVAL (R305): every TLB has dropped the range's entries; accesses made with them are performed already. -/
def execInval (h : GyskoHdr) (ctx : Nat) (lo hi : Word64) (s : State) : Host.Outcome State Fault Refusal :=
  s.gysko h 0x0005 .kernel fun t => t.withCtx h ctx fun u =>
    if hi.toNat < lo.toNat ∨ !isCanonical lo.toNat ∨ !isCanonical hi.toNat then .refused 1 0
    else if (u.ctx ctx).st = .free then .refused 3 0
    else
      let b := if hi.toNat % 2 ^ 48 < lo.toNat % 2 ^ 48 then 2 ^ 48 else hi.toNat % 2 ^ 48 + 1
      .done (u.dropTlb ctx (lo.toNat % 2 ^ 48) b) .empty

/-- QUERY (R355). -/
def execQuery (h : GyskoHdr) (ctx : Nat) (s : State) : Host.Outcome State Fault Refusal :=
  s.gysko h 0x0006 .anyone fun t => t.withCtx h ctx fun u =>
    .done u (.ctxInfo (u.ctx ctx).st (u.ctx ctx).wear)

/-! Data commands (R357, R358). -/

/-- WRITE (R357). -/
def execWrite (h : GyskoHdr) (ctx : Nat) (va : Word64) (bytes : List Byte) (s : State) :
    Host.Outcome State Fault Refusal :=
  s.gysko h 0x0010 .kernel fun t => t.withCtx h ctx fun u =>
    if !hdrHolds h bytes.length then .refused 1 0
    else if (u.ctx ctx).st = .free then .refused 3 0
    else
      match u.hostSegs ctx va.toNat bytes.length true with
      | .error a => .refused 7 a
      | .ok segs => .done (u.wakesNone (u.storeSegs segs bytes)) .empty

/-- READ (R357): poison is reported with its VA (R356). -/
def execRead (h : GyskoHdr) (ctx : Nat) (va : Word64) (len : Nat) (s : State) : Host.Outcome State Fault Refusal :=
  s.gysko h 0x0011 .kernel fun t => t.withCtx h ctx fun u =>
    if maxLen < len then .refused 1 0
    else if (u.ctx ctx).st = .free then .refused 3 0
    else
      match u.hostSegs ctx va.toNat len false with
      | .error a => .refused 7 a
      | .ok segs =>
        let u1 := u.touchSegs segs
        match u1.poisonedSegs segs 0 with
        | some off => .refused 7 (va.toNat + off)
        | none => .done u1 (.bytes (u1.readSegs segs))

/-- CELLARLD (R223, R312, R357; log entry 36): slice and image together, while no kernel of the context runs. -/
def execCellarld (h : GyskoHdr) (ctx pidx off : Nat) (bytes : List Byte) (s : State) :
    Host.Outcome State Fault Refusal :=
  s.gysko h 0x0012 .kernel fun t => t.withCtx h ctx fun u =>
    let c := u.ctx ctx
    if !hdrHolds h bytes.length then .refused 1 0
    else if c.st ≠ .idle then .refused 3 0
    else if c.cfg.presses.length ≤ pidx ∨ 20971520 < off + bytes.length then .refused 1 0
    else
      match u.cellarPut h.vf ctx pidx off bytes with
      | some u1 => .done u1 .empty
      | none => .refused 3 0

/-- HWRITE (R358). -/
def execHwrite (h : GyskoHdr) (off : Nat) (bytes : List Byte) (s : State) : Host.Outcome State Fault Refusal :=
  s.gysko h 0x0013 .window fun t =>
    if !hdrHolds h bytes.length ∨ off % 8 ≠ 0 ∨ bytes.length % 8 ≠ 0 ∨ 65536 < off + bytes.length then .refused 1 0
    else .done (t.storeAt (hostKey h.vf off) bytes) .empty

/-- HREAD (R358). -/
def execHread (h : GyskoHdr) (off len : Nat) (s : State) : Host.Outcome State Fault Refusal :=
  s.gysko h 0x0014 .window fun t =>
    if off % 8 ≠ 0 ∨ len % 8 ≠ 0 ∨ 65536 < off + len then .refused 1 0
    else
      let t1 := t.touch (hostKey h.vf off) len
      match t1.poisonedAt (hostKey h.vf off) len with
      | some k => .refused 7 (0x7F0200000000 + (k - hostKey h.vf 0))
      | none => .done t1 (.bytes (t1.bytes (hostKey h.vf off) len))

/-- A data command is accepted whose pieces are performed apart: WRITE and CELLARLD with their bytes, READ, HWRITE and HREAD (`bytes`
say how many). What its row would refuse is refused, and one with no byte is answered at once (R357, R358, R387; log entry 67). -/
def State.dataBegin (s : State) (h : GyskoHdr) (op : BitVec 16) (ctx va : Nat) (bytes : List Byte) :
    Host.Outcome State Fault Refusal :=
  let n := bytes.length
  let add := fun (u : State) (l : List (Nat × Nat)) =>
    if l = [] then Result.done u .empty
    else
      let c : DataCmd :=
        { hdr := h, op := op, ctx := ctx, todo := l.map fun e => (e.1, (bytes.drop (e.1 - va)).take e.2), got := [] }
      Result.later { u with hub := { u.hub with data := u.hub.data ++ [c] } }
  if op = 0x0013 ∨ op = 0x0014 then
    s.gysko h op .window fun t =>
      if (op = 0x0013 ∧ !hdrHolds h n) ∨ va % 8 ≠ 0 ∨ n % 8 ≠ 0 ∨ 65536 < va + n then .refused 1 0 else add t (cutAt 8 va n)
  else
    s.gysko h (if op = 0x0011 ∨ op = 0x0012 then op else 0x0010) .kernel fun t => t.withCtx h ctx fun u =>
      let c := u.ctx ctx
      if (op ≠ 0x0011 ∧ !hdrHolds h n) ∨ maxLen < n then .refused 1 0
      else if op = 0x0012 then
        if c.st ≠ .idle then .refused 3 0
        else if c.cfg.presses.length ≤ va / 20971520 ∨ 20971520 < va % 20971520 + n then .refused 1 0
        else if c.cfg.cellarimg = 0 ∧ (u.press (c.cfg.presses.getD (va / 20971520) 0)).resident.isSome then .refused 3 0
        else add u (cutAt 64 va n)
      else if c.st = .free then .refused 3 0
      else
        match u.hostSegs ctx va n (decide (op ≠ 0x0011)) with
        | .error a => .refused 7 a
        | .ok _ => add u (cutAt 64 va n)

/-! SUMMARY (R337 to R339). -/

def ctxCode : CtxState → Nat
  | .free => 0
  | .idle => 1
  | .resident => 2
  | .saved => 3

def powerCode : DiePower → Nat
  | .normal => 0
  | .low => 1
  | .critical => 2

/-- A log entry as a session sees it: one that names another VF's context has KIND 0 and nothing else (R338). -/
def LogEntry.seenBy (e : LogEntry) (vf : Option Nat) : LogEntry :=
  match vf with
  | none => e
  | some v =>
    if e.ctx = 0xFF ∨ vfOfCtx e.ctx = v then e
    else { seq := 0, kind := 0, code := 0, result := 0, die := 0, press := 0, ctx := 0, hart := 0, core := 0, pa := false,
           addr := 0, time := 0, detail := 0 }

/-- The sections for a VF's session, or for the management's, all taken now. -/
def State.summaryBody (s : State) (vf : Option Nat) : SummaryBody :=
  let mine := fun (v : Nat) => vf.isNone || vf == some v
  { magic := 0xCD5A0517, evgen0 := s.hub.seq, evgen1 := s.hub.seq, torn := false,
    devState := if (List.range 4).any fun d => (s.die d).stopped then 3
      else if (List.range 128).any fun p => (s.press p).enabled && s.pressDrained p then 2 else 1,
    time := s.hub.time, measurements := s.measurements,
    vfs := (List.range 16).map fun v =>
      if mine v then (s.pressesOf v, (s.vf v).ranges, (s.vf v).keyed, (s.vf v).keyGen, (s.vf v).resetting) else ([], [], false, 0, false),
    ctxs := (List.range 64).map fun c =>
      let x := s.ctx c
      if mine (vfOfCtx c) then
        (ctxCode x.st, x.st == .resident || x.st == .saved, x.failSeq.toNat, x.failCause.toNat, x.wear)
      else (0, false, 0, 0, 0),
    logs := (List.range 5).map fun d =>
      let x := s.die d
      (x.logged % 1024, (x.log.head?.map LogEntry.seq).getD 0, (x.log.take 16).map fun e => e.seenBy vf),
    counters := (List.range 5).map fun d => (List.range 16).map fun k => fget 0 (s.die d).counters k,
    wear := (List.range 544).map fun pc => (s.wearOf pc).w,
    power := (List.range 4).map fun d => (powerCode (s.die d).power, (s.die d).mw, (s.die d).tj),
    links := ((List.range 8).map fun p =>
        let l := s.link p
        (if l.up then 1 else 0, if l.active then 1 else 0, l.gen)) ++
      [(if s.hub.cxlDown0 then 0 else 1, 0, 0), (if s.hub.cxlDown1 then 0 else 1, 0, 0)] ++
      (List.range 4).map fun i => (if s.hub.ucie.getD i true then 1 else 0, 0, 0) }

/-- Whose SUMMARY a header asks for. -/
def viewerOf (h : GyskoHdr) : Option Nat := if h.mgmt then none else some h.vf

def execSummary (h : GyskoHdr) (s : State) : Host.Outcome State Fault Refusal :=
  s.gysko h 0x0020 .summary fun t => .done t (.summary (t.summaryBody (viewerOf h)))

/-- A SUMMARY is begun: the first reading of EVGEN (R339). -/
def State.summaryBegin (s : State) (h : GyskoHdr) : Host.Outcome State Fault Refusal :=
  s.gysko h 0x0020 .summary fun t =>
    .later { t with hub := { t.hub with summaries := t.hub.summaries ++ [(h, t.summaryBody (viewerOf h))] } }

/-- Section `k` of a body, in the order of R337 from the VFs on, with 0 the header's device state and TIME and 1 the measurements,
taken from another. -/
def SummaryBody.section_ (b now : SummaryBody) (k : Nat) : SummaryBody :=
  match k with
  | 0 => { b with devState := now.devState, time := now.time }
  | 1 => { b with measurements := now.measurements }
  | 2 => { b with vfs := now.vfs }
  | 3 => { b with ctxs := now.ctxs }
  | 4 => { b with logs := now.logs }
  | 5 => { b with counters := now.counters }
  | 6 => { b with wear := now.wear }
  | 7 => { b with power := now.power }
  | _ => { b with links := now.links }

/-- The `i`-th SUMMARY under way takes a section as it is now. -/
def State.summarySection (s : State) (i k : Nat) : State :=
  match s.hub.summaries[i]? with
  | none => s
  | some (h, b) =>
    { s with hub := { s.hub with summaries := s.hub.summaries.set i (h, b.section_ (s.summaryBody (viewerOf h)) k) } }

/-- The `i`-th SUMMARY under way ends: the second reading of EVGEN, and TORN where it differs (R339). -/
def State.summaryEnd (s : State) (i : Nat) : State :=
  match s.hub.summaries[i]? with
  | none => s
  | some (h, b) =>
    let t : State := { s with hub := { s.hub with summaries := s.hub.summaries.eraseIdx i } }
    t.answer h 0x0020 0 0 (.summary { b with evgen1 := s.hub.seq, torn := decide (b.evgen0 ≠ s.hub.seq) })

/-- A section in `n` bytes. -/
def inBytes (n : Nat) (l : List Byte) : List Byte := (l ++ List.replicate (n - l.length) 0).take n

/-- The 10 480 bytes of a SUMMARY response: each section at the offset and of the size R337 gives it; what stands where in a
section is the model's (log entry 66). -/
def SummaryBody.encode (b : SummaryBody) : List Byte :=
  inBytes 64 (leBytes 4 b.magic.toNat ++ leBytes 4 b.evgen0 ++ leBytes 4 b.evgen1 ++ leBytes 2 (if b.torn then 1 else 0) ++
      leBytes 2 b.devState ++ leBytes 8 b.time) ++
    inBytes 512 (measurementBlocks b.measurements) ++
    inBytes 256 (b.vfs.flatMap fun v => leBytes 4 v.1.length ++ leBytes 4 v.2.1.length ++
      leBytes 4 ((if v.2.2.1 then 1 else 0) + 2 * v.2.2.2.1) ++ leBytes 4 (if v.2.2.2.2 then 1 else 0)) ++
    inBytes 2048 (b.ctxs.flatMap fun c => leBytes 4 c.1 ++ leBytes 4 (if c.2.1 then 1 else 0) ++ leBytes 8 c.2.2.1 ++
      leBytes 8 c.2.2.2.1 ++ leBytes 8 c.2.2.2.2.toNat) ++
    inBytes 2640 (b.logs.flatMap fun l => leBytes 8 l.1 ++ leBytes 8 l.2.1 ++
      inBytes 512 (l.2.2.flatMap fun e => e.words.flatMap fun w => leBytes 8 w.toNat)) ++
    inBytes 320 (b.counters.flatMap fun l => inBytes 64 (l.flatMap fun n => leBytes 4 n)) ++
    inBytes 4352 (b.wear.flatMap fun w => leBytes 8 w) ++
    inBytes 64 (b.power.flatMap fun p => leBytes 4 p.1 ++ leBytes 4 p.2.1 ++ leBytes 8 p.2.2) ++
    inBytes 224 (b.links.flatMap fun l => leBytes 4 l.1 ++ leBytes 4 l.2.1 ++ leBytes 8 l.2.2)

/-- The payload of a response; an XMSS signature has 2820 bytes (R363). -/
def RespBody.payload : RespBody → List Byte
  | .empty => []
  | .bytes b => b
  | .ctxInfo st w => leBytes 8 (ctxCode st) ++ leBytes 8 w.toNat
  | .ints l => l.flatMap fun n => leBytes 8 n
  | .signed b sig => b ++ leBytes 2820 sig
  | .summary b => b.encode

/-- The 16 bytes of a message's header (R354). -/
def headerBytes (op tag : BitVec 16) (vf : Nat) (mgmt : Bool) (len status detail : Nat) : List Byte :=
  leBytes 8 (op ++ tag ++ BitVec.ofNat 4 vf ++ BitVec.ofBool mgmt ++ 0#3 ++ BitVec.ofNat 24 len).toNat ++
    leBytes 8 (BitVec.ofNat 8 status ++ BitVec.ofNat 56 detail).toNat

/-- A response as it goes out: header and payload, little-endian (R354). -/
def Resp.wire (r : Resp) : List Byte :=
  headerBytes r.op r.tag r.vf r.mgmt r.body.payload.length r.status r.detail ++ r.body.payload

/-- A link goes up or down: Ethernet ports 0 to 7, UCIe links 10 to 13 (R337). -/
def State.setLinkUp (s : State) (n : Nat) (up : Bool) : State :=
  if n < 8 then s.setLink n { s.link n with up := up }
  else if 10 ≤ n ∧ n < 14 then { s with hub := { s.hub with ucie := s.hub.ucie.set (n - 10) up } }
  else s

/-- What Gysko has accepted goes on of itself, so that its response comes in finite time (R357): the next piece of the oldest data
command, else the end of the oldest SUMMARY. -/
def State.hostDue (s : State) : Option State :=
  if s.hub.data ≠ [] then some (s.dataPiece 0 0) else if s.hub.summaries ≠ [] then some (s.summaryEnd 0) else none

/-! Management (R297, R346, R347, R349, R363). -/

/-- FLR (R349). -/
def execFlr (h : GyskoHdr) (s : State) : Host.Outcome State Fault Refusal :=
  s.gysko h 0x0021 .manager fun t => .done (t.functionReset h.vf) .empty

/-- Whether a 1 GiB range is LPDDR 6 or CXL memory the device has (R370). -/
def State.rangeExists (s : State) (r : Nat) : Bool := s.memExists (r * 2 ^ 30)

/-- Whether some context of a VF is resident on a press. -/
def State.vfOn (s : State) (vf p : Nat) : Bool :=
  match (s.press p).resident with
  | some c => vfOfCtx c == vf
  | none => false

/-- ASSIGN (R297, R360): the VF then owns these presses and ranges. What a range holds was written under its owner's key and reads as
unrelated bytes under another (R366); a withdrawn page in a new range is in use again, its in-band codes gone (R326). -/
def State.assign (s : State) (vf : Nat) (presses ranges : List Nat) : State :=
  let s1 := (List.range 128).foldl (fun t p =>
    let o := (t.press p).vf
    let n := if presses.contains p then some vf else if o = some vf then none else o
    if n = o then t else t.setPress p { t.press p with vf := n }) s
  let gained := ranges.filter fun r => !(s.vf vf).ranges.contains r
  let moved := ((List.range 16).flatMap fun v => ((s.vf v).ranges.filter fun r =>
    (v == vf) != ranges.contains r).map fun r => (v, r))
  let s1b := moved.foldl (fun t e => t.tagRange e.1 e.2) s1
  let s2 := (List.range 16).foldl (fun t v =>
    if v = vf then t.setVf v { t.vf v with ranges := ranges }
    else t.setVf v { t.vf v with ranges := (t.vf v).ranges.filter fun r => !ranges.contains r }) s1b
  let s3 := s2.rekeyed
  let back := s3.ctrls.flatMap fun c => c.2.withdrawn.filter fun p => gained.contains (p / 2 ^ 14)
  let t : State := { s3 with
    inband := if back = [] then s3.inband else ffilter (fun u => !back.contains (u / 2048)) s3.inband,
    ctrls := fmapValues Ctrl.reset (fun _ c =>
      { c with withdrawn := c.withdrawn.filter fun p => !gained.contains (p / 2 ^ 14) }) s3.ctrls,
    hub := { s3.hub with assigns := s3.hub.assigns + 1 } }
  t.measure [5]

def execAssign (h : GyskoHdr) (presses ranges : List Nat) (s : State) : Host.Outcome State Fault Refusal :=
  s.gysko h 0x0022 .assign fun t =>
    let lost := (List.range 128).filter fun p => match (t.press p).vf with
      | some o => (o == h.vf) != presses.contains p
      | none => false
    let taken := fun (r : Nat) => (List.range 16).filter fun v => (v == h.vf) != ranges.contains r && (t.vf v).ranges.contains r
    if !(presses.all fun p => decide (p < 128) && (t.press p).enabled) || !decide presses.Nodup ||
        !(ranges.all t.rangeExists) || !decide ranges.Nodup then .refused 1 0
    else if (lost.any fun p => t.vfOn (((t.press p).vf).getD 0) p) ||
        ((ranges ++ (t.vf h.vf).ranges).any fun r => (taken r).any fun v => (List.range 128).any fun p => t.vfOn v p) then
      .refused 3 0
    else .done (t.assign h.vf presses ranges) .empty

/-- POWER (R346, R347). -/
def execPower (h : GyskoHdr) (plim : Option Nat) (run : Option Bool) (s : State) : Host.Outcome State Fault Refusal :=
  s.gysko h 0x0023 .manager fun t =>
    let bad := match plim with | some w => decide (w < 600) || decide (1800 < w) | none => false
    let busy := (List.range 64).any fun c => (t.ctx c).st == .resident || (t.ctx c).st == .saved
    if bad then .refused 1 0
    else if run = some false ∧ busy then .refused 3 0
    else
      let p := match run with | some true => DevPower.run | some false => .standby | none => t.hub.power
      .done { t with hub := { t.hub with plim := plim.getD t.hub.plim, power := p } } .empty

/-- FWUPDATE (R363): the slot not in use is written; whether it verifies is seen at the next boot. -/
def execFwupdate (h : GyskoHdr) (head : SlotHead) (size : Word64) (image digest sig : List Byte) (s : State) :
    Host.Outcome State Fault Refusal :=
  s.gysko h 0x0024 .manager fun t =>
    if !hdrHolds h (2908 + image.length) ∨ digest.length ≠ 64 ∨ sig.length ≠ 2820 then .refused 1 0
    else
      let f : Slot :=
        { magic := head.magic, version := head.version, size := size, digest := digest, sig := sig, image := image }
      .done { t with hub := if t.hub.fwSlot then { t.hub with fw0 := f } else { t.hub with fw1 := f } } .empty

/-- SPDM outside a session (R355, R359). -/
def execSpdm (h : GyskoHdr) (msg : List Byte) (s : State) : Host.Outcome State Fault Refusal :=
  s.gysko h 0x0030 .outside fun t => .done t (.bytes (Config.spdmReply msg))

/-- A message with any other OP is refused (R355). -/
def execUnknownOp (h : GyskoHdr) (op : BitVec 16) (s : State) : Host.Outcome State Fault Refusal :=
  s.gysko h op .anyone fun _ => .refused 1 0

end Sys2Proof.Machine
end

