-- ==== Sys2Proof/Machine/Issue.lean ====
section
/-!
DEFINITION. How an instruction comes to issue: fetching its words with the checks in the order of R58, the illegal-instruction
and fetch traps (R57, R83), the kernel header's limits (R200), FIRST and LAST (R55, R88), and which harts are ready (R211).
-/
namespace Sys2Proof.Machine

/-! Fetching (R50, R58, R59). -/

/-- One instruction word as the acting hart fetches it, or the cause of the fault. An address that is not a multiple of 4
is a misaligned access (log entry 44). -/
def State.fetchWord (s : State) (va : Word64) : State × Except Nat Word32 :=
  if va.toNat % 4 ≠ 0 then (s, .error 3)
  else
    let s0 := s.meetWalk s.myCtxId va.toNat
    match s0.resolveMe va.toNat .fetch with
    | .error f => (s0, .error f.cause)
    | .ok key =>
      let s1 := s0.touch key 4
      if s1.flitHits key then (s1.flitOver, .error 10)
      else if (s1.poisonedAt key 4).isSome then (s1, .error 10)
      else (s1, .ok (BitVec.ofNat 32 (s1.readLe key 4)))

/-- `n` more words from `va`, or the address of the first that cannot be fetched and its cause. -/
def State.fetchMore (s : State) (va : Word64) : Nat → State × Except (Word64 × Nat) (List Word32)
  | 0 => (s, .ok [])
  | n + 1 =>
    match s.fetchWord va with
    | (s1, .error c) => (s1, .error (va, c))
    | (s1, .ok w) =>
      match s1.fetchMore (va + 4) n with
      | (s2, .error e) => (s2, .error e)
      | (s2, .ok ws) => (s2, .ok (w :: ws))

/-- Whether the major of a word 0 is a vector, function or matrix major that R62 to R64 assign. -/
def vectorMajor (w : Word32) : Bool :=
  let m := (w.extractLsb 7 2).toNat
  (decide (0x10 ≤ m) && decide (m ≤ 0x1C)) || (decide (0x20 ≤ m) && decide (m ≤ 0x23)) ||
    (decide (0x28 ≤ m) && decide (m ≤ 0x2A))

/-- A fault of the acting hart before its instruction executes: one of a vector, function or matrix instruction sets VRI
to 0 (R94, R127). -/
def State.decodeTrap (s : State) (w : Word32) (cause : Nat) (eval : Word64) : State :=
  if vectorMajor w then s.trapV cause eval 0 else s.trap cause eval

/-- ILLEGAL_INSTRUCTION (R57): the trap at the instruction whose word 0 is `w`. -/
def execIllegalInstruction (w : Word32) (s : State) : Host.Outcome State Fault Refusal :=
  .next (s.decodeTrap w 1 (w.setWidth 64))

/-- FETCH_FAULT (R58, R83): EPC is the address of word 0, EVAL that of the word that failed. -/
def execFetchFault (va : Word64) (cause : Nat) (s : State) : Host.Outcome State Fault Refusal :=
  .next (if va = s.me.pc then s.trap cause va else s.decodeTrap s.me.ir cause va)

/-! The kernel header's limits (R200). -/

/-- What an instruction names, as kind and index: 1 x, 2 v, 3 p registers, 4 + 16 × level a barrier id, 5 a queue; v31 of
`msmacc`, the last register of `vldg` and `vstg` and p(d+1) of `msign` are implied, and `feval` names no coordinate register
before it executes (R159). -/
def Instr.named (i : Instr) : List (Nat × Nat) :=
  match i with
  | .add a b c | .sub a b c | .mul a b c | .mulh a b c | .mulhz a b c | .div a b c | .divz a b c | .rem a b c
  | .remz a b c | .and a b c | .or a b c | .xor a b c | .sll a b c | .srl a b c | .sra a b c | .slt a b c
  | .sltz a b c | .min a b c | .max a b c | .minz a b c | .maxz a b c | .lea a b c _ | .sfadd a b c _
  | .sfsub a b c _ | .sfmul a b c _ | .sfdiv a b c _ | .sfmin a b c _ | .sfmax a b c _ | .sfcmpEq a b c _
  | .sfcmpLt a b c _ | .sfcmpLe a b c _ | .sfcmpUn a b c _ | .sfaddExt a b c _ _ | .sfsubExt a b c _ _
  | .sfmulExt a b c _ _ | .sfdivExt a b c _ _ | .sfminExt a b c _ _ | .sfmaxExt a b c _ _ | .sfcmpEqExt a b c _ _
  | .sfcmpLtExt a b c _ _ | .sfcmpLeExt a b c _ _ | .sfcmpUnExt a b c _ _ | .ldIndexed a b c _ _
  | .stIndexed a b c _ _ | .amoAdd a b c _ _ | .amoMin a b c _ _ _ | .amoMax a b c _ _ _ | .amoAnd a b c _ _
  | .amoOr a b c _ _ | .amoXor a b c _ _ | .amoSwap a b c _ _ | .mattach a b c | .swWait a b c | .futPut a b c
  | .lease a b c | .wpush a b c | .wprio a b c => [(1, a.toNat), (1, b.toNat), (1, c.toNat)]
  | .clz a b | .ctz a b | .popc a b | .addi a b _ | .addiLit a b _ | .andi a b _ | .andiLit a b _ | .ori a b _
  | .oriLit a b _ | .xori a b _ | .xoriLit a b _ | .slli a b _ | .srli a b _ | .srai a b _ | .sfsqrt a b _
  | .sfcvt a b _ _ | .sfsqrtExt a b _ _ | .sfcvtExt a b _ _ _ | .jalr a b _ | .ld a b _ _ | .ldLit a b _ _
  | .st a b _ _ | .stLit a b _ _ | .ldAcq a b _ _ | .stRel a b _ _ | .cpCopy a b | .cpGather a b | .cpDec a b
  | .eqPush a b | .eqPop a b _ | .futGet a b | .farm a b | .wpop a b | .wterm a b => [(1, a.toNat), (1, b.toNat)]
  | .li a _ | .liLit a _ | .pcrel a _ | .pcrelLit a _ | .jal a _ | .jalLit a _ | .csrr a _ => [(1, a.toNat)]
  | .sffma a b c d _ _ | .amoCas a b c d _ _ | .waitm a b c d _ _ =>
    [(1, a.toNat), (1, b.toNat), (1, c.toNat), (1, d.toNat)]
  | .beq b c _ | .bne b c _ | .blt b c _ | .bge b c _ | .blo b c _ | .bhs b c _ | .beqLit b c _ | .bneLit b c _
  | .bltLit b c _ | .bgeLit b c _ | .bloLit b c _ | .bhsLit b c _ | .flush b c | .redAdd b c _ _
  | .redMin b c _ _ _ | .redMax b c _ _ _ | .redAnd b c _ _ | .redOr b c _ _ | .redXor b c _ _ | .mldb _ _ _ b c
  | .mdrain _ b c _ _ _ _ _ _ _ _ | .swInit b c => [(1, b.toNat), (1, c.toNat)]
  | .loop _ b _ | .csrw b _ | .csrs b _ | .csrc b _ | .msave _ b | .mrest _ b | .mmacc _ _ b _ _ _ _ _ _
  | .mdrainRaw _ b _ _ _ | .mdrainp _ b _ _ _ | .yield b => [(1, b.toNat)]
  | .smbStrides _ r0 r1 r2 r3 _ _ _ _ => [(1, r0.toNat), (1, r1.toNat), (1, r2.toNat), (1, r3.toNat)]
  | .vaddF32 a b c p | .vsubF32 a b c p | .vmulF32 a b c p | .vfmaF32 a b c p | .vdivF32 a b c p
  | .vminF32 a b c p | .vmaxF32 a b c p | .vaddF64 a b c p | .vsubF64 a b c p | .vmulF64 a b c p
  | .vfmaF64 a b c p | .vdivF64 a b c p | .vminF64 a b c p | .vmaxF64 a b c p | .vaddS32 a b c p
  | .vsubS32 a b c p | .vmulS32 a b c p | .vfmaS32 a b c p | .vminS32 a b c p | .vmaxS32 a b c p
  | .vandS32 a b c p | .vorS32 a b c p | .vxorS32 a b c p | .vshlS32 a b c p | .vshrS32 a b c p | .vsraS32 a b c p
  | .vaddExt a b c _ _ p | .vsubExt a b c _ _ p | .vmulExt a b c _ _ p | .vdivExt a b c _ _ p
  | .vminExt a b c _ _ p | .vmaxExt a b c _ _ p | .vandExt a b c _ _ p | .vorExt a b c _ _ p
  | .vxorExt a b c _ _ p | .vshlExt a b c _ _ p | .vshrExt a b c _ _ p | .vsraExt a b c _ _ p | .vsel a b c p
  | .vperm a b c p | .fadd a b c p | .fsub a b c p | .fmul a b c p | .fdot a b c p | .feval a b c _ _ _ p =>
    [(2, a.toNat), (2, b.toNat), (2, c.toNat), (3, p.toNat)]
  | .vsqrtF32 a b p | .vrsqrtF32 a b p | .vrcpF32 a b p | .vexp2F32 a b p | .vlog2F32 a b p | .vabsF32 a b p
  | .vnegF32 a b p | .vsqrtF64 a b p | .vrsqrtF64 a b p | .vrcpF64 a b p | .vexp2F64 a b p | .vlog2F64 a b p
  | .vabsF64 a b p | .vnegF64 a b p | .vabsS32 a b p | .vnegS32 a b p | .vsqrtExt a b _ _ p | .vrsqrtExt a b _ _ p
  | .vrcpExt a b _ _ p | .vexp2Ext a b _ _ p | .vlog2Ext a b _ _ p | .vabsExt a b _ _ p | .vnegExt a b _ _ p
  | .vcvt a b _ _ _ p | .vmov a b p | .vscan _ _ a b _ _ p | .vcompress a b p | .vexpand a b p | .fnorm a b p
  | .fdiff a b _ _ _ p | .fint a b _ _ p | .fanti a b _ _ _ p | .fproj a b _ _ _ p | .fraise a b _ _ _ p
  | .fcvt a b _ _ _ p | .ftrace a b _ _ _ _ p => [(2, a.toNat), (2, b.toNat), (3, p.toNat)]
  | .vfmaExt a b c d _ _ p => [(2, a.toNat), (2, b.toNat), (2, c.toNat), (2, d.toNat), (3, p.toNat)]
  | .vcmp a b c p _ _ | .vcmpExt a b c _ _ p => [(3, a.toNat), (2, b.toNat), (2, c.toNat), (3, p.toNat)]
  | .vbcast a b p | .vld a b p _ | .vst a b p _ | .vldOff a b _ _ p | .vstOff a b _ _ p =>
    [(2, a.toNat), (1, b.toNat), (3, p.toNat)]
  | .vext a b c => [(1, a.toNat), (2, b.toNat), (1, c.toNat)]
  | .vid a p => [(2, a.toNat), (3, p.toNat)]
  | .vred _ a b _ _ p => [(1, a.toNat), (2, b.toNat), (3, p.toNat)]
  | .vsred _ a b d _ _ p | .vsscan _ _ a b d _ _ p => [(2, a.toNat), (2, b.toNat), (3, d.toNat), (3, p.toNat)]
  | .vslide a b c p | .vpass a b c p | .fscale a b c p => [(2, a.toNat), (2, b.toNat), (1, c.toNat), (3, p.toNat)]
  | .vrand a b c p | .vlds a b c p _ | .vsts a b c p _ | .vldsOff a b c _ _ p | .vstsOff a b c _ _ p =>
    [(2, a.toNat), (1, b.toNat), (1, c.toNat), (3, p.toNat)]
  | .pand a b c | .por a b c | .pxor a b c => [(3, a.toNat), (3, b.toNat), (3, c.toNat)]
  | .pnot a b => [(3, a.toNat), (3, b.toNat)]
  | .pset a b => [(3, a.toNat), (1, b.toNat)]
  | .pfirst a b | .ppop a b => [(1, a.toNat), (3, b.toNat)]
  | .vldg a b p _ n | .vstg a b p _ n => (2, a.toNat) :: (2, a.toNat + n.toNat) :: [(1, b.toNat), (3, p.toNat)]
  | .vldx a b c p _ | .vstx a b c p _ => [(2, a.toNat), (1, b.toNat), (2, c.toNat), (3, p.toNat)]
  | .fset a b | .fld a b _ | .fst a b _ => [(2, a.toNat), (1, b.toNat)]
  | .fget a b => [(1, a.toNat), (2, b.toNat)]
  | .msign a b _ => [(3, a.toNat), (3, a.toNat + 1), (1, b.toNat)]
  | .msmacc _ _ b _ _ _ _ _ _ => [(1, b.toNat), (2, 31)]
  | .mcmp a b c _ _ _ => [(3, a.toNat), (1, b.toNat), (1, c.toNat)]
  | .bar a b l | .barArrive a b l => [(1, b.toNat), (4 + 16 * l.toNat, a.toNat)]
  | .barWait a l => [(4 + 16 * l.toNat, a.toNat)]
  | .qpush b n => [(1, b.toNat), (5, n.toNat)]
  | .qpop a n => [(1, a.toNat), (5, n.toNat)]
  | .vwait a b c p => [(1, a.toNat), (2, b.toNat), (1, c.toNat), (3, p.toNat)]
  | _ => []

/-- The count a kind is held to. -/
def KHeader.limit (h : KHeader) (kind : Nat) : Nat :=
  match kind % 16 with
  | 1 => h.xregs
  | 2 => h.vregs
  | 3 => h.preds
  | 4 => if kind / 16 = 0 then h.barc else if kind / 16 = 1 then h.barp else h.bard
  | _ => h.queues

/-- The values of EVAL of what an instruction names at or beyond its count, each once. -/
def KHeader.overruns (h : KHeader) (i : Instr) : List Word64 :=
  (((Instr.named i).filter fun e => decide (h.limit e.1 ≤ e.2)).map fun e => overrunEval (e.1 % 16) e.2).eraseDups

/-- The overrun reported (R200); which of several is not stated (log entry 45). -/
def State.overrun (s : State) (i : Instr) : Option Word64 :=
  match s.me.header.overruns i with
  | [] => none
  | [v] => some v
  | v :: t => some ((v :: t).getD (Config.freePos s.freeNo t.length % (t.length + 1)) v)

/-! FIRST and LAST (R55, R88). -/

/-- The innermost active level whose body holds an address. -/
def Hart.levelAt (h : Hart) (a : BitVec 48) : Option Nat :=
  [3, 2, 1, 0].find? fun n => (h.level n).active && decide ((h.level n).start ≤ a) && decide (a < (h.level n).stop)

/-- Whether an instruction with these flags runs in this iteration. -/
def Hart.runs (h : Hart) (first last : Bool) : Bool :=
  if h.handler then true
  else
    match h.levelAt (h.pc.setWidth 48) with
    | none => true
    | some n => (!first || (h.level n).first) && (!last || (h.level n).startCount == 0)

/-! Issue. -/

/-- Words after word 0 by LEN (R50). -/
def moreWords (w : Word32) : Nat := sizeOfLen (w.extractLsb 1 0) / 4 - 1

/-- What fetching and decoding at the acting hart's PC comes to. -/
inductive Fetched where
  | fault (va : Word64) (cause : Nat)
  | illegal (w : Word32)
  | ok (w : Word32) (d : Decoded)

/-- Whether word 0 is one of `vwait`, which is an instruction only in a context with T1 (R65). -/
def State.notT1 (s : State) (w : W0) : Bool := w.maj == 0x38 && w.f == 7 && s.myCtx.cfg.t1 != 1

/-- Orders 1 to 4 of R58. -/
noncomputable def State.fetchDecode (s : State) : State × Fetched :=
  match s.fetchWord s.me.pc with
  | (s1, .error c) => (s1, .fault s.me.pc c)
  | (s1, .ok w) =>
    if !word0Legal (W0.ofWord w) || s1.notT1 (W0.ofWord w) then (s1, .illegal w)
    else
      match s1.fetchMore (s.me.pc + 4) (moreWords w) with
      | (s2, .error (va, c)) => (s2.setMe { s2.me with ir := w }, .fault va c)
      | (s2, .ok ws) =>
        match decodeWords (w :: ws) with
        | .error _ => (s2, .illegal w)
        | .ok d => (s2, .ok w d)

/-- The acting hart with the word it issues and the address of the next instruction in sequence. -/
def State.atWord (s : State) (w : Word32) (size : Nat) : State :=
  s.setMe { s.me with ir := w, npc := s.me.pc + BitVec.ofNat 64 size }

/-- What the acting hart does at its PC: the state and the instruction to execute in it, or none where the instruction is
over without executing: skipped by its loop flags, or beyond the kernel header. -/
noncomputable def State.prepare (s : State) : State × Option Instr :=
  match s.fetchDecode with
  | (s1, .fault va c) => (s1, some (.fetchFault va c))
  | (s1, .illegal w) => (s1, some (.illegalInstruction w))
  | (s1, .ok w d) =>
    let s2 := s1.atWord w d.size
    if !s2.me.runs d.first d.last then (s2.retire, none)
    else
      match s2.overrun d.instr with
      | some v => ((s2.bumpFree).decodeTrap w 2 v, none)
      | none => (s2, some d.instr)

/-- Whether a hart can issue (R211): the device runs, its die is not stopped, its press is enabled and under no clock change,
its core under no test, and it takes part in a launch and neither waits, nor is halted, at the end of a single step or with a
supervisor core; and it issues nothing from the sixth clock of a stop on (R374). A hart that leaves its task or launch goes on once
its engine commands are complete, and one that has read a control register writes it (R89). -/
def State.ready (s : State) (h : Nat) : Bool :=
  let H := s.hart h
  let p := s.press (pressOfHart h)
  decide (s.hub.power = .run) && !(s.die (dieOfHart h)).stopped && p.enabled && !p.stallClock && p.resident.isSome &&
    !(s.core (coreOfHart h)).stallTest && H.life == .running && H.sup.isNone && !H.csr.halt &&
    (H.wait.goesOn || !(H.stepping && H.stepDone)) && (H.wait.completes || !(H.stopArrived || H.haltPend)) &&
    (match H.wait with
      | .none | .csrPair _ _ _ _ => true
      | .leave _ => !s.engineBusy h
      | _ => false)

/-- The ready harts, rising. -/
def State.readyHarts (s : State) : List Nat := s.harts.filterMap fun e => if s.ready e.1 then some e.1 else none

/-- The hart that issues next where nothing from outside says which (log entry 2): of the next core in turn that has a ready
hart, the one that follows its last issuing hart (R211). -/
def State.nextHart (s : State) : Option Nat :=
  let l := s.readyHarts
  let first := (l.find? fun h => decide (s.myCoreId < coreOfHart h)).or l.head?
  match first with
  | none => none
  | some h =>
    let mine := l.filter fun k => coreOfHart k == coreOfHart h
    (mine.find? fun k => decide ((s.core (coreOfHart h)).lastHart < k % 8)).or mine.head?

/-! One issue a core and clock (R66, R211). -/

/-- Whether a word belongs to the scalar (false) or the engine (true) group of R66, or to none. -/
def pairGroup (w : W0) : Option Bool :=
  let m := w.maj.toNat
  if w.len ≠ 0 then none
  else if m ≤ 0x09 ∨ (0x30 ≤ m ∧ m ≤ 0x33) then some false
  else if [0x10, 0x11, 0x12, 0x14, 0x15, 0x17, 0x18, 0x19, 0x1A, 0x1B, 0x1C, 0x20, 0x22, 0x23, 0x28, 0x36].contains m then some true
  else none

/-- The x register a word of the two groups writes; the groups share no other kind of register. -/
def pairDest (w : W0) : Option Nat :=
  let m := w.maj.toNat
  let f := w.f.toNat
  if w.a ≠ 0 ∧ (m ≤ 0x09 ∨ m = 0x30 ∨ m = 0x31 ∨ (m = 0x15 ∧ f = 3) ∨ (m = 0x18 ∧ (f = 5 ∨ f = 6)) ∨ (m = 0x20 ∧ f = 1) ∨
      (m = 0x28 ∧ f = 0) ∨ (m = 0x36 ∧ f ≠ 3)) then some w.a.toNat else none

/-- Whether instruction `i` with word `b` can follow word `a` in an issue pair (R66). -/
def pairs (a b : W0) (i : Instr) : Bool :=
  match pairGroup a, pairGroup b with
  | some x, some y => x != y && (match pairDest a with
    | some r => !(Instr.named i).contains (1, r)
    | none => true)
  | _, _ => false

/-- What the core of a hart has issued in this clock. -/
def State.issuedOf (s : State) (h : Nat) : Option Issued := s.issued.find? fun e => coreOfHart e.hart == coreOfHart h

/-- Whether the acting hart can issue `i` in this clock of its press: nothing of its core has issued yet, or one instruction of the
hart that pairs with it. -/
def State.mayIssue (s : State) (i : Option Instr) : Bool :=
  match s.issuedOf s.cur with
  | none => true
  | some e => e.hart == s.cur && !e.alone && s.me.pc == e.next && (match i with
    | some k => pairs (W0.ofWord e.word) (W0.ofWord s.me.ir) k
    | none => false)

/-- Every stop on its way to a hart notes whether the instruction it issues now counts for the skid: issued in clocks t + 1 to
t + 5 (R374). -/
def Hart.noteStops (h : Hart) : Hart :=
  { h with stopPend := h.stopPend.map fun p => { p with counted := decide (1 ≤ p.clk) && decide (p.clk ≤ 5) } }

/-- The acting hart issues in this clock. The second of a pair, the last instruction of an active loop body, and what is not an
instruction to execute (`alone`) is the last. -/
def State.noteIssue (s : State) (alone : Bool) : State :=
  let h := s.me
  let ends := (List.range 4).any fun n => (h.level n).active && (h.level n).stop == h.npc.setWidth 48
  let t := if h.stopPend = [] then s else s.setMe h.noteStops
  { t with issued := { hart := s.cur, word := h.ir, next := h.npc, alone := alone || (s.issuedOf s.cur).isSome || ends } ::
      s.issued.filter fun e => coreOfHart e.hart != s.myCoreId }

/-- Hart `h` becomes the acting hart and its core's last issuing one. -/
def State.turnTo (s : State) (h : Nat) : State :=
  let s1 := s.setCore (coreOfHart h) { s.core (coreOfHart h) with lastHart := h % 8 }
  { s1 with cur := h }

end Sys2Proof.Machine
end

