-- ==== Sys2Proof/Machine/Scalar.lean ====
section
/-!
DEFINITION. Scalar integer instructions (R70 to R73): each writes one x register, sets no flag, raises no trap and retires.
-/
namespace Sys2Proof.Machine

/-! The results of R71. -/

/-- Signed quotient with its fixed corners (R71 F 5). -/
def divResult (b c : Word64) : Word64 :=
  if c = 0 then BitVec.ofInt 64 (-1) else BitVec.ofInt 64 (b.toInt.tdiv c.toInt)

/-- Unsigned quotient (R71 F 6). -/
def divzResult (b c : Word64) : Word64 :=
  if c = 0 then BitVec.allOnes 64 else BitVec.ofNat 64 (b.toNat / c.toNat)

/-- Signed remainder (R71 F 7): S(xb) − S(xc) × div. -/
def remResult (b c : Word64) : Word64 := if c = 0 then b else b - c * divResult b c

/-- Unsigned remainder (R71 F 8). -/
def remzResult (b c : Word64) : Word64 := if c = 0 then b else b - c * divzResult b c

/-- 1 for a true condition (R71, R74). -/
def boolX (p : Bool) : Word64 := if p then 1 else 0

/-- Leading zero bits of the low `n` bits. -/
def leadingZeros (b : Word64) : Nat → Nat
  | 0 => 0
  | n + 1 => if b.getLsbD n then 0 else leadingZeros b n + 1

/-- Zero bits from bit 64 − `n` up to the first one. -/
def trailingZeros (b : Word64) : Nat → Nat
  | 0 => 0
  | n + 1 => if b.getLsbD (63 - n) then 0 else trailingZeros b n + 1

/-- 1 bits among the low `n`. -/
def onesBelow {w : Nat} (b : BitVec w) : Nat → Nat
  | 0 => 0
  | n + 1 => (if b.getLsbD n then 1 else 0) + onesBelow b n

/-- Shift count xc[5:0] (R71). -/
def shiftCount (c : Word64) : Nat := c.toNat % 64

/-- A register form: xd = f xb xc. -/
def State.aluRR (s : State) (rd rb rc : XReg) (f : Word64 → Word64 → Word64) : Host.Outcome State Fault Refusal :=
  .next (s.retireX rd (f (s.x rb) (s.x rc)))

/-- A form with one register and a constant: xd = f xb. -/
def State.aluR (s : State) (rd rb : XReg) (f : Word64 → Word64) : Host.Outcome State Fault Refusal :=
  .next (s.retireX rd (f (s.x rb)))

/-- `add` (R71 F 0). -/
def execAdd (a b c : XReg) (s : State) : Host.Outcome State Fault Refusal :=
  s.aluRR a b c (fun x y => x + y)

/-- `sub` (R71 F 1). -/
def execSub (a b c : XReg) (s : State) : Host.Outcome State Fault Refusal :=
  s.aluRR a b c (fun x y => x - y)

/-- `mul` (R71 F 2). -/
def execMul (a b c : XReg) (s : State) : Host.Outcome State Fault Refusal :=
  s.aluRR a b c (fun x y => x * y)

/-- `mulh` (R71 F 3). -/
def execMulh (a b c : XReg) (s : State) : Host.Outcome State Fault Refusal :=
  s.aluRR a b c (fun x y => BitVec.ofInt 64 (x.toInt * y.toInt / 2 ^ 64))

/-- `mulhz` (R71 F 4). -/
def execMulhz (a b c : XReg) (s : State) : Host.Outcome State Fault Refusal :=
  s.aluRR a b c (fun x y => BitVec.ofNat 64 (x.toNat * y.toNat / 2 ^ 64))

/-- `div` (R71 F 5). -/
def execDiv (a b c : XReg) (s : State) : Host.Outcome State Fault Refusal :=
  s.aluRR a b c (fun x y => divResult x y)

/-- `divz` (R71 F 6). -/
def execDivz (a b c : XReg) (s : State) : Host.Outcome State Fault Refusal :=
  s.aluRR a b c (fun x y => divzResult x y)

/-- `rem` (R71 F 7). -/
def execRem (a b c : XReg) (s : State) : Host.Outcome State Fault Refusal :=
  s.aluRR a b c (fun x y => remResult x y)

/-- `remz` (R71 F 8). -/
def execRemz (a b c : XReg) (s : State) : Host.Outcome State Fault Refusal :=
  s.aluRR a b c (fun x y => remzResult x y)

/-- `and` (R71 F 9). -/
def execAnd (a b c : XReg) (s : State) : Host.Outcome State Fault Refusal :=
  s.aluRR a b c (fun x y => x &&& y)

/-- `or` (R71 F 10). -/
def execOr (a b c : XReg) (s : State) : Host.Outcome State Fault Refusal :=
  s.aluRR a b c (fun x y => x ||| y)

/-- `xor` (R71 F 11). -/
def execXor (a b c : XReg) (s : State) : Host.Outcome State Fault Refusal :=
  s.aluRR a b c (fun x y => x ^^^ y)

/-- `sll` (R71 F 12). -/
def execSll (a b c : XReg) (s : State) : Host.Outcome State Fault Refusal :=
  s.aluRR a b c (fun x y => x <<< shiftCount y)

/-- `srl` (R71 F 13). -/
def execSrl (a b c : XReg) (s : State) : Host.Outcome State Fault Refusal :=
  s.aluRR a b c (fun x y => x >>> shiftCount y)

/-- `sra` (R71 F 14). -/
def execSra (a b c : XReg) (s : State) : Host.Outcome State Fault Refusal :=
  s.aluRR a b c (fun x y => x.sshiftRight (shiftCount y))

/-- `slt` (R71 F 15). -/
def execSlt (a b c : XReg) (s : State) : Host.Outcome State Fault Refusal :=
  s.aluRR a b c (fun x y => boolX (x.slt y))

/-- `sltz` (R71 F 16). -/
def execSltz (a b c : XReg) (s : State) : Host.Outcome State Fault Refusal :=
  s.aluRR a b c (fun x y => boolX (x.ult y))

/-- `min` (R71 F 17). -/
def execMin (a b c : XReg) (s : State) : Host.Outcome State Fault Refusal :=
  s.aluRR a b c (fun x y => if x.sle y then x else y)

/-- `max` (R71 F 18). -/
def execMax (a b c : XReg) (s : State) : Host.Outcome State Fault Refusal :=
  s.aluRR a b c (fun x y => if x.sle y then y else x)

/-- `minz` (R71 F 19). -/
def execMinz (a b c : XReg) (s : State) : Host.Outcome State Fault Refusal :=
  s.aluRR a b c (fun x y => if x.ule y then x else y)

/-- `maxz` (R71 F 20). -/
def execMaxz (a b c : XReg) (s : State) : Host.Outcome State Fault Refusal :=
  s.aluRR a b c (fun x y => if x.ule y then y else x)

/-- `clz` (R71 F 21). -/
def execClz (a b : XReg) (s : State) : Host.Outcome State Fault Refusal :=
  s.aluR a b (fun x => BitVec.ofNat 64 (leadingZeros x 64))

/-- `ctz` (R71 F 22). -/
def execCtz (a b : XReg) (s : State) : Host.Outcome State Fault Refusal :=
  s.aluR a b (fun x => BitVec.ofNat 64 (trailingZeros x 64))

/-- `popc` (R71 F 23). -/
def execPopc (a b : XReg) (s : State) : Host.Outcome State Fault Refusal :=
  s.aluR a b (fun x => BitVec.ofNat 64 (onesBelow x 64))

/-- `addi` (R72). -/
def execAddi (a b : XReg) (i : BitVec 14) (s : State) : Host.Outcome State Fault Refusal :=
  s.aluR a b (fun x => x + sext i)

/-- `addi`, literal form (R72). -/
def execAddiLit (a b : XReg) (lit : Word64) (s : State) : Host.Outcome State Fault Refusal :=
  s.aluR a b (fun x => x + lit)

/-- `andi` (R72). -/
def execAndi (a b : XReg) (i : BitVec 14) (s : State) : Host.Outcome State Fault Refusal :=
  s.aluR a b (fun x => x &&& sext i)

/-- `andi`, literal form (R72). -/
def execAndiLit (a b : XReg) (lit : Word64) (s : State) : Host.Outcome State Fault Refusal :=
  s.aluR a b (fun x => x &&& lit)

/-- `ori` (R72). -/
def execOri (a b : XReg) (i : BitVec 14) (s : State) : Host.Outcome State Fault Refusal :=
  s.aluR a b (fun x => x ||| sext i)

/-- `ori`, literal form (R72). -/
def execOriLit (a b : XReg) (lit : Word64) (s : State) : Host.Outcome State Fault Refusal :=
  s.aluR a b (fun x => x ||| lit)

/-- `xori` (R72). -/
def execXori (a b : XReg) (i : BitVec 14) (s : State) : Host.Outcome State Fault Refusal :=
  s.aluR a b (fun x => x ^^^ sext i)

/-- `xori`, literal form (R72). -/
def execXoriLit (a b : XReg) (lit : Word64) (s : State) : Host.Outcome State Fault Refusal :=
  s.aluR a b (fun x => x ^^^ lit)

/-- `slli` (R72). -/
def execSlli (a b : XReg) (k : BitVec 6) (s : State) : Host.Outcome State Fault Refusal :=
  s.aluR a b (fun x => x <<< k.toNat)

/-- `srli` (R72). -/
def execSrli (a b : XReg) (k : BitVec 6) (s : State) : Host.Outcome State Fault Refusal :=
  s.aluR a b (fun x => x >>> k.toNat)

/-- `srai` (R72). -/
def execSrai (a b : XReg) (k : BitVec 6) (s : State) : Host.Outcome State Fault Refusal :=
  s.aluR a b (fun x => x.sshiftRight k.toNat)

/-- `lea` (R73). -/
def execLea (a b c : XReg) (k : BitVec 2) (s : State) : Host.Outcome State Fault Refusal :=
  s.aluRR a b c (fun x y => x + y <<< k.toNat)

/-- `li` (R72). -/
def execLi (a : XReg) (i : BitVec 14) (s : State) : Host.Outcome State Fault Refusal := .next (s.retireX a (sext i))

/-- `li`, literal form (R72). -/
def execLiLit (a : XReg) (lit : Word64) (s : State) : Host.Outcome State Fault Refusal := .next (s.retireX a lit)

/-- `pcrel` (R72): the address of word 0 plus imm × 4. -/
def execPcrel (a : XReg) (i : BitVec 14) (s : State) : Host.Outcome State Fault Refusal :=
  .next (s.retireX a (s.me.pc + wordOff i))

/-- `pcrel`, literal form (R72): a byte offset. -/
def execPcrelLit (a : XReg) (lit : Word64) (s : State) : Host.Outcome State Fault Refusal :=
  .next (s.retireX a (s.me.pc + lit))

end Sys2Proof.Machine
end

