-- ==== Sys2Proof/Machine/ScalarFloat.lean ====
section
/-!
DEFINITION. Scalar floating point (R74 to R77). `FRM.FTZ` is ignored (R35, R74); results are zero-extended; flags follow R37.
-/
namespace Sys2Proof.Machine

/-- The value an x register holds for a float type (R74). -/
def State.fp (s : State) (t : ElemTy) (r : XReg) : Num := numOf t (lowBits t (s.x r))

/-- The rounding mode of an instruction's field under the hart's `FRM` (R32). -/
def State.rmOf (s : State) (rm : Rm) : Rm := modeOf rm s.me.csr.rm

/-- Write a result with its flags and retire. -/
def State.retireF (s : State) (rd : XReg) (t : ElemTy) (r : FpRes) : Host.Outcome State Fault Refusal :=
  .next ((s.addFlags r.2).retireX rd (extendX t r.1))

/-- A result of two operands, rounded once by `f`. -/
def State.fp2 (s : State) (rd ra rb : XReg) (t : ElemTy) (rm : Rm) (f : Rm → Bool → ElemTy → Num → Num → FpRes) :
    Host.Outcome State Fault Refusal :=
  s.retireF rd t (f (s.rmOf rm) false t (s.fp t ra) (s.fp t rb))

/-- Square root. -/
def State.fpRoot (s : State) (rd ra : XReg) (t : ElemTy) (rm : Rm) : Host.Outcome State Fault Refusal :=
  s.retireF rd t (fpSqrt (s.rmOf rm) false t (s.fp t ra))

/-- Minimum or maximum. -/
def State.fpExtreme (s : State) (rd ra rb : XReg) (t : ElemTy) (isMax : Bool) : Host.Outcome State Fault Refusal :=
  s.retireF rd t (fpMinMax isMax false t (lowBits t (s.x ra)) (lowBits t (s.x rb)))

/-- A comparison, 0 or 1 in all 64 bits. -/
def State.fpRelation (s : State) (rd ra rb : XReg) (t : ElemTy) (x : Cond) : Host.Outcome State Fault Refusal :=
  let r := fpCmp x (s.fp t ra) (s.fp t rb)
  .next ((s.addFlags r.2).retireX rd (if r.1 then 1 else 0))

/-- A conversion to `tt` from `src` (R77). Between equal types the low bits of the type are kept and extended as any result, and
what xa holds above them is dropped: DEDUCED, log entry 59. -/
def State.fpConvert (s : State) (rd ra : XReg) (tt src : ElemTy) (rm : Rm) : Host.Outcome State Fault Refusal :=
  s.retireF rd tt (convert (s.rmOf rm) false tt src (lowBits src (s.x ra)))

/-- `sfadd` (R75), rounding dynamic. Operands b and c of the one-word form are the sources. -/
def execSfadd (a b c : XReg) (t : ElemTy) (s : State) : Host.Outcome State Fault Refusal :=
  s.fp2 a b c t .dyn fpAdd

/-- `sfadd`, extended form (R76). -/
def execSfaddExt (a b c : XReg) (t : ElemTy) (rm : Rm) (s : State) : Host.Outcome State Fault Refusal :=
  s.fp2 a b c t rm fpAdd

/-- `sfsub` (R75), rounding dynamic. Operands b and c of the one-word form are the sources. -/
def execSfsub (a b c : XReg) (t : ElemTy) (s : State) : Host.Outcome State Fault Refusal :=
  s.fp2 a b c t .dyn fpSub

/-- `sfsub`, extended form (R76). -/
def execSfsubExt (a b c : XReg) (t : ElemTy) (rm : Rm) (s : State) : Host.Outcome State Fault Refusal :=
  s.fp2 a b c t rm fpSub

/-- `sfmul` (R75), rounding dynamic. Operands b and c of the one-word form are the sources. -/
def execSfmul (a b c : XReg) (t : ElemTy) (s : State) : Host.Outcome State Fault Refusal :=
  s.fp2 a b c t .dyn fpMul

/-- `sfmul`, extended form (R76). -/
def execSfmulExt (a b c : XReg) (t : ElemTy) (rm : Rm) (s : State) : Host.Outcome State Fault Refusal :=
  s.fp2 a b c t rm fpMul

/-- `sfdiv` (R75), rounding dynamic. Operands b and c of the one-word form are the sources. -/
def execSfdiv (a b c : XReg) (t : ElemTy) (s : State) : Host.Outcome State Fault Refusal :=
  s.fp2 a b c t .dyn fpDiv

/-- `sfdiv`, extended form (R76). -/
def execSfdivExt (a b c : XReg) (t : ElemTy) (rm : Rm) (s : State) : Host.Outcome State Fault Refusal :=
  s.fp2 a b c t rm fpDiv

/-- `sfsqrt` (R75). -/
def execSfsqrt (a b : XReg) (t : ElemTy) (s : State) : Host.Outcome State Fault Refusal := s.fpRoot a b t .dyn

/-- `sfsqrt`, extended form (R76). -/
def execSfsqrtExt (a b : XReg) (t : ElemTy) (rm : Rm) (s : State) : Host.Outcome State Fault Refusal :=
  s.fpRoot a b t rm

/-- `sfmin` (R75). -/
def execSfmin (a b c : XReg) (t : ElemTy) (s : State) : Host.Outcome State Fault Refusal :=
  s.fpExtreme a b c t false

/-- `sfmin`, extended form (R76): the rounding field has no effect on an exact result. -/
def execSfminExt (a b c : XReg) (t : ElemTy) (_rm : Rm) (s : State) : Host.Outcome State Fault Refusal :=
  s.fpExtreme a b c t false

/-- `sfmax` (R75). -/
def execSfmax (a b c : XReg) (t : ElemTy) (s : State) : Host.Outcome State Fault Refusal :=
  s.fpExtreme a b c t true

/-- `sfmax`, extended form (R76): the rounding field has no effect on an exact result. -/
def execSfmaxExt (a b c : XReg) (t : ElemTy) (_rm : Rm) (s : State) : Host.Outcome State Fault Refusal :=
  s.fpExtreme a b c t true

/-- `sfcmp.eq` (R75). -/
def execSfcmpEq (a b c : XReg) (t : ElemTy) (s : State) : Host.Outcome State Fault Refusal :=
  s.fpRelation a b c t .eq

/-- `sfcmp.eq`, extended form (R76). -/
def execSfcmpEqExt (a b c : XReg) (t : ElemTy) (_rm : Rm) (s : State) : Host.Outcome State Fault Refusal :=
  s.fpRelation a b c t .eq

/-- `sfcmp.lt` (R75). -/
def execSfcmpLt (a b c : XReg) (t : ElemTy) (s : State) : Host.Outcome State Fault Refusal :=
  s.fpRelation a b c t .lt

/-- `sfcmp.lt`, extended form (R76). -/
def execSfcmpLtExt (a b c : XReg) (t : ElemTy) (_rm : Rm) (s : State) : Host.Outcome State Fault Refusal :=
  s.fpRelation a b c t .lt

/-- `sfcmp.le` (R75). -/
def execSfcmpLe (a b c : XReg) (t : ElemTy) (s : State) : Host.Outcome State Fault Refusal :=
  s.fpRelation a b c t .le

/-- `sfcmp.le`, extended form (R76). -/
def execSfcmpLeExt (a b c : XReg) (t : ElemTy) (_rm : Rm) (s : State) : Host.Outcome State Fault Refusal :=
  s.fpRelation a b c t .le

/-- `sfcmp.un` (R75). -/
def execSfcmpUn (a b c : XReg) (t : ElemTy) (s : State) : Host.Outcome State Fault Refusal :=
  s.fpRelation a b c t .un

/-- `sfcmp.un`, extended form (R76). -/
def execSfcmpUnExt (a b c : XReg) (t : ElemTy) (_rm : Rm) (s : State) : Host.Outcome State Fault Refusal :=
  s.fpRelation a b c t .un

/-- `sfcvt` (R77), one-word form: `src` the source type and `t` the destination type. -/
def execSfcvt (a b : XReg) (src t : ElemTy) (s : State) : Host.Outcome State Fault Refusal :=
  s.fpConvert a b t src .dyn

/-- `sfcvt`, extended form (R77). -/
def execSfcvtExt (a b : XReg) (t tb : ElemTy) (rm : Rm) (s : State) : Host.Outcome State Fault Refusal :=
  s.fpConvert a b t tb rm

/-- `sffma` (R75): Round(xa × xb + xc), once. -/
def execSffma (a b c d : XReg) (t : ElemTy) (rm : Rm) (s : State) : Host.Outcome State Fault Refusal :=
  s.retireF a t (fpFma (s.rmOf rm) false t (s.fp t b) (s.fp t c) (s.fp t d))

end Sys2Proof.Machine
end

