-- ==== Sys2Proof/Machine/Dispatch.lean ====
section
/-!
DEFINITION. One arm per row of the opcode table: each calls the meaning of its instruction on the acting hart's state.
-/
namespace Sys2Proof.Machine

def exec (i : Instr) (s : State) : Host.Outcome State Fault Refusal :=
  match i with
  | .add a b c => Sys2Proof.Machine.execAdd a b c s
  | .sub a b c => Sys2Proof.Machine.execSub a b c s
  | .mul a b c => Sys2Proof.Machine.execMul a b c s
  | .mulh a b c => Sys2Proof.Machine.execMulh a b c s
  | .mulhz a b c => Sys2Proof.Machine.execMulhz a b c s
  | .div a b c => Sys2Proof.Machine.execDiv a b c s
  | .divz a b c => Sys2Proof.Machine.execDivz a b c s
  | .rem a b c => Sys2Proof.Machine.execRem a b c s
  | .remz a b c => Sys2Proof.Machine.execRemz a b c s
  | .and a b c => Sys2Proof.Machine.execAnd a b c s
  | .or a b c => Sys2Proof.Machine.execOr a b c s
  | .xor a b c => Sys2Proof.Machine.execXor a b c s
  | .sll a b c => Sys2Proof.Machine.execSll a b c s
  | .srl a b c => Sys2Proof.Machine.execSrl a b c s
  | .sra a b c => Sys2Proof.Machine.execSra a b c s
  | .slt a b c => Sys2Proof.Machine.execSlt a b c s
  | .sltz a b c => Sys2Proof.Machine.execSltz a b c s
  | .min a b c => Sys2Proof.Machine.execMin a b c s
  | .max a b c => Sys2Proof.Machine.execMax a b c s
  | .minz a b c => Sys2Proof.Machine.execMinz a b c s
  | .maxz a b c => Sys2Proof.Machine.execMaxz a b c s
  | .clz a b => Sys2Proof.Machine.execClz a b s
  | .ctz a b => Sys2Proof.Machine.execCtz a b s
  | .popc a b => Sys2Proof.Machine.execPopc a b s
  | .addi a b imm => Sys2Proof.Machine.execAddi a b imm s
  | .addiLit a b lit => Sys2Proof.Machine.execAddiLit a b lit s
  | .andi a b imm => Sys2Proof.Machine.execAndi a b imm s
  | .andiLit a b lit => Sys2Proof.Machine.execAndiLit a b lit s
  | .ori a b imm => Sys2Proof.Machine.execOri a b imm s
  | .oriLit a b lit => Sys2Proof.Machine.execOriLit a b lit s
  | .xori a b imm => Sys2Proof.Machine.execXori a b imm s
  | .xoriLit a b lit => Sys2Proof.Machine.execXoriLit a b lit s
  | .slli a b sc => Sys2Proof.Machine.execSlli a b sc s
  | .srli a b sc => Sys2Proof.Machine.execSrli a b sc s
  | .srai a b sc => Sys2Proof.Machine.execSrai a b sc s
  | .lea a b c k => Sys2Proof.Machine.execLea a b c k s
  | .li a imm => Sys2Proof.Machine.execLi a imm s
  | .liLit a lit => Sys2Proof.Machine.execLiLit a lit s
  | .pcrel a imm => Sys2Proof.Machine.execPcrel a imm s
  | .pcrelLit a lit => Sys2Proof.Machine.execPcrelLit a lit s
  | .sfadd a b c t => Sys2Proof.Machine.execSfadd a b c t s
  | .sfsub a b c t => Sys2Proof.Machine.execSfsub a b c t s
  | .sfmul a b c t => Sys2Proof.Machine.execSfmul a b c t s
  | .sfdiv a b c t => Sys2Proof.Machine.execSfdiv a b c t s
  | .sfsqrt a b t => Sys2Proof.Machine.execSfsqrt a b t s
  | .sfmin a b c t => Sys2Proof.Machine.execSfmin a b c t s
  | .sfmax a b c t => Sys2Proof.Machine.execSfmax a b c t s
  | .sfcmpEq a b c t => Sys2Proof.Machine.execSfcmpEq a b c t s
  | .sfcmpLt a b c t => Sys2Proof.Machine.execSfcmpLt a b c t s
  | .sfcmpLe a b c t => Sys2Proof.Machine.execSfcmpLe a b c t s
  | .sfcmpUn a b c t => Sys2Proof.Machine.execSfcmpUn a b c t s
  | .sfcvt a b sc t => Sys2Proof.Machine.execSfcvt a b sc t s
  | .sfaddExt a b c t rm => Sys2Proof.Machine.execSfaddExt a b c t rm s
  | .sfsubExt a b c t rm => Sys2Proof.Machine.execSfsubExt a b c t rm s
  | .sfmulExt a b c t rm => Sys2Proof.Machine.execSfmulExt a b c t rm s
  | .sfdivExt a b c t rm => Sys2Proof.Machine.execSfdivExt a b c t rm s
  | .sfsqrtExt a b t rm => Sys2Proof.Machine.execSfsqrtExt a b t rm s
  | .sfminExt a b c t rm => Sys2Proof.Machine.execSfminExt a b c t rm s
  | .sfmaxExt a b c t rm => Sys2Proof.Machine.execSfmaxExt a b c t rm s
  | .sfcmpEqExt a b c t rm => Sys2Proof.Machine.execSfcmpEqExt a b c t rm s
  | .sfcmpLtExt a b c t rm => Sys2Proof.Machine.execSfcmpLtExt a b c t rm s
  | .sfcmpLeExt a b c t rm => Sys2Proof.Machine.execSfcmpLeExt a b c t rm s
  | .sfcmpUnExt a b c t rm => Sys2Proof.Machine.execSfcmpUnExt a b c t rm s
  | .sfcvtExt a b t tb rm => Sys2Proof.Machine.execSfcvtExt a b t tb rm s
  | .sffma a b c d t rm => Sys2Proof.Machine.execSffma a b c d t rm s
  | .beq b c o => Sys2Proof.Machine.execBeq b c o s
  | .bne b c o => Sys2Proof.Machine.execBne b c o s
  | .blt b c o => Sys2Proof.Machine.execBlt b c o s
  | .bge b c o => Sys2Proof.Machine.execBge b c o s
  | .blo b c o => Sys2Proof.Machine.execBlo b c o s
  | .bhs b c o => Sys2Proof.Machine.execBhs b c o s
  | .beqLit b c lit => Sys2Proof.Machine.execBeqLit b c lit s
  | .bneLit b c lit => Sys2Proof.Machine.execBneLit b c lit s
  | .bltLit b c lit => Sys2Proof.Machine.execBltLit b c lit s
  | .bgeLit b c lit => Sys2Proof.Machine.execBgeLit b c lit s
  | .bloLit b c lit => Sys2Proof.Machine.execBloLit b c lit s
  | .bhsLit b c lit => Sys2Proof.Machine.execBhsLit b c lit s
  | .jal a o => Sys2Proof.Machine.execJal a o s
  | .jalLit a lit => Sys2Proof.Machine.execJalLit a lit s
  | .jalr a b imm => Sys2Proof.Machine.execJalr a b imm s
  | .loop l b imm => Sys2Proof.Machine.execLoop l b imm s
  | .loopLit l imm count => Sys2Proof.Machine.execLoopLit l imm count s
  | .smb imm => Sys2Proof.Machine.execSmb imm s
  | .smbStrides imm r0 r1 r2 r3 s0 s1 s2 s3 => Sys2Proof.Machine.execSmbStrides imm r0 r1 r2 r3 s0 s1 s2 s3 s
  | .csrr a n => Sys2Proof.Machine.execCsrr a n s
  | .csrw b n => Sys2Proof.Machine.execCsrw b n s
  | .csrs b n => Sys2Proof.Machine.execCsrs b n s
  | .csrc b n => Sys2Proof.Machine.execCsrc b n s
  | .vlWrite op v => Sys2Proof.Machine.execVlWrite op v s
  | .vremWrite op v => Sys2Proof.Machine.execVremWrite op v s
  | .vpolWrite op v => Sys2Proof.Machine.execVpolWrite op v s
  | .frmWrite op v => Sys2Proof.Machine.execFrmWrite op v s
  | .fflagsWrite op v => Sys2Proof.Machine.execFflagsWrite op v s
  | .awinWrite op v => Sys2Proof.Machine.execAwinWrite op v s
  | .lcWrite n op v => Sys2Proof.Machine.execLcWrite n op v s
  | .lsLeWrite isEnd n op v => Sys2Proof.Machine.execLsLeWrite isEnd n op v s
  | .wboundWrite op v => Sys2Proof.Machine.execWboundWrite op v s
  | .registerWrite r op v => Sys2Proof.Machine.execRegisterWrite r op v s
  | .nop => Sys2Proof.Machine.execNop s
  | .tret => Sys2Proof.Machine.execTret s
  | .brk => Sys2Proof.Machine.execBrk s
  | .halt => Sys2Proof.Machine.execHalt s
  | .fenceSv sc => Sys2Proof.Machine.execFenceSv sc s
  | .fenceVs sc => Sys2Proof.Machine.execFenceVs sc s
  | .fenceVv sc => Sys2Proof.Machine.execFenceVv sc s
  | .fenceAll sc => Sys2Proof.Machine.execFenceAll sc s
  | .flush b c => Sys2Proof.Machine.execFlush b c s
  | .trap imm => Sys2Proof.Machine.execTrap imm s
  | .ld a b t o => Sys2Proof.Machine.execLd a b t o s
  | .ldLit a b t lit => Sys2Proof.Machine.execLdLit a b t lit s
  | .ldIndexed a b c t k => Sys2Proof.Machine.execLdIndexed a b c t k s
  | .st a b z o => Sys2Proof.Machine.execSt a b z o s
  | .stLit a b z lit => Sys2Proof.Machine.execStLit a b z lit s
  | .stIndexed a b c k z => Sys2Proof.Machine.execStIndexed a b c k z s
  | .ldAcq a b sc z => Sys2Proof.Machine.execLdAcq a b sc z s
  | .stRel a b sc z => Sys2Proof.Machine.execStRel a b sc z s
  | .amoAdd a b c sc z => Sys2Proof.Machine.execAmoAdd a b c sc z s
  | .amoMin a b c sc u z => Sys2Proof.Machine.execAmoMin a b c sc u z s
  | .amoMax a b c sc u z => Sys2Proof.Machine.execAmoMax a b c sc u z s
  | .amoAnd a b c sc z => Sys2Proof.Machine.execAmoAnd a b c sc z s
  | .amoOr a b c sc z => Sys2Proof.Machine.execAmoOr a b c sc z s
  | .amoXor a b c sc z => Sys2Proof.Machine.execAmoXor a b c sc z s
  | .amoSwap a b c sc z => Sys2Proof.Machine.execAmoSwap a b c sc z s
  | .amoCas a b c d sc z => Sys2Proof.Machine.execAmoCas a b c d sc z s
  | .redAdd b c sc z => Sys2Proof.Machine.execRedAdd b c sc z s
  | .redMin b c sc u z => Sys2Proof.Machine.execRedMin b c sc u z s
  | .redMax b c sc u z => Sys2Proof.Machine.execRedMax b c sc u z s
  | .redAnd b c sc z => Sys2Proof.Machine.execRedAnd b c sc z s
  | .redOr b c sc z => Sys2Proof.Machine.execRedOr b c sc z s
  | .redXor b c sc z => Sys2Proof.Machine.execRedXor b c sc z s
  | .vaddF32 a b c p => Sys2Proof.Machine.execVaddF32 a b c p s
  | .vsubF32 a b c p => Sys2Proof.Machine.execVsubF32 a b c p s
  | .vmulF32 a b c p => Sys2Proof.Machine.execVmulF32 a b c p s
  | .vfmaF32 a b c p => Sys2Proof.Machine.execVfmaF32 a b c p s
  | .vdivF32 a b c p => Sys2Proof.Machine.execVdivF32 a b c p s
  | .vsqrtF32 a b p => Sys2Proof.Machine.execVsqrtF32 a b p s
  | .vrsqrtF32 a b p => Sys2Proof.Machine.execVrsqrtF32 a b p s
  | .vrcpF32 a b p => Sys2Proof.Machine.execVrcpF32 a b p s
  | .vexp2F32 a b p => Sys2Proof.Machine.execVexp2F32 a b p s
  | .vlog2F32 a b p => Sys2Proof.Machine.execVlog2F32 a b p s
  | .vminF32 a b c p => Sys2Proof.Machine.execVminF32 a b c p s
  | .vmaxF32 a b c p => Sys2Proof.Machine.execVmaxF32 a b c p s
  | .vabsF32 a b p => Sys2Proof.Machine.execVabsF32 a b p s
  | .vnegF32 a b p => Sys2Proof.Machine.execVnegF32 a b p s
  | .vaddF64 a b c p => Sys2Proof.Machine.execVaddF64 a b c p s
  | .vsubF64 a b c p => Sys2Proof.Machine.execVsubF64 a b c p s
  | .vmulF64 a b c p => Sys2Proof.Machine.execVmulF64 a b c p s
  | .vfmaF64 a b c p => Sys2Proof.Machine.execVfmaF64 a b c p s
  | .vdivF64 a b c p => Sys2Proof.Machine.execVdivF64 a b c p s
  | .vsqrtF64 a b p => Sys2Proof.Machine.execVsqrtF64 a b p s
  | .vrsqrtF64 a b p => Sys2Proof.Machine.execVrsqrtF64 a b p s
  | .vrcpF64 a b p => Sys2Proof.Machine.execVrcpF64 a b p s
  | .vexp2F64 a b p => Sys2Proof.Machine.execVexp2F64 a b p s
  | .vlog2F64 a b p => Sys2Proof.Machine.execVlog2F64 a b p s
  | .vminF64 a b c p => Sys2Proof.Machine.execVminF64 a b c p s
  | .vmaxF64 a b c p => Sys2Proof.Machine.execVmaxF64 a b c p s
  | .vabsF64 a b p => Sys2Proof.Machine.execVabsF64 a b p s
  | .vnegF64 a b p => Sys2Proof.Machine.execVnegF64 a b p s
  | .vaddS32 a b c p => Sys2Proof.Machine.execVaddS32 a b c p s
  | .vsubS32 a b c p => Sys2Proof.Machine.execVsubS32 a b c p s
  | .vmulS32 a b c p => Sys2Proof.Machine.execVmulS32 a b c p s
  | .vfmaS32 a b c p => Sys2Proof.Machine.execVfmaS32 a b c p s
  | .vminS32 a b c p => Sys2Proof.Machine.execVminS32 a b c p s
  | .vmaxS32 a b c p => Sys2Proof.Machine.execVmaxS32 a b c p s
  | .vabsS32 a b p => Sys2Proof.Machine.execVabsS32 a b p s
  | .vnegS32 a b p => Sys2Proof.Machine.execVnegS32 a b p s
  | .vandS32 a b c p => Sys2Proof.Machine.execVandS32 a b c p s
  | .vorS32 a b c p => Sys2Proof.Machine.execVorS32 a b c p s
  | .vxorS32 a b c p => Sys2Proof.Machine.execVxorS32 a b c p s
  | .vshlS32 a b c p => Sys2Proof.Machine.execVshlS32 a b c p s
  | .vshrS32 a b c p => Sys2Proof.Machine.execVshrS32 a b c p s
  | .vsraS32 a b c p => Sys2Proof.Machine.execVsraS32 a b c p s
  | .vaddExt a b c t rm p => Sys2Proof.Machine.execVaddExt a b c t rm p s
  | .vsubExt a b c t rm p => Sys2Proof.Machine.execVsubExt a b c t rm p s
  | .vmulExt a b c t rm p => Sys2Proof.Machine.execVmulExt a b c t rm p s
  | .vfmaExt a b c d t rm p => Sys2Proof.Machine.execVfmaExt a b c d t rm p s
  | .vdivExt a b c t rm p => Sys2Proof.Machine.execVdivExt a b c t rm p s
  | .vsqrtExt a b t rm p => Sys2Proof.Machine.execVsqrtExt a b t rm p s
  | .vrsqrtExt a b t rm p => Sys2Proof.Machine.execVrsqrtExt a b t rm p s
  | .vrcpExt a b t rm p => Sys2Proof.Machine.execVrcpExt a b t rm p s
  | .vexp2Ext a b t rm p => Sys2Proof.Machine.execVexp2Ext a b t rm p s
  | .vlog2Ext a b t rm p => Sys2Proof.Machine.execVlog2Ext a b t rm p s
  | .vminExt a b c t rm p => Sys2Proof.Machine.execVminExt a b c t rm p s
  | .vmaxExt a b c t rm p => Sys2Proof.Machine.execVmaxExt a b c t rm p s
  | .vabsExt a b t rm p => Sys2Proof.Machine.execVabsExt a b t rm p s
  | .vnegExt a b t rm p => Sys2Proof.Machine.execVnegExt a b t rm p s
  | .vandExt a b c t rm p => Sys2Proof.Machine.execVandExt a b c t rm p s
  | .vorExt a b c t rm p => Sys2Proof.Machine.execVorExt a b c t rm p s
  | .vxorExt a b c t rm p => Sys2Proof.Machine.execVxorExt a b c t rm p s
  | .vshlExt a b c t rm p => Sys2Proof.Machine.execVshlExt a b c t rm p s
  | .vshrExt a b c t rm p => Sys2Proof.Machine.execVshrExt a b c t rm p s
  | .vsraExt a b c t rm p => Sys2Proof.Machine.execVsraExt a b c t rm p s
  | .vcvt a b t tb rm p => Sys2Proof.Machine.execVcvt a b t tb rm p s
  | .vcmp a b c p x k => Sys2Proof.Machine.execVcmp a b c p x k s
  | .vcmpExt a b c x t p => Sys2Proof.Machine.execVcmpExt a b c x t p s
  | .vsel a b c p => Sys2Proof.Machine.execVsel a b c p s
  | .vmov a b p => Sys2Proof.Machine.execVmov a b p s
  | .vbcast a b p => Sys2Proof.Machine.execVbcast a b p s
  | .vext a b c => Sys2Proof.Machine.execVext a b c s
  | .vid a p => Sys2Proof.Machine.execVid a p s
  | .vred op a b t rm p => Sys2Proof.Machine.execVred op a b t rm p s
  | .vsred op a b d t rm p => Sys2Proof.Machine.execVsred op a b d t rm p s
  | .vscan op excl a b t rm p => Sys2Proof.Machine.execVscan op excl a b t rm p s
  | .vsscan op excl a b d t rm p => Sys2Proof.Machine.execVsscan op excl a b d t rm p s
  | .vcompress a b p => Sys2Proof.Machine.execVcompress a b p s
  | .vexpand a b p => Sys2Proof.Machine.execVexpand a b p s
  | .vperm a b c p => Sys2Proof.Machine.execVperm a b c p s
  | .vslide a b c p => Sys2Proof.Machine.execVslide a b c p s
  | .vpass a b c p => Sys2Proof.Machine.execVpass a b c p s
  | .vrand a b c p => Sys2Proof.Machine.execVrand a b c p s
  | .pand a b c => Sys2Proof.Machine.execPand a b c s
  | .por a b c => Sys2Proof.Machine.execPor a b c s
  | .pxor a b c => Sys2Proof.Machine.execPxor a b c s
  | .pnot a b => Sys2Proof.Machine.execPnot a b s
  | .pset a b => Sys2Proof.Machine.execPset a b s
  | .pfirst a b => Sys2Proof.Machine.execPfirst a b s
  | .ppop a b => Sys2Proof.Machine.execPpop a b s
  | .vld a b p z => Sys2Proof.Machine.execVld a b p z s
  | .vlds a b c p z => Sys2Proof.Machine.execVlds a b c p z s
  | .vst a b p z => Sys2Proof.Machine.execVst a b p z s
  | .vsts a b c p z => Sys2Proof.Machine.execVsts a b c p z s
  | .vldOff a b z off p => Sys2Proof.Machine.execVldOff a b z off p s
  | .vldsOff a b c z off p => Sys2Proof.Machine.execVldsOff a b c z off p s
  | .vstOff a b z off p => Sys2Proof.Machine.execVstOff a b z off p s
  | .vstsOff a b c z off p => Sys2Proof.Machine.execVstsOff a b c z off p s
  | .vldg a b p z n => Sys2Proof.Machine.execVldg a b p z n s
  | .vstg a b p z n => Sys2Proof.Machine.execVstg a b p z n s
  | .vldx a b c p z => Sys2Proof.Machine.execVldx a b c p z s
  | .vstx a b c p z => Sys2Proof.Machine.execVstx a b c p z s
  | .fset a b => Sys2Proof.Machine.execFset a b s
  | .fget a b => Sys2Proof.Machine.execFget a b s
  | .fadd a b c p => Sys2Proof.Machine.execFadd a b c p s
  | .fsub a b c p => Sys2Proof.Machine.execFsub a b c p s
  | .fmul a b c p => Sys2Proof.Machine.execFmul a b c p s
  | .fscale a b c p => Sys2Proof.Machine.execFscale a b c p s
  | .fdot a b c p => Sys2Proof.Machine.execFdot a b c p s
  | .fnorm a b p => Sys2Proof.Machine.execFnorm a b p s
  | .fdiff a b axis t rm p => Sys2Proof.Machine.execFdiff a b axis t rm p s
  | .fint a b t rm p => Sys2Proof.Machine.execFint a b t rm p s
  | .fanti a b axis t rm p => Sys2Proof.Machine.execFanti a b axis t rm p s
  | .fproj a b deg t rm p => Sys2Proof.Machine.execFproj a b deg t rm p s
  | .fraise a b deg t rm p => Sys2Proof.Machine.execFraise a b deg t rm p s
  | .fcvt a b basis t rm p => Sys2Proof.Machine.execFcvt a b basis t rm p s
  | .ftrace a b face orient t rm p => Sys2Proof.Machine.execFtrace a b face orient t rm p s
  | .feval a b c d t rm p => Sys2Proof.Machine.execFeval a b c d t rm p s
  | .fld a b imm => Sys2Proof.Machine.execFld a b imm s
  | .fst a b imm => Sys2Proof.Machine.execFst a b imm s
  | .mattach a b c => Sys2Proof.Machine.execMattach a b c s
  | .mdetach => Sys2Proof.Machine.execMdetach s
  | .mzero n => Sys2Proof.Machine.execMzero n s
  | .mldb n k sc b c => Sys2Proof.Machine.execMldb n k sc b c s
  | .msign a b n => Sys2Proof.Machine.execMsign a b n s
  | .msave n b => Sys2Proof.Machine.execMsave n b s
  | .mrest n b => Sys2Proof.Machine.execMrest n b s
  | .mmacc n k b t tb boff nblk rowb steps => Sys2Proof.Machine.execMmacc n k b t tb boff nblk rowb steps s
  | .msmacc n k b t tb boff nblk rowb steps => Sys2Proof.Machine.execMsmacc n k b t tb boff nblk rowb steps s
  | .mresolve n t rm nblk rowb => Sys2Proof.Machine.execMresolve n t rm nblk rowb s
  | .mcmp a b c t x n => Sys2Proof.Machine.execMcmp a b c t x n s
  | .mdrain n b c t rm clr sat pack layout nblk rowb => Sys2Proof.Machine.execMdrain n b c t rm clr sat pack layout nblk rowb s
  | .mdrainRaw n b clr nblk rowb => Sys2Proof.Machine.execMdrainRaw n b clr nblk rowb s
  | .mdrainp n b clr nblk rowb => Sys2Proof.Machine.execMdrainp n b clr nblk rowb s
  | .matrixCommandStart core => Sys2Proof.Machine.execMatrixCommandStart core s
  | .tileArrival hart => Sys2Proof.Machine.execTileArrival hart s
  | .cpCopy a b => Sys2Proof.Machine.execCpCopy a b s
  | .cpGather a b => Sys2Proof.Machine.execCpGather a b s
  | .cpDec a b => Sys2Proof.Machine.execCpDec a b s
  | .swInit b c => Sys2Proof.Machine.execSwInit b c s
  | .swWait a b c => Sys2Proof.Machine.execSwWait a b c s
  | .eqPush a b => Sys2Proof.Machine.execEqPush a b s
  | .eqPop a b n => Sys2Proof.Machine.execEqPop a b n s
  | .engineFifoAdmit hart => Sys2Proof.Machine.execEngineFifoAdmit hart s
  | .engineCommandStart core eng seq => Sys2Proof.Machine.execEngineCommandStart core eng seq s
  | .commandComplete core eng seq => Sys2Proof.Machine.execCommandComplete core eng seq s
  | .decodeChunkRelease core seq => Sys2Proof.Machine.execDecodeChunkRelease core seq s
  | .completionRecordPlace core eng seq => Sys2Proof.Machine.execCompletionRecordPlace core eng seq s
  | .syncWaitWake hart => Sys2Proof.Machine.execSyncWaitWake hart s
  | .syncWaitTimeout hart => Sys2Proof.Machine.execSyncWaitTimeout hart s
  | .eqPopRecord hart => Sys2Proof.Machine.execEqPopRecord hart s
  | .eqPopTimeout hart => Sys2Proof.Machine.execEqPopTimeout hart s
  | .bar a b l => Sys2Proof.Machine.execBar a b l s
  | .barArrive a b l => Sys2Proof.Machine.execBarArrive a b l s
  | .barWait a l => Sys2Proof.Machine.execBarWait a l s
  | .barrierRelease hart => Sys2Proof.Machine.execBarrierRelease hart s
  | .futPut a b c => Sys2Proof.Machine.execFutPut a b c s
  | .futGet a b => Sys2Proof.Machine.execFutGet a b s
  | .futureFillWake hart => Sys2Proof.Machine.execFutureFillWake hart s
  | .futureWaitTimeout hart => Sys2Proof.Machine.execFutureWaitTimeout hart s
  | .qpush b n => Sys2Proof.Machine.execQpush b n s
  | .qpop a n => Sys2Proof.Machine.execQpop a n s
  | .queueWaitAdmit hart => Sys2Proof.Machine.execQueueWaitAdmit hart s
  | .queueWaitTimeout hart => Sys2Proof.Machine.execQueueWaitTimeout hart s
  | .vwait a b c p => Sys2Proof.Machine.execVwait a b c p s
  | .vwaitWake hart => Sys2Proof.Machine.execVwaitWake hart s
  | .waitm a b c d t sc => Sys2Proof.Machine.execWaitm a b c d t sc s
  | .monitorWake hart => Sys2Proof.Machine.execMonitorWake hart s
  | .waitmTimeout hart => Sys2Proof.Machine.execWaitmTimeout hart s
  | .lease a b c => Sys2Proof.Machine.execLease a b c s
  | .arbiterServe core => Sys2Proof.Machine.execArbiterServe core s
  | .leaseWaitGrant hart => Sys2Proof.Machine.execLeaseWaitGrant hart s
  | .farm a b => Sys2Proof.Machine.execFarm a b s
  | .wpush a b c => Sys2Proof.Machine.execWpush a b c s
  | .wpop a b => Sys2Proof.Machine.execWpop a b s
  | .wprio a b c => Sys2Proof.Machine.execWprio a b c s
  | .yield b => Sys2Proof.Machine.execYield b s
  | .commit => Sys2Proof.Machine.execCommit s
  | .tend => Sys2Proof.Machine.execTend s
  | .wterm a b => Sys2Proof.Machine.execWterm a b s
  | .wpopWaitSelect hart => Sys2Proof.Machine.execWpopWaitSelect hart s
  | .wpopWaitExpiry hart => Sys2Proof.Machine.execWpopWaitExpiry hart s
  | .wtermConfirm hart => Sys2Proof.Machine.execWtermConfirm hart s
  | .wtermWaitExpiry hart => Sys2Proof.Machine.execWtermWaitExpiry hart s
  | .frameHeaderRead ctx die bin idx => Sys2Proof.Machine.execFrameHeaderRead ctx die bin idx s
  | .spillRefill ctx die bin => Sys2Proof.Machine.execSpillRefill ctx die bin s
  | .parkFloorTimeout hart => Sys2Proof.Machine.execParkFloorTimeout hart s
  | .rackRequest ctx die => Sys2Proof.Machine.execRackRequest ctx die s
  | .rackArrival ctx die => Sys2Proof.Machine.execRackArrival ctx die s
  | .deviceRack ctx ask recs => Sys2Proof.Machine.execDeviceRack ctx ask recs s
  | .preemption hart => Sys2Proof.Machine.execPreemption hart s
  | .commitWindowExpiry hart => Sys2Proof.Machine.execCommitWindowExpiry hart s
  | .terminationWave ctx => Sys2Proof.Machine.execTerminationWave ctx s
  | .launchComplete ctx => Sys2Proof.Machine.execLaunchComplete ctx s
  | .launch h r => Sys2Proof.Machine.execLaunch h r s
  | .ctxcfg h ctx cfg => Sys2Proof.Machine.execCtxcfg h ctx cfg s
  | .ctxrel h ctx => Sys2Proof.Machine.execCtxrel h ctx s
  | .switch h ctx => Sys2Proof.Machine.execSwitch h ctx s
  | .inval h ctx lo hi => Sys2Proof.Machine.execInval h ctx lo hi s
  | .query h ctx => Sys2Proof.Machine.execQuery h ctx s
  | .write h ctx va bytes => Sys2Proof.Machine.execWrite h ctx va bytes s
  | .read h ctx va len => Sys2Proof.Machine.execRead h ctx va len s
  | .cellarld h ctx pidx off bytes => Sys2Proof.Machine.execCellarld h ctx pidx off bytes s
  | .hwrite h off bytes => Sys2Proof.Machine.execHwrite h off bytes s
  | .hread h off len => Sys2Proof.Machine.execHread h off len s
  | .summary h => Sys2Proof.Machine.execSummary h s
  | .flr h => Sys2Proof.Machine.execFlr h s
  | .assign h presses ranges => Sys2Proof.Machine.execAssign h presses ranges s
  | .power h plim run => Sys2Proof.Machine.execPower h plim run s
  | .fwupdate h head size image digest sig => Sys2Proof.Machine.execFwupdate h head size image digest sig s
  | .spdm h msg => Sys2Proof.Machine.execSpdm h msg s
  | .getVersion q => Sys2Proof.Machine.execGetVersion q s
  | .getCapabilities q => Sys2Proof.Machine.execGetCapabilities q s
  | .negotiateAlgorithms q xmss sha dhe aead => Sys2Proof.Machine.execNegotiateAlgorithms q xmss sha dhe aead s
  | .getDigests q => Sys2Proof.Machine.execGetDigests q s
  | .getCertificate q off len => Sys2Proof.Machine.execGetCertificate q off len s
  | .challenge q nonce => Sys2Proof.Machine.execChallenge q nonce s
  | .getMeasurements q index sign nonce => Sys2Proof.Machine.execGetMeasurements q index sign nonce s
  | .keyExchange q share => Sys2Proof.Machine.execKeyExchange q share s
  | .finish q mac => Sys2Proof.Machine.execFinish q mac s
  | .heartbeat q => Sys2Proof.Machine.execHeartbeat q s
  | .keyUpdate q => Sys2Proof.Machine.execKeyUpdate q s
  | .endSession q => Sys2Proof.Machine.execEndSession q s
  | .vendorDefinedRequest q body => Sys2Proof.Machine.execVendorDefinedRequest q body s
  | .memoryKeyInstall q vf key => Sys2Proof.Machine.execMemoryKeyInstall q vf key s
  | .getTdispVersion q vf => Sys2Proof.Machine.execGetTdispVersion q vf s
  | .getTdispCapabilities q vf => Sys2Proof.Machine.execGetTdispCapabilities q vf s
  | .lockInterfaceRequest q vf => Sys2Proof.Machine.execLockInterfaceRequest q vf s
  | .getDeviceInterfaceReport q vf => Sys2Proof.Machine.execGetDeviceInterfaceReport q vf s
  | .getDeviceInterfaceState q vf => Sys2Proof.Machine.execGetDeviceInterfaceState q vf s
  | .startInterfaceRequest q vf nonce => Sys2Proof.Machine.execStartInterfaceRequest q vf nonce s
  | .stopInterfaceRequest q vf => Sys2Proof.Machine.execStopInterfaceRequest q vf s
  | .tdispUnsupportedMessage q vf code => Sys2Proof.Machine.execTdispUnsupportedMessage q vf code s
  | .contextSwitchOut ctx => Sys2Proof.Machine.execContextSwitchOut ctx s
  | .contextSwitchIn ctx => Sys2Proof.Machine.execContextSwitchIn ctx s
  | .sliceExpiry ctx => Sys2Proof.Machine.execSliceExpiry ctx s
  | .pageWalk core va => Sys2Proof.Machine.execPageWalk core va s
  | .linkPacketReceive port mode slot psn packet => Sys2Proof.Machine.execLinkPacketReceive port mode slot psn packet s
  | .flitReceive die fails key n => Sys2Proof.Machine.execFlitReceive die fails key n s
  | .linkKeyRotation port key salt => Sys2Proof.Machine.execLinkKeyRotation port key salt s
  | .linkSlotRetire port => Sys2Proof.Machine.execLinkSlotRetire port s
  | .psnLimit port => Sys2Proof.Machine.execPsnLimit port s
  | .cxlPortDown port => Sys2Proof.Machine.execCxlPortDown port s
  | .cxlPortRetrain port => Sys2Proof.Machine.execCxlPortRetrain port s
  | .patrolScrub key => Sys2Proof.Machine.execPatrolScrub key s
  | .pageQuarantine ctrl => Sys2Proof.Machine.execPageQuarantine ctrl s
  | .selfTestStart u => Sys2Proof.Machine.execSelfTestStart u s
  | .selfTestResult u pass => Sys2Proof.Machine.execSelfTestResult u pass s
  | .supervisorCause hart => Sys2Proof.Machine.execSupervisorCause hart s
  | .powerStateUpdate die mw tj ph pl => Sys2Proof.Machine.execPowerStateUpdate die mw tj ph pl s
  | .powerBudgetUpdate other => Sys2Proof.Machine.execPowerBudgetUpdate other s
  | .criticalThrottle die => Sys2Proof.Machine.execCriticalThrottle die s
  | .criticalStop die => Sys2Proof.Machine.execCriticalStop die s
  | .wearUpdate pcore m => Sys2Proof.Machine.execWearUpdate pcore m s
  | .clockChange press => Sys2Proof.Machine.execClockChange press s
  | .wearRecordWrite => Sys2Proof.Machine.execWearRecordWrite s
  | .repairPoint press => Sys2Proof.Machine.execRepairPoint press s
  | .coldReset => Sys2Proof.Machine.execColdReset s
  | .warmReset => Sys2Proof.Machine.execWarmReset s
  | .pressReset press => Sys2Proof.Machine.execPressReset press s
  | .debugUnlock => Sys2Proof.Machine.execDebugUnlock s
  | .dcmdHalt core mask => Sys2Proof.Machine.execDcmdHalt core mask s
  | .dcmdResume core mask => Sys2Proof.Machine.execDcmdResume core mask s
  | .dcmdStep core mask => Sys2Proof.Machine.execDcmdStep core mask s
  | .dcmdHaltRole core mask => Sys2Proof.Machine.execDcmdHaltRole core mask s
  | .dcmdStopPress core => Sys2Proof.Machine.execDcmdStopPress core s
  | .dcmdStopDie core => Sys2Proof.Machine.execDcmdStopDie core s
  | .stopHalt hart => Sys2Proof.Machine.execStopHalt hart s
  | .stepHalt hart => Sys2Proof.Machine.execStepHalt hart s
  | .illegalInstruction w => Sys2Proof.Machine.execIllegalInstruction w s
  | .fetchFault va cause => Sys2Proof.Machine.execFetchFault va cause s
  | .powerLoss indexWritten => Sys2Proof.Machine.execPowerLoss indexWritten s
  | .resetComplete => Sys2Proof.Machine.execResetComplete s
  | .sessionFault vf => Sys2Proof.Machine.execSessionFault vf s
  | .memoryKeyLoss vf => Sys2Proof.Machine.execMemoryKeyLoss vf s
  | .unknownOp h op => Sys2Proof.Machine.execUnknownOp h op s

end Sys2Proof.Machine
end

