-- ==== Sys2Proof/Machine/Schedule.lean ====
section
/-!
DEFINITION. Time and the device's own steps: the passing of clocks (R21, R207, R215, R222, R232, R249, R273, R285, R294, R300,
R369, R374, R375), which event of the device is due (log entry 2), the account of a step for a stop or a single step of the
debug unit, and how an instruction is placed where the machine fetches next.
-/
namespace Sys2Proof.Machine

/-! The passing of clocks. -/

/-- Waits during which a hart is parked for the floor (R273). -/
def Wait.parks : Wait → Bool
  | .bar _ _ | .waitm _ _ _ _ _ | .futGet _ _ _ | .swWait _ _ _ | .eqPop _ _ _ | .queuePush _ _ | .queuePop _ _ => true
  | _ => false

/-- Whether the commit window of a hart stands still: its pipeline is frozen, or a supervisor core has it for a cause other
than 15 (R294). -/
def State.windowStands (s : State) (h : Nat) : Bool :=
  s.suspended h || (match (s.hart h).sup with
    | some k => k.cause != 15
    | none => false)

/-- A hart after `n` device clocks, `m` of its press's clock (R4); `frozen` and `held` say what stands still. -/
def Hart.pass (h : Hart) (n m : Nat) (frozen held : Bool) : Hart :=
  let h1 := if h.wait = .none ∨ (frozen ∧ h.wait.carries) then h else { h with waited := h.waited + m }
  let h2 := if h.wait.parks && h.task.isSome && decide (h.parked < parkLimit) then
    { h1 with parked := min (h1.parked + m) parkLimit } else h1
  { h2 with
    window := h2.window.map fun w => if held then w else (w.1 + n, w.2),
    stopPend := h2.stopPend.map fun p => { p with clk := p.clk + m } }

/-- `n` device clocks pass; those of the compute dies run in Run alone (R347). A core that has issued can issue again once its
press's own clock has gone on (R4, R211, R343). -/
def State.pass (s : State) (n : Nat) : State :=
  let c := if s.hub.power = .run then n else 0
  { s with
    clk := s.clk + n, coreClk := s.coreClk + c,
    marks := if n = 0 then s.marks else [],
    issued := s.issued.filter fun e =>
      s.pressClk (pressOfHart e.hart) (s.coreClk + c) == s.pressClk (pressOfHart e.hart) s.coreClk,
    harts := fmapValues Hart.reset (fun h H =>
      let p := pressOfHart h
      H.pass c (s.pressClk p (s.coreClk + c) - s.pressClk p s.coreClk) (s.suspended h) (s.windowStands h)) s.harts,
    ctxs := fmapValues Ctx.reset (fun _ c => if c.st = .resident then { c with slice := c.slice + n } else c) s.ctxs,
    links := fmapValues Link.reset (fun _ l => if l.newSeen then { l with quiet := l.quiet + n } else l) s.links,
    hub := { s.hub with time := s.hub.time + ((s.clk + n) / 1800 - s.clk / 1800) } }

/-! The account of a step (R374, R377). -/

/-- A hart after a step: the skids of the stops on its way, and whether a single step is over. -/
def Hart.account (before after : Hart) : Hart :=
  let n := (after.csr.instret - before.csr.instret).toNat
  let h1 := { after with stopPend := after.stopPend.map fun p => if p.counted then { p with skid := p.skid + n } else p }
  if h1.stepping && (decide (n ≠ 0) || (!before.handler && h1.handler)) then { h1 with stepDone := true } else h1

/-- The account of every hart for which a debug unit keeps one. -/
def State.account (before after : State) : State :=
  if after.harts.any fun e => e.2.stopPend != [] || e.2.stepping then
    { after with harts := fmapValues Hart.reset (fun h H => (before.hart h).account H) after.harts }
  else after

/-! What the device does of itself. -/

/-- The event of a hart that is due, but for a single step's end. -/
noncomputable def State.hartDue (s : State) (h : Nat) : Option Instr :=
  let t := s.actAs h
  let H := s.hart h
  let woken := H.wake.isSome
  let overdue := H.waitedOut
  let late := fun (limit : Word64) => decide (limit.toNat ≤ H.waited)
  if (H.haltPend || H.stopArrived) && !H.wait.completes then some (.stopHalt h)
  else if H.sup.isSome then (if H.csr.halt && H.emulated then none else some (.supervisorCause h))
  else if H.parked = parkLimit then some (.parkFloorTimeout h)
  else if (match H.window with | some w => H.task.isSome && decide (t.myCtx.windowClk ≤ w.1) | none => false) then
    some (.commitWindowExpiry h)
  else if H.preempt && s.canPreempt h then some (.preemption h)
  else if H.csr.halt then none
  else
    match H.wait with
    | .none | .leave _ | .matrix | .csrPair _ _ _ _ => none
    | .lease _ => if woken then some (.leaseWaitGrant h) else none
    | .taskLease => if woken then some (.wpopWaitSelect h) else none
    | .queuePush _ _ | .queuePop _ _ =>
      if t.queueReady then some (.queueWaitAdmit h) else if overdue then some (.queueWaitTimeout h) else none
    | .swWait _ _ _ => if woken then some (.syncWaitWake h) else if overdue then some (.syncWaitTimeout h) else none
    | .eqPop eng _ _ =>
      if (H.out eng) ≠ [] then some (.eqPopRecord h) else if overdue then some (.eqPopTimeout h) else none
    | .enginePush eng _ _ => if ((s.core (coreOfHart h)).eng eng).fifo.length < 16 then some (.engineFifoAdmit h) else none
    | .bar level id => if t.barPassed level id then some (.barrierRelease h) else none
    | .waitm _ _ _ limit _ => if woken then some (.monitorWake h) else if late limit then some (.waitmTimeout h) else none
    | .futGet _ _ _ => if woken then some (.futureFillWake h) else if overdue then some (.futureWaitTimeout h) else none
    | .vwait keys own expect _ _ => if t.allChanged keys own expect then some (.vwaitWake h) else none
    | .wpop _ limit =>
      if (s.pick h).isSome then (if (s.earlier h).isNone then some (.wpopWaitSelect h) else none)
      else if late limit then some (.wpopWaitExpiry h) else none
    | .wterm _ limit =>
      if t.myCtx.terminated && H.task.isNone then some (.wtermConfirm h)
      else if late limit then some (.wtermWaitExpiry h) else none
    | .tile _ _ _ _ _ => some (.tileArrival h)

/-- The first that is due over a list. -/
def firstDue {α : Type} (f : α → Option Instr) : List α → Option Instr
  | [] => none
  | x :: t => match f x with
    | some i => some i
    | none => firstDue f t

/-- The event of a running or queued engine command that is due. -/
noncomputable def State.engineDue (s : State) (core eng : Nat) : Option Instr :=
  let e := (s.core core).eng eng
  let start := (e.fifo.find? fun c => s.mayStart core c).map fun c => Instr.engineCommandStart core eng c.seq.toNat
  start.or (firstDue (fun (r : Running) =>
    if s.engFrozen core then none
    else if r.recordWait then
      if ((s.hart r.cmd.hart).out eng).length < 16 then some (.completionRecordPlace core eng r.cmd.seq.toNat) else none
    else if r.cmd.kind = 2 ∧ r.result.isNone then some (.decodeChunkRelease core r.cmd.seq.toNat)
    else some (.commandComplete core eng r.cmd.seq.toNat)) e.running)

/-- The event of a core that is due. -/
noncomputable def State.coreDue (s : State) (core : Nat) : Option Instr :=
  let held := (s.press (pressOfCore core)).stallMatrix || (hartsOf core).any fun k => match (s.hart k).wait with
    | .tile _ _ _ _ _ => true
    | _ => false
  if (s.core core).mq ≠ [] ∧ held = false then some (.matrixCommandStart core)
  else (s.engineDue core 0).or (s.engineDue core 1)

/-- Whether a die asks for a batch (R277). -/
def State.canRack (s : State) (ctx die : Nat) : Bool :=
  s.wpopWaits ctx die && !s.hasEligible ctx die && s.roomFor ctx die != 0 &&
    !((s.ctx ctx).flight.any fun w => w.dst == die) &&
    (s.ctx ctx).dies.any fun d => d != die && !(s.movable ctx d fun _ => true).isEmpty

/-- Whether a wave would say something new (R295): one of this device until it has confirmed alone, then one across devices once
the others have reported. -/
def State.waveDue (s : State) (ctx : Nat) : Bool :=
  let c := s.ctx ctx
  !c.terminated && (c.dies.all fun d => s.dieIdle ctx d) && (!c.alone || (s.peers ctx).isEmpty || c.peer.isSome)

/-- The event of a context that is due. -/
noncomputable def State.ctxDue (s : State) (ctx : Nat) : Option Instr :=
  let c := s.ctx ctx
  if s.canSwitchOut ctx then some (.contextSwitchOut ctx)
  else if s.canSwitchIn ctx then some (.contextSwitchIn ctx)
  else if s.sliceOver ctx then some (.sliceExpiry ctx)
  else if c.st ≠ .resident then none
  else if s.launchDone ctx then some (.launchComplete ctx)
  else
    match c.flight with
    | w :: _ => some (.rackArrival ctx w.dst)
    | [] =>
      match c.bins.find? fun e => s.canRefill ctx (e.1 / 256) (e.1 % 256) with
      | some e => some (.spillRefill ctx (e.1 / 256) (e.1 % 256))
      | none =>
        match c.dies.find? fun d => s.canRack ctx d with
        | some d => some (.rackRequest ctx d)
        | none =>
          if s.wantsRecords ctx && c.asked == 0 then some (.deviceRack ctx none [])
          else if s.waveDue ctx then some (.terminationWave ctx) else none

/-- The first selected test that can begin (R329). -/
def State.testDue (s : State) : Option TestUnit :=
  s.selfTests.find? fun u => !(s.tests.any fun t => decide (t.1 = u) && t.2.2)

/-- The event of the device's own units that is due. -/
noncomputable def State.deviceDue (s : State) : Option Instr :=
  if s.hub.power = .reset then some .resetComplete
  else if s.wearDue then some .wearRecordWrite
  else (s.testDue.map Instr.selfTestStart).or <| (s.scrubDue.map Instr.patrolScrub).or <|
    (firstDue (fun (e : Nat × Press) => if e.2.stallClock then some (.clockChange e.1) else none) s.presses).or
      ((if s.wear = [] ∧ !(s.presses.any fun e => e.2.repair) then none
        else ((List.range 128).find? fun p => s.needsRepair p).map Instr.repairPoint).or
        ((if s.poison.length ≤ 512 then none
          else ((List.range 34).find? fun c => s.overflowing c).map Instr.pageQuarantine).or
          ((firstDue (fun (e : Nat × Die) =>
              if e.2.power = .critical ∧ 100 ≤ e.2.criticalMs ∧ e.2.stopped = false then some (.criticalStop e.1) else none)
              s.dies).or
            (firstDue (fun (e : Nat × Link) =>
              if e.2.retires then some (.linkSlotRetire e.1) else if 2 ^ 62 ≤ e.2.psn e.2.active then some (.psnLimit e.1) else none)
              s.links))))

/-- The event that comes about next of itself: none in Off (R347). -/
noncomputable def State.nextDue (s : State) : Option Instr :=
  if s.hub.power = .off then none
  else s.deviceDue.or ((firstDue (fun (e : Nat × Hart) => s.hartDue e.1) s.harts).or
    ((firstDue (fun (e : Nat × Core) => s.coreDue e.1) s.cores).or
      ((firstDue (fun (e : Nat × Ctx) => s.ctxDue e.1) s.ctxs).or
        (firstDue (fun (e : Nat × Hart) => if e.2.stepOver then some (.stepHalt e.1) else none) s.harts))))

/-! What comes from outside. -/

/-- Whether an entry of the agenda may name this row: an event of the device or of a host, never an instruction (those only
issue), a control-register write within one, or a trap of one. -/
def Instr.isEvent : Instr → Bool
  | .vlWrite _ _ | .vremWrite _ _ | .vpolWrite _ _ | .frmWrite _ _ | .fflagsWrite _ _ | .awinWrite _ _ | .lcWrite _ _ _
  | .lsLeWrite _ _ _ _ | .wboundWrite _ _ | .registerWrite (.csr _) _ _ | .illegalInstruction _ | .fetchFault _ _ => false
  | i => (encodeEnc i).isNone

/-- Whether an event can reach the device: in Off only power-up does, a cold reset (R347, R348). -/
def State.hears (s : State) (i : Instr) : Bool := s.hub.power != .off || decide (i = .coldReset)

/-- Whether it is the trap of a word that is no instruction to execute. -/
def Instr.isTrap : Instr → Bool
  | .illegalInstruction _ | .fetchFault _ _ => true
  | _ => false

/-- Storage of the device: the memory it has, a scratchpad of 1 MiB for each core and a cellar slice of 20 MiB for each press that
is enabled, 16 host windows of 64 KiB (R1, R5, R215 to R217, R370). -/
def State.isStorage (s : State) (key : Nat) : Bool :=
  (decide (key < 2 ^ 52) && s.memExists key) ||
    (decide (2 ^ 56 ≤ key) && decide (key < 2 ^ 56 + 512 * 2 ^ 20) && (s.press (pressOfCore ((key - 2 ^ 56) / 2 ^ 20))).enabled) ||
    (decide (2 ^ 57 ≤ key) && decide (key < 2 ^ 57 + 128 * 2 ^ 25) && decide ((key - 2 ^ 57) % 2 ^ 25 < 20971520) &&
      (s.press ((key - 2 ^ 57) / 2 ^ 25)).enabled) ||
    (decide (2 ^ 58 ≤ key) && decide (key < 2 ^ 58 + 16 * 2 ^ 16))

/-- Memory of other devices that a REMOTE page can name (R306). -/
def isRemote (key : Nat) : Bool := decide (2 ^ 59 ≤ key) && decide (key < 2 ^ 59 + 16 * 2 ^ 52)

/-- The arrays with keys of their own that an upset can strike: row-pool words of 4096 harts, B buffers and queues of 512
cores, bank words of the accumulator planes of 128 presses, each of an enabled press. -/
def State.isArray (s : State) (key : Nat) : Bool :=
  ((decide (2 ^ 60 ≤ key) && decide (key < 2 ^ 60 + 4096 * 2 ^ 21)) ||
    (decide (2 ^ 61 ≤ key) && decide (key < 2 ^ 61 + 512 * 2 ^ 13) && decide ((key - 2 ^ 61) % 2 ^ 12 < 3264)) ||
    (decide (2 ^ 62 ≤ key) && decide (key < 2 ^ 62 + 128 * 2 ^ 13) && decide ((key - 2 ^ 62) % 2 ^ 10 < 960)) ||
    (decide (2 ^ 63 ≤ key) && decide (key < 2 ^ 63 + 512 * 64))) && (s.press (arrayPlace key).1).enabled

/-- A physical upset at a storage key, or the fault of a key without storage. -/
def State.upsetAt (s : State) (key sort : Nat) : Host.Outcome State Fault Refusal :=
  if s.isStorage key || s.isArray key then .next (s.upset key sort) else .fault (.noStorage key)

/-- A byte another device writes in its own memory (R306), or the fault of a key that is not such memory. -/
def State.remoteByte (s : State) (key : Nat) (b : Byte) : Host.Outcome State Fault Refusal :=
  if isRemote key then .next (s.storeAt key [b]) else .fault (.noStorage key)

/-- A lane of hart `h` computes one copy of element `e` of its next protected instruction wrongly (R128). -/
def State.setLaneFault (s : State) (h e : Nat) : State := s.setHart h { s.hart h with laneFault := some e }

/-! The order within one clock (R392, R395; log entry 68). -/

/-- A barrier as a resource: its context, level and id, and the core, press or die it serves. -/
def State.barNo (s : State) (level id : Nat) : Nat :=
  let unit := if level = 0 then s.myCoreId else if level = 1 then s.myPressId else dieOfHart s.cur
  ((s.myCtxId * 512 + unit) * 4 + level) * 16 + id

/-- A synchronisation word at an address of the acting hart as a resource, with a rank. -/
def State.wordTurn (s : State) (kind : Nat) (va : Word64) (rank : Nat) : List (Nat × Nat) :=
  match s.resolveMe va.toNat .load with
  | .ok key => [(turnOf kind key, rank)]
  | .error _ => []

/-- The rank of a kind of event of a worklist unit in one clock (R275): 1 selections, 2 priority changes, 3 pushes, 4 racking
arrivals, 5 refills, then by `sub`. -/
def unitRank (kind sub : Nat) : Nat := kind * 2 ^ 96 + sub % 2 ^ 96

/-- Rows returned to a core's pools, which come before the requests of the clock (R129, R163). -/
def rowReturn (core : Nat) : Nat × Nat := (turnOf 7 core, 0)

/-- An entry of a hart into an engine's FIFO, by `HARTID` (R227). -/
def fifoTurn (h eng : Nat) : Nat × Nat := (turnOf 6 (coreOfHart h * 2 + eng), h % 8)

/-- What an instruction of the acting hart, or an event of a hart or the device, takes in this clock, each with its rank. -/
def State.claims (s : State) (i : Instr) : List (Nat × Nat) :=
  let mine := turnOf 5 (dieOfHart s.cur)
  let rows := rowReturn s.myCoreId
  match i with
  | .mattach _ _ _ => [(turnOf 1 s.myPressId, s.myCoreId % 4)]
  | .matrixCommandStart core =>
    match (s.core core).mq with
    | (_, .attach _ _ _) :: _ => [(turnOf 1 (pressOfCore core), core % 4)]
    | _ => []
  | .cpCopy _ _ | .cpGather _ _ => [fifoTurn s.cur 0]
  | .cpDec _ _ => [fifoTurn s.cur 1]
  | .eqPush _ _ => [fifoTurn s.cur 0, fifoTurn s.cur 1]
  | .engineFifoAdmit h =>
    match (s.hart h).wait with
    | .enginePush eng _ _ => [fifoTurn h eng]
    | _ => []
  | .bar a _ l | .barArrive a _ l => [(turnOf 2 (s.barNo l.toNat a.toNat), s.cur)]
  | .swInit b _ => s.wordTurn 3 (s.x b) 0
  | .futPut _ b _ => s.wordTurn 4 (s.x b) 0
  | .futGet _ b => s.wordTurn 4 (s.x b) 1
  | .wpop _ _ => [(mine, unitRank 1 (s.selectRank s.cur)), rows]
  | .wprio _ _ _ => s.myCtx.dies.map fun d => (turnOf 5 d, unitRank 2 0)
  | .wpush _ _ _ => [(mine, unitRank 3 (s.cur % 1024))]
  | .yield _ => [(mine, unitRank 3 (s.cur % 1024)), rows]
  | .tend | .lease _ _ _ => [rows]
  | .leaseWaitGrant h => [rowReturn (coreOfHart h)]
  | .wpopWaitSelect h => [(turnOf 5 (dieOfHart h), unitRank 1 (s.selectRank h)), rowReturn (coreOfHart h)]
  | .preemption h => [(turnOf 5 (dieOfHart h), unitRank 3 (h % 1024)), rowReturn (coreOfHart h)]
  | .rackArrival _ die => [(turnOf 5 die, unitRank 4 0)]
  | .deviceRack ctx _ (_ :: _) => (s.ctx ctx).dies.map fun d => (turnOf 5 d, unitRank 4 0)
  | .spillRefill _ die _ => [(turnOf 5 die, unitRank 5 0)]
  | i => if (encodeEnc i).isSome && vectorMajor s.me.ir then [(turnOf 7 s.myCoreId, 1 + s.cur % 8)] else []

/-- Whether it is an event's turn in this clock. -/
def State.turnNow (s : State) (i : Instr) : Bool := (s.claims i).all fun e => s.inTurn e

/-- The event has its turn. -/
def State.takeTurn (s : State) (i : Instr) : State := (s.claims i).foldl (fun t e => t.mark e.1 e.2) s

/-! What a hart goes on with of itself. -/

/-- What a hart that leaves its task takes in this clock: its rows go back, and the record of a task that pre-emption has stopped is
queued again (R275, R292). -/
def State.leaveClaims (s : State) (h : Nat) : List (Nat × Nat) :=
  match (s.hart h).wait with
  | .leave _ => rowReturn (coreOfHart h) ::
      (if (s.hart h).task.isSome then [(turnOf 5 (dieOfHart h), unitRank 3 (h % 1024))] else [])
  | _ => []

/-- A hart leaves its task or launch (R281), or writes the control register it has read, and retires (R89). A single step of the
instruction that ended the task is over then (R377). -/
def State.goOn (s : State) (h : Nat) : State :=
  let t := (s.leaveClaims h).foldl (fun u e => u.mark e.1 e.2) (s.actAs h)
  match t.me.wait with
  | .leave ends =>
    let u := t.leaveDone ends
    if t.me.stepping && t.me.task.isNone then u.setMe { u.me with stepDone := true } else u
  | .csrPair awin w op v => (t.landPair awin w op v).retire
  | _ => t

/-- The selection of a waiting hart that comes before what `i` selects, if it can still have its turn. -/
noncomputable def State.before (s : State) (i : Instr) : Option Instr :=
  let h := match i with
    | .wpop _ _ => some s.cur
    | .wpopWaitSelect k => some k
    | _ => none
  (h.bind fun k => s.earlier k).bind fun k => if s.turnNow (.wpopWaitSelect k) then some (.wpopWaitSelect k) else none

/-! Placing an instruction where the machine fetches next. -/

/-- The address of the code of the set-up below. -/
def probeCode : Word64 := 0x10000000

/-- The machine set up to run one hart: context 0 resident on press 0 of die 0, hart 0 of core 0 at `probeCode` under the
largest kernel header, the page of its code readable and executable. -/
def State.probe (s : State) : State :=
  let s1 := { s with hub := { s.hub with power := .run }, tlb := [{ ctx := 0, va := 0x10000000, size := 65536, leaf := 0x80000017 }] }
  let s2 := s1.setDie 0 { s1.die 0 with stopped := false, power := .normal }
  let s3 := s2.setPress 0 { Press.reset with vf := some 0, resident := some 0 }
  let s4 := s3.setCore 0 Core.reset
  let s5 := s4.setVf 0 { s4.vf 0 with ranges := [2] }
  let s6 := s5.setCtx 0 { Ctx.reset with
    st := .resident, cfg := { CtxCfg.zero with presses := [0] }, hartmask := 1, terminated := false }
  let s7 := s6.setHart 0 { Hart.reset.baseline 0 with life := .running, pc := probeCode }
  { s7 with cur := 0 }

/-- Whether the acting hart can fetch the longest instruction from storage at its PC, and no other selects a record before it. -/
def State.fetchesHere (s : State) : Bool :=
  s.ready s.cur && s.me.wait == .none && s.me.pc.toNat % 4 == 0 && !s.me.flit && (s.earlier s.cur).isNone &&
    (List.range 5).all fun i =>
      match s.resolveMe (s.me.pc + BitVec.ofNat 64 (4 * i)).toNat .fetch with
      | .ok _ => true
      | .error _ => false

/-- One byte of the instruction at the acting hart's PC. -/
def State.placeByte (s : State) (i : Nat) (b : Byte) : State :=
  match s.resolveMe (s.me.pc + BitVec.ofNat 64 i).toNat .fetch with
  | .ok key => { s.setByte key b with
      poison := fset false s.poison (poisonUnit key) false, flaws := fset 0 s.flaws (poisonUnit key) 0,
      inband := fset false s.inband (poisonUnit key) false }
  | .error _ => s

/-- The bytes of an instruction at the acting hart's PC. -/
def State.placeBytes (s : State) (i : Nat) : List Byte → State
  | [] => s
  | b :: t => (s.placeByte i b).placeBytes (i + 1) t

/-- The instruction placed for the acting hart, which issues next, first in its clock. -/
def State.place (s : State) (bs : List Byte) : State :=
  let t := s.placeBytes 0 bs
  { t with agenda := .hart t.cur :: t.agenda, marks := [], issued := [] }

end Sys2Proof.Machine
end

