-- ==== Sys2Proof/Machine/Step.lean ====
section
/-!
DEFINITION. One step of the device: the next entry of the agenda, else the event that is due of itself, else one instruction
of the hart whose turn it is, else one clock in which nothing issues (log entry 2). What this clock can no longer take waits
for the next one: the entry stays, and one clock passes.
-/
namespace Sys2Proof.Machine

/-- What a step comes to once its effect has been taken: the debug unit's account of it is added. -/
def finish (before : State) : Host.Outcome State Fault Refusal → Host.Outcome State Fault Refusal
  | .next t => .next (before.account t)
  | .fault f => .fault f
  | .refused r => .refused r

/-- An event comes about in its turn (R275, R316, R392). `done` is the state that goes on from here, `s` the one that still has the
event to come. -/
noncomputable def comesAbout (i : Instr) (done s : State) : Host.Outcome State Fault Refusal :=
  match s.before i with
  | some j => finish s (exec j (s.takeTurn j))
  | none => if s.turnNow i then finish done (exec i (done.takeTurn i)) else .next (s.pass 1)

/-- Hart `h` issues one instruction in its turn (R50 to R59, R66, R200, R211). -/
noncomputable def issueAtPc (h : Nat) (done s : State) : Host.Outcome State Fault Refusal :=
  match (done.turnTo h).prepare with
  | (t, some i) =>
    match t.before i with
    | some j => finish s (exec j (s.takeTurn j))
    | none => if t.mayIssue (some i) && t.turnNow i then finish done (exec i ((t.noteIssue (Instr.isTrap i)).takeTurn i)) else .next (s.pass 1)
  | (t, none) => if t.mayIssue none then finish done (.next (t.noteIssue true)) else .next (s.pass 1)

/-- Hart `h` goes on with what it has begun, else it issues. -/
noncomputable def issue (h : Nat) (done s : State) : Host.Outcome State Fault Refusal :=
  if (done.hart h).wait.goesOn then
    (if (done.leaveClaims h).all done.inTurn then finish done (.next (done.goOn h)) else .next (s.pass 1))
  else issueAtPc h done s

/-- Hart `h` issues a `csrs` or `csrc` of AWIN or WBOUND, which has read its register and is to write it later (R89); nothing happens
where it is at no such instruction. -/
noncomputable def issueRead (h : Nat) (done s : State) : Host.Outcome State Fault Refusal :=
  if (done.hart h).wait.goesOn then .next done
  else
    match (done.turnTo h).prepare with
    | (t, some i) =>
      match t.pairRead i with
      | some w => if t.mayIssue (some i) then
          .next ((t.noteIssue false).setMe { (t.noteIssue false).me with wait := w }) else .next (s.pass 1)
      | none => .next done
    | (_, none) => .next done

/-- One step. -/
noncomputable def step (s : State) : Host.Outcome State Fault Refusal :=
  match s.agenda with
  | a :: rest =>
    let t : State := { s with agenda := rest }
    match a with
    | .hart h => if t.ready h then issue h t s else .next t
    | .csrRead h => if t.ready h then issueRead h t s else .next t
    | .event i => if Instr.isEvent i && t.hears i then comesAbout i t s else .next t
    | .tick n => .next (t.pass n)
    | .upset key sort => t.upsetAt key sort
    | .laneFault h e => .next (t.setLaneFault h e)
    | .readFlit h fails => .next (t.readFlit h fails)
    | .remoteWrite key b => t.remoteByte key b
    | .remoteRanges vf l => .next (t.setVf vf { t.vf vf with remote := l })
    | .attachCxl port gib => .next (t.attachCxl port gib)
    | .engineWord core eng seq word => .next (t.engineWord core eng (BitVec.ofNat 32 seq) word)
    | .peerWave ctx idle sent received => .next (t.peerReport ctx idle sent received)
    | .dataBegin h op ctx va bytes => t.dataBegin h op ctx va bytes
    | .dataPiece i piece => .next (t.dataPiece i piece)
    | .summaryBegin h => t.summaryBegin h
    | .summarySection i k => .next (t.summarySection i k)
    | .summaryEnd i => .next (t.summaryEnd i)
    | .flrBegin vf => .next (t.flrBegin vf)
    | .wearTorn => .next (if t.hub.power = .off then t else t.tearWear.coldState .off)
    | .linkUp n up => .next (t.setLinkUp n up)
  | [] =>
    match s.nextDue with
    | some i => comesAbout i s s
    | none =>
      match s.hostDue, s.nextHart with
      | some t, _ => .next t
      | none, some h => issue h (s.pass 1) s
      | none, none => .next (s.pass 1)

/-- `s` with the instruction whose bits are `w` where the next step fetches: at the acting hart's PC if it can issue from
there, else in a machine set up to run one hart (log entry 46); the agenda lets that hart issue next. -/
def State.withFetchWord (s : State) (nbits w : Nat) : State :=
  let bs := bytesOfWords (tableWords nbits w)
  if s.fetchesHere then s.place bs else s.probe.place bs

end Sys2Proof.Machine
end

