-- ==== Sys2Proof/Safety.lean ====
section
/-!
DEFINITION. What a safe run is. The one invariant a reader of states may count on is that memory is in its canonical form; a
run is safe if no step stops, which happens only where the agenda names storage that does not exist.
-/
namespace Sys2Proof.Machine

/-- Memory is in canonical form: addresses strictly rising, no entry equal to what an unlisted byte reads as. -/
def Memory.wf (s : State) : Bool := fwf 0 s.mem

/-- One step from a state gives a next state: it neither faults nor is refused. -/
def Goes (s : State) : Prop := ∃ t, step s = .next t

/-- A state reached from `s` by `n` steps, each of which gives a next state. -/
inductive Reaches (s : State) : Nat → State → Prop where
  | here : Reaches s 0 s
  | next {n : Nat} {t u : State} : Reaches s n t → step t = .next u → Reaches s (n + 1) u

/-- Every run from `s` of any length can go on. -/
def SafeFrom (s : State) : Prop := ∀ n t, Reaches s n t → Goes t

end Sys2Proof.Machine
end

