-- ==== Sys2Proof/Certificates/Slice0/Obligations.lean ====
section
/-!
DEFINITION. What is claimed of the model, one `Prop` per claim. The helpers in `Sys2Proof.Claims` write the spec's results
out from its rules, not from the model's meanings: integers as exact `Int` or `Nat` arithmetic narrowed at the end, control
registers by bit positions.
-/
namespace Sys2Proof.Claims

open Sys2Proof Sys2Proof.Machine

/-! What an instruction leaves as it was. -/

/-- Nothing but the acting hart has changed: every other field of the state, every other hart, every byte of memory. -/
def OnlyMe (s t : State) : Prop :=
  { t with harts := s.harts } = s ∧ (∀ h, h ≠ s.cur → t.hart h = s.hart h) ∧ ∀ a, t.byte a = s.byte a

/-- The acting hart but for its x registers after it has retired in sequence with flags `fl`: PC and loop levels as the end
test leaves them, which without an active level is the next address and no change; one more instruction retired; nothing
else of it changed. -/
def Next (s t : State) (fl : FpFlags) : Prop :=
  let h := s.me
  let k := t.me
  k.pc = h.retire.pc ∧ k.loops = h.retire.loops ∧
    (h.handler = true ∨ (∀ n, n < 4 → (h.level n).active = false) → k.pc = h.npc ∧ k.loops = h.loops) ∧
    k.csr = { h.csr with instret := h.csr.instret + 1, fflags := h.csr.fflags ||| fl } ∧ k.wait = .none ∧
    { k with x := h.x, pc := h.pc, loops := h.loops, csr := h.csr, wait := h.wait, waited := h.waited, parked := h.parked,
             wake := h.wake } = h

/-- The frame of an instruction whose one destination is `rd`: it has value `v` there (x0 stays zero), every other x
register, the rest of the hart and everything else stay as they were. -/
def WritesX (s t : State) (rd : XReg) (v : Word64) (fl : FpFlags) : Prop :=
  t.x rd = (if rd = 0 then 0 else v) ∧ (∀ r, r ≠ rd → t.x r = s.x r) ∧ Next s t fl ∧ OnlyMe s t

/-- The frame of an instruction without an x destination. -/
def WritesNothing (s t : State) : Prop := (∀ r, t.x r = s.x r) ∧ Next s t 0 ∧ OnlyMe s t

/-- The acting hart after a taken branch or jump to `a`. -/
def Jumped (s t : State) (a : Word64) : Prop :=
  let h := s.me
  let k := t.me
  k.pc = a ∧ k.csr = { h.csr with instret := h.csr.instret + 1 } ∧ k.wait = .none ∧
    { k with x := h.x, pc := h.pc, csr := h.csr, wait := h.wait, waited := h.waited, parked := h.parked,
             wake := h.wake } = h ∧ OnlyMe s t

/-- The registers of a hart a trap leaves alone: x, vector and predicate registers, loop levels, and every control register
but those a trap writes. -/
def TrapKeeps (h k : Hart) : Prop :=
  k.x = h.x ∧ k.v = h.v ∧ k.p = h.p ∧ k.loops = h.loops ∧
    { k.csr with epc := h.csr.epc, ecause := h.csr.ecause, eval := h.csr.eval, vri := h.csr.vri } = h.csr

/-- The acting hart has entered its context's handler (R94). -/
def Handles (s t : State) (cause : Nat) (eval : Word64) (vri : BitVec 9) : Prop :=
  let h := s.me
  let k := t.me
  k.csr.epc = h.pc.setWidth 48 &&& ~~~3#48 ∧ k.csr.ecause = BitVec.ofNat 6 cause ∧ k.csr.eval = eval ∧
    k.csr.vri = vri ∧ k.handler = true ∧ k.pc = h.csr.etvec.signExtend 64 ∧ k.sup = h.sup ∧ TrapKeeps h k ∧ OnlyMe s t

/-- The acting hart has stopped with a supervisor core, its PC and registers as they were (R94). -/
def Supervised (s t : State) (cause : Nat) (eval : Word64) (vri : BitVec 9) : Prop :=
  let h := s.me
  let k := t.me
  k.pc = h.pc ∧ k.handler = h.handler ∧ k.csr = { h.csr with vri := vri } ∧
    (∃ u, k.sup = some u ∧ u.cause = BitVec.ofNat 6 cause ∧ u.eval = eval ∧ u.epc = h.pc.setWidth 48) ∧
    TrapKeeps h k ∧ OnlyMe s t

/-- A trap is taken (R94 to R96). -/
def Trapped (s t : State) (cause : Nat) (eval : Word64) (vri : BitVec 9) : Prop :=
  if s.me.handler then Supervised s t 19 (BitVec.ofNat 64 cause) vri
  else if cause = 10 ∨ cause = 14 ∨ cause = 15 ∨ cause = 19 ∨ s.me.csr.etvec = 0 then Supervised s t cause eval vri
  else Handles s t cause eval vri

/-! Results of the scalar integer instructions (R71 to R73). -/

/-- S(x) and Z(x) of R70. -/
def S (x : Word64) : Int := x.toInt
def Z (x : Word64) : Nat := x.toNat
def ofS (n : Int) : Word64 := BitVec.ofInt 64 n
def ofZ (n : Nat) : Word64 := BitVec.ofNat 64 n

/-- Bits of a word, bit 63 first. -/
def bitsDown (x : Word64) : List Bool := (List.range 64).map fun i => x.getLsbD (63 - i)

/-- Sign extension of an immediate. -/
def immS {n : Nat} (i : BitVec n) : Word64 := ofS i.toInt

def divS (b c : Word64) : Int := if c = 0 then -1 else (S b).tdiv (S c)
def divZ (b c : Word64) : Nat := if c = 0 then 2 ^ 64 - 1 else Z b / Z c

/-- Destination and value of a scalar integer instruction. -/
def intResult (i : Instr) (s : State) : Option (XReg × Word64) :=
  match i with
  | .add d b c => some (d, ofS (S (s.x b) + S (s.x c)))
  | .sub d b c => some (d, ofS (S (s.x b) - S (s.x c)))
  | .mul d b c => some (d, ofS (S (s.x b) * S (s.x c)))
  | .mulh d b c => some (d, ofS (S (s.x b) * S (s.x c) / 2 ^ 64))
  | .mulhz d b c => some (d, ofZ (Z (s.x b) * Z (s.x c) / 2 ^ 64))
  | .div d b c => some (d, ofS (divS (s.x b) (s.x c)))
  | .divz d b c => some (d, ofZ (divZ (s.x b) (s.x c)))
  | .rem d b c => some (d, if s.x c = 0 then s.x b else ofS (S (s.x b) - S (s.x c) * divS (s.x b) (s.x c)))
  | .remz d b c => some (d, if s.x c = 0 then s.x b else ofS ((Z (s.x b) : Int) - Z (s.x c) * divZ (s.x b) (s.x c)))
  | .and d b c => some (d, s.x b &&& s.x c)
  | .or d b c => some (d, s.x b ||| s.x c)
  | .xor d b c => some (d, s.x b ^^^ s.x c)
  | .sll d b c => some (d, ofZ (Z (s.x b) * 2 ^ (Z (s.x c) % 64)))
  | .srl d b c => some (d, ofZ (Z (s.x b) / 2 ^ (Z (s.x c) % 64)))
  | .sra d b c => some (d, ofS (S (s.x b) / 2 ^ (Z (s.x c) % 64)))
  | .slt d b c => some (d, if S (s.x b) < S (s.x c) then 1 else 0)
  | .sltz d b c => some (d, if Z (s.x b) < Z (s.x c) then 1 else 0)
  | .min d b c => some (d, ofS (min (S (s.x b)) (S (s.x c))))
  | .max d b c => some (d, ofS (max (S (s.x b)) (S (s.x c))))
  | .minz d b c => some (d, ofZ (min (Z (s.x b)) (Z (s.x c))))
  | .maxz d b c => some (d, ofZ (max (Z (s.x b)) (Z (s.x c))))
  | .clz d b => some (d, ofZ ((bitsDown (s.x b)).takeWhile (fun v => !v)).length)
  | .ctz d b => some (d, ofZ ((bitsDown (s.x b)).reverse.takeWhile (fun v => !v)).length)
  | .popc d b => some (d, ofZ ((bitsDown (s.x b)).filter id).length)
  | .addi d b i => some (d, ofS (S (s.x b) + i.toInt))
  | .addiLit d b l => some (d, ofS (S (s.x b) + S l))
  | .andi d b i => some (d, s.x b &&& immS i)
  | .andiLit d b l => some (d, s.x b &&& l)
  | .ori d b i => some (d, s.x b ||| immS i)
  | .oriLit d b l => some (d, s.x b ||| l)
  | .xori d b i => some (d, s.x b ^^^ immS i)
  | .xoriLit d b l => some (d, s.x b ^^^ l)
  | .slli d b n => some (d, ofZ (Z (s.x b) * 2 ^ n.toNat))
  | .srli d b n => some (d, ofZ (Z (s.x b) / 2 ^ n.toNat))
  | .srai d b n => some (d, ofS (S (s.x b) / 2 ^ n.toNat))
  | .lea d b c k => some (d, ofZ (Z (s.x b) + Z (s.x c) * 2 ^ k.toNat))
  | .li d i => some (d, immS i)
  | .liLit d l => some (d, l)
  | .pcrel d i => some (d, ofS (S s.me.pc + i.toInt * 4))
  | .pcrelLit d l => some (d, ofS (S s.me.pc + S l))
  | _ => none

/-! Results of the scalar floating-point instructions (R74 to R77). -/

/-- An operand of a float type in the low bits of an x register. -/
def fpArg (s : State) (t : ElemTy) (r : XReg) : Machine.Num := numOf t (Z (s.x r) % 2 ^ t.width)

/-- Bits of a float type, zero-extended to 64 bits. -/
def fpBits (t : ElemTy) (b : Nat) : Word64 := ofZ (b % 2 ^ t.width)

/-- Bits of an `sfcvt` result: integer destinations extend by their signedness (R77). -/
def cvtBits (t : ElemTy) (b : Nat) : Word64 :=
  match t with
  | .s8 | .s16 | .s32 | .s64 => ofS ((BitVec.ofNat t.width b).toInt)
  | _ => fpBits t b

def fpTwo (s : State) (d b c : XReg) (t : ElemTy) (rm : Rm) (f : Rm → Bool → ElemTy → Machine.Num → Machine.Num → FpRes) :
    Option (XReg × Word64 × FpFlags) :=
  let r := f (modeOf rm s.me.csr.rm) false t (fpArg s t b) (fpArg s t c)
  some (d, fpBits t r.1, r.2)

def fpCompare (s : State) (d b c : XReg) (t : ElemTy) (x : Cond) : Option (XReg × Word64 × FpFlags) :=
  let r := fpCmp x (fpArg s t b) (fpArg s t c)
  some (d, if r.1 then 1 else 0, r.2)

def fpPick (s : State) (d b c : XReg) (t : ElemTy) (isMax : Bool) : Option (XReg × Word64 × FpFlags) :=
  let r := fpMinMax isMax false t (Z (s.x b) % 2 ^ t.width) (Z (s.x c) % 2 ^ t.width)
  some (d, fpBits t r.1, r.2)

def fpCvt (s : State) (d b : XReg) (to_ from_ : ElemTy) (rm : Rm) : Option (XReg × Word64 × FpFlags) :=
  let r := convert (modeOf rm s.me.csr.rm) false to_ from_ (Z (s.x b) % 2 ^ from_.width)
  some (d, cvtBits to_ r.1, r.2)

def fpSqrtOf (s : State) (d b : XReg) (t : ElemTy) (rm : Rm) : Option (XReg × Word64 × FpFlags) :=
  let r := fpSqrt (modeOf rm s.me.csr.rm) false t (fpArg s t b)
  some (d, fpBits t r.1, r.2)

/-- Destination, value and flags of a scalar floating-point instruction. -/
def fpResult (i : Instr) (s : State) : Option (XReg × Word64 × FpFlags) :=
  match i with
  | .sfadd d b c t => fpTwo s d b c t .dyn fpAdd
  | .sfaddExt d b c t rm => fpTwo s d b c t rm fpAdd
  | .sfsub d b c t => fpTwo s d b c t .dyn fpSub
  | .sfsubExt d b c t rm => fpTwo s d b c t rm fpSub
  | .sfmul d b c t => fpTwo s d b c t .dyn fpMul
  | .sfmulExt d b c t rm => fpTwo s d b c t rm fpMul
  | .sfdiv d b c t => fpTwo s d b c t .dyn fpDiv
  | .sfdivExt d b c t rm => fpTwo s d b c t rm fpDiv
  | .sfsqrt d b t => fpSqrtOf s d b t .dyn
  | .sfsqrtExt d b t rm => fpSqrtOf s d b t rm
  | .sfmin d b c t | .sfminExt d b c t _ => fpPick s d b c t false
  | .sfmax d b c t | .sfmaxExt d b c t _ => fpPick s d b c t true
  | .sfcmpEq d b c t | .sfcmpEqExt d b c t _ => fpCompare s d b c t .eq
  | .sfcmpLt d b c t | .sfcmpLtExt d b c t _ => fpCompare s d b c t .lt
  | .sfcmpLe d b c t | .sfcmpLeExt d b c t _ => fpCompare s d b c t .le
  | .sfcmpUn d b c t | .sfcmpUnExt d b c t _ => fpCompare s d b c t .un
  | .sfcvt d b src t => fpCvt s d b t src .dyn
  | .sfcvtExt d b t src rm => fpCvt s d b t src rm
  | .sffma d b c e t rm =>
    let r := fpFma (modeOf rm s.me.csr.rm) false t (fpArg s t b) (fpArg s t c) (fpArg s t e)
    some (d, fpBits t r.1, r.2)
  | _ => none

/-! Branches and jumps (R81, R82). -/

/-- Whether a conditional branch is taken, and its offset in bytes. -/
def branchOf (i : Instr) (s : State) : Option (Prop × Word64) :=
  match i with
  | .beq b c o => some (s.x b = s.x c, ofS (o.toInt * 4))
  | .bne b c o => some (s.x b ≠ s.x c, ofS (o.toInt * 4))
  | .blt b c o => some (S (s.x b) < S (s.x c), ofS (o.toInt * 4))
  | .bge b c o => some (S (s.x c) ≤ S (s.x b), ofS (o.toInt * 4))
  | .blo b c o => some (Z (s.x b) < Z (s.x c), ofS (o.toInt * 4))
  | .bhs b c o => some (Z (s.x c) ≤ Z (s.x b), ofS (o.toInt * 4))
  | .beqLit b c l => some (s.x b = s.x c, l)
  | .bneLit b c l => some (s.x b ≠ s.x c, l)
  | .bltLit b c l => some (S (s.x b) < S (s.x c), l)
  | .bgeLit b c l => some (S (s.x c) ≤ S (s.x b), l)
  | .bloLit b c l => some (Z (s.x b) < Z (s.x c), l)
  | .bhsLit b c l => some (Z (s.x c) ≤ Z (s.x b), l)
  | _ => none

/-- Return register and target of a jump. -/
def jumpOf (i : Instr) (s : State) : Option (XReg × Word64) :=
  match i with
  | .jal d o => some (d, s.me.pc + ofS (o.toInt * 4))
  | .jalLit d l => some (d, s.me.pc + l)
  | .jalr d b o => some (d, s.x b + immS o)
  | _ => none

/-! Hardware loops (R84 to R88). -/

/-- A loop set-up: level, count, end address. -/
def loopOf (i : Instr) (s : State) : Option (Nat × Nat × Word64) :=
  match i with
  | .loop l b o => some (l.toNat, Z (s.x b) % 2 ^ 32, s.me.pc + ofS (o.toInt * 4))
  | .loopLit l o c => some (l.toNat, c.toNat, s.me.pc + ofS (o.toInt * 4))
  | _ => none

/-- The innermost active level of a hart. -/
def Innermost (h : Hart) (n : Nat) : Prop :=
  n < 4 ∧ (h.level n).active = true ∧ ∀ m, n < m → m < 4 → (h.level m).active = false

/-- Whether the end test passes level `n`: the instruction lies in its body and its next address is at or beyond its end. -/
def EndsBody (h : Hart) (n : Nat) : Prop :=
  (h.level n).start ≤ h.pc.setWidth 48 ∧ h.pc.setWidth 48 < (h.level n).stop ∧ (h.level n).stop ≤ h.npc.setWidth 48

/-! Control registers (R19 to R22, R89). -/

def bitN (b : Bool) (n : Nat) : Nat := if b then 2 ^ n else 0

/-- What a mapped control register reads as, by bit positions. -/
def csrValue (s : State) (n : Nat) : Option Nat :=
  let h := s.me
  let c := h.csr
  let k := s.myCore
  match n with
  | 0x000 => some c.vl.toNat
  | 0x001 => some c.vrem.toNat
  | 0x002 => some (h.grant % 32 + c.leaseMin.toNat * 2 ^ 16 + c.leasePref.toNat * 2 ^ 24)
  | 0x003 => some (bitN c.vpolTd 0 + bitN c.vpolPm 1)
  | 0x004 => some c.vri.toNat
  | 0x008 => some (c.rm.toNat + bitN c.ftz 3)
  | 0x009 => some c.fflags.toNat
  | 0x010 => some (16 * k.blocks.length)
  | 0x011 => some (k.shift.toNat + bitN k.inx0 16 + bitN k.ovf0 17 + bitN k.inx1 18 + bitN k.ovf1 19)
  | 0x020 => some (h.level 0).count.toNat
  | 0x021 => some (h.level 1).count.toNat
  | 0x022 => some (h.level 2).count.toNat
  | 0x023 => some (h.level 3).count.toNat
  | 0x024 => some (h.level 0).start.toNat
  | 0x025 => some (h.level 1).start.toNat
  | 0x026 => some (h.level 2).start.toNat
  | 0x027 => some (h.level 3).start.toNat
  | 0x028 => some (h.level 0).stop.toNat
  | 0x029 => some (h.level 1).stop.toNat
  | 0x02A => some (h.level 2).stop.toNat
  | 0x02B => some (h.level 3).stop.toNat
  | 0x040 => some c.epc.toNat
  | 0x041 => some c.ecause.toNat
  | 0x042 => some c.eval.toNat
  | 0x043 => some c.etvec.toNat
  | 0x050 => some c.role.toNat
  | 0x051 => some s.myCtx.wbound.toNat
  | 0x052 => some c.wclass.toNat
  | 0x7B0 => some c.dskid.toNat
  | 0x7B1 => some (bitN c.halt 0 + c.stop.toNat * 2 + c.wphit.toNat * 2 ^ 8)
  | 0xC00 => some (s.cycle s.myCoreId)
  | 0xC01 => some c.instret.toNat
  | 0xF00 => some (s.cur % 8)
  | 0xF01 => some (s.cur / 8 % 128)
  | 0xF02 => some (s.cur / 8 % 128 / 4)
  | 0xF03 => some (s.cur / 1024)
  | _ => none

/-- A write, set or clear of a field (R89). -/
def comb {w : Nat} (op : CsrOp) (old v : BitVec w) : BitVec w :=
  match op with
  | .write => v
  | .set => old ||| v
  | .clear => old &&& ~~~v

/-- A write, set or clear of a W1C field: 1 bits of what is written clear it, `csrc` leaves it (R89). -/
def w1c {w : Nat} (op : CsrOp) (old v : BitVec w) : BitVec w :=
  match op with
  | .write | .set => old &&& ~~~v
  | .clear => old

/-- Bits [1:0] cleared. -/
def aligned4 (a : BitVec 48) : BitVec 48 := a &&& ~~~3#48

/-- Control registers without behaviour of their own when written: the acting hart's registers after it. -/
def plainWrite (n : Nat) (op : CsrOp) (v : Word64) (c : HartCsr) : Option HartCsr :=
  match n with
  | 0x004 => some { c with vri := comb op c.vri (v.setWidth 9) }
  | 0x009 => some { c with fflags := comb op c.fflags (v.setWidth 6) }
  | 0x040 => some { c with epc := aligned4 (comb op c.epc (v.setWidth 48)) }
  | 0x041 => some { c with ecause := comb op c.ecause (v.setWidth 6) }
  | 0x042 => some { c with eval := comb op c.eval v }
  | 0x043 => some { c with etvec := aligned4 (comb op c.etvec (v.setWidth 48)) }
  | 0x050 => some { c with role := comb op c.role (v.setWidth 2) }
  | 0x7B1 => some { c with wphit := w1c op c.wphit (v.extractLsb 15 8) }
  | 0x002 | 0x010 | 0x052 | 0x7B0 | 0xC00 | 0xC01 | 0xF00 | 0xF01 | 0xF02 | 0xF03 => some c
  | _ => none

/-- The instruction that writes a control register from xb, its number and how. -/
def csrWriteOf (i : Instr) : Option (XReg × BitVec 12 × CsrOp) :=
  match i with
  | .csrw b n => some (b, n, .write)
  | .csrs b n => some (b, n, .set)
  | .csrc b n => some (b, n, .clear)
  | _ => none

/-- The write events with a register's number. -/
def writeEvent (i : Instr) : Option (Nat × CsrOp × Word64) :=
  match i with
  | .vlWrite op v => some (0x000, op, v)
  | .vremWrite op v => some (0x001, op, v)
  | .vpolWrite op v => some (0x003, op, v)
  | .frmWrite op v => some (0x008, op, v)
  | .fflagsWrite op v => some (0x009, op, v)
  | .awinWrite op v => some (0x011, op, v)
  | .lcWrite n op v => some (0x020 + n.toNat, op, v)
  | .lsLeWrite false n op v => some (0x024 + n.toNat, op, v)
  | .lsLeWrite true n op v => some (0x028 + n.toNat, op, v)
  | .wboundWrite op v => some (0x051, op, v)
  | _ => none

/-- The acting hart's registers have become `c`, and nothing else has changed. -/
def CsrIs (s t : State) (c : HartCsr) : Prop := t.me = { s.me with csr := c } ∧ OnlyMe s t

/-- The elements of a full strip (R21, R201). -/
def fullStrip (h : Hart) : Nat := (if h.pmInForce then 8 else 16) * h.grant

/-! Loads, stores and atomics (R78 to R80, R241 to R246). -/

/-- The little-endian number in `n` bytes of storage. -/
def leValue (s : State) (key n : Nat) : Nat := ((List.range n).map fun i => (s.byte (key + i)).toNat * 256 ^ i).sum

/-- The `n` little-endian bytes of a number. -/
def leOf (n v : Nat) : List Byte := (List.range n).map fun i => BitVec.ofNat 8 (v / 256 ^ i)

/-- Debug is locked, no storage unit has a flaw nobody has found and no poisoned flit is under way: an access has no effect
beside its own. -/
def Quiet (s : State) : Prop := s.hub.debugUnlocked = false ∧ s.flaws = [] ∧ s.me.flit = false

/-- `n` bytes at a storage key in the acting hart's own scratchpad run past what `.spad` declares (R79, R217). -/
def BeyondSpad (s : State) (key n : Nat) : Prop :=
  let own := 2 ^ 56 + s.myCoreId * 2 ^ 20
  own ≤ key ∧ key < own + 2 ^ 20 ∧ key < 2 ^ 57 ∧ own + s.me.header.spad < key + n

/-- A type's value of some bits in all 64 bits of a register (R74, R77, R78). -/
def inX (t : ElemTy) (n : Nat) : Word64 := cvtBits t n

/-- Bytes of a type. -/
def bytesOf (t : ElemTy) : Nat := t.width / 8

/-- The unsigned type of a size field. -/
def zOf (z : BitVec 2) : ElemTy :=
  match z.toNat with
  | 0 => .z8
  | 1 => .z16
  | 2 => .z32
  | _ => .z64

/-- Destination, address and type of a load. -/
def loadOf (i : Instr) (s : State) : Option (XReg × Word64 × ElemTy) :=
  match i with
  | .ld d b t o => some (d, s.x b + ofS (o.toInt * bytesOf t), t)
  | .ldLit d b t l => some (d, s.x b + l, t)
  | .ldIndexed d b c t k => some (d, s.x b + ofZ (Z (s.x c) * 2 ^ k.toNat), t)
  | .ldAcq d b _ z => some (d, s.x b, zOf z)
  | _ => none

/-- Source, address and bytes of a store. -/
def storeOf (i : Instr) (s : State) : Option (XReg × Word64 × Nat) :=
  match i with
  | .st a b z o => some (a, s.x b + ofS (o.toInt * 2 ^ z.toNat), 2 ^ z.toNat)
  | .stLit a b z l => some (a, s.x b + l, 2 ^ z.toNat)
  | .stIndexed a b c k z => some (a, s.x b + ofZ (Z (s.x c) * 2 ^ k.toNat), 2 ^ z.toNat)
  | .stRel a b _ z => some (a, s.x b, 2 ^ z.toNat)
  | _ => none

/-- `t` is `u` with bytes `bs` stored from `key` up: every other byte is as before, every other part of the state too but for
what a store does to storage marks and to the harts that wait on the bytes (R249); the acting hart's own registers are not
spoken of here. -/
def Stored (u t : State) (key : Nat) (bs : List Byte) : Prop :=
  (∀ a, t.byte a = if key ≤ a ∧ a < key + bs.length then bs.getD (a - key) 0 else u.byte a) ∧
    { t with harts := u.harts, mem := u.mem, stale := u.stale, poison := u.poison, inband := u.inband,
             flaws := u.flaws } = u ∧
    ∀ h, h ≠ u.cur → { t.hart h with wake := (u.hart h).wake } = u.hart h

/-- 4 or 8 bytes by an atomic's size bit. -/
def atomBytes (z : BitVec 1) : Nat := if z = 1 then 8 else 4

/-- A number of `n` bytes read as signed. -/
def sOf (n v : Nat) : Int := (BitVec.ofNat (8 * n) v).toInt

/-- New value at the home of an atomic or reduction on old value `v` and operand `b` of `n` bytes (R244). -/
def atomNew (op : AmoOp) (unsigned : Bool) (n v b : Nat) : Nat :=
  match op with
  | .add => (v + b) % 256 ^ n
  | .min => if (if unsigned then v < b else sOf n v < sOf n b) then v else b
  | .max => if (if unsigned then b < v else sOf n b < sOf n v) then v else b
  | .and => v &&& b
  | .or => v ||| b
  | .xor => v ^^^ b
  | .swap => b

/-- Operation, signedness, destination, address register, operand register and size of a fetching atomic. -/
def amoOf (i : Instr) : Option (AmoOp × Bool × XReg × XReg × XReg × BitVec 1) :=
  match i with
  | .amoAdd d b c _ z => some (.add, false, d, b, c, z)
  | .amoMin d b c _ u z => some (.min, u == 1, d, b, c, z)
  | .amoMax d b c _ u z => some (.max, u == 1, d, b, c, z)
  | .amoAnd d b c _ z => some (.and, false, d, b, c, z)
  | .amoOr d b c _ z => some (.or, false, d, b, c, z)
  | .amoXor d b c _ z => some (.xor, false, d, b, c, z)
  | .amoSwap d b c _ z => some (.swap, false, d, b, c, z)
  | _ => none

/-- Operation, signedness, address register, operand register and size of a reduction. -/
def redOf (i : Instr) : Option (AmoOp × Bool × XReg × XReg × BitVec 1) :=
  match i with
  | .redAdd b c _ z => some (.add, false, b, c, z)
  | .redMin b c _ u z => some (.min, u == 1, b, c, z)
  | .redMax b c _ u z => some (.max, u == 1, b, c, z)
  | .redAnd b c _ z => some (.and, false, b, c, z)
  | .redOr b c _ z => some (.or, false, b, c, z)
  | .redXor b c _ z => some (.xor, false, b, c, z)
  | _ => none

/-- An old value as an atomic returns it: sign-extended, or zero-extended for the unsigned forms (R244). -/
def oldX (unsigned : Bool) (n v : Nat) : Word64 := if unsigned then ofZ v else ofS (sOf n v)

/-! Vector instructions (R99 to R129). -/

/-- The N bits of an integer. -/
def zBits (t : ElemTy) (x : Int) : Nat := (x % 2 ^ t.width).toNat

/-- The integer a type's N bits hold, bit N − 1 as the sign of an sN. -/
def intVal (t : ElemTy) (b : Nat) : Int :=
  match t with
  | .s8 | .s16 | .s32 | .s64 => (BitVec.ofNat t.width b).toInt
  | _ => (b % 2 ^ t.width : Nat)

/-- The N bits read as signed whatever the type. -/
def topBits (t : ElemTy) (x : Int) : Int := (BitVec.ofInt t.width x).toInt

/-- A shift count: b mod N (R110). -/
def shiftBy (t : ElemTy) (b : Int) : Nat := (b % t.width).toNat

/-- Sat(x, t) of R27. -/
def saturate (t : ElemTy) (x : Int) : Int :=
  match t with
  | .s8 | .s16 | .s32 | .s64 => max (-2 ^ (t.width - 1)) (min (2 ^ (t.width - 1) - 1) x)
  | _ => max 0 (min (2 ^ t.width - 1) x)

/-- A container of a type's value: copies of the sign above an sN, zeros above any other (R100). -/
def containerOf (t : ElemTy) (b : Nat) : Nat := (inX t b).toNat

/-- An elementwise instruction: destination, sources, governing predicate, type, and from the containers of the sources'
element the result's bits and flags. -/
structure Elementwise where
  vd : VReg
  srcs : List VReg
  p : PReg
  t : ElemTy
  f : List Nat → FpRes

def float1 (s : State) (d a : VReg) (t : ElemTy) (rm : Rm) (p : PReg) (f : Rm → Bool → ElemTy → Machine.Num → FpRes) :
    Elementwise :=
  let z := s.me.csr.ftz
  ⟨d, [a], p, t, fun l => f (modeOf rm s.me.csr.rm) z t (numIn z t (l.getD 0 0))⟩

def float2 (s : State) (d a b : VReg) (t : ElemTy) (rm : Rm) (p : PReg) (f : Rm → Bool → ElemTy → Machine.Num → Machine.Num → FpRes) :
    Elementwise :=
  let z := s.me.csr.ftz
  ⟨d, [a, b], p, t, fun l => f (modeOf rm s.me.csr.rm) z t (numIn z t (l.getD 0 0)) (numIn z t (l.getD 1 0))⟩

def float3 (s : State) (d a b c : VReg) (t : ElemTy) (rm : Rm) (p : PReg) : Elementwise :=
  let z := s.me.csr.ftz
  ⟨d, [a, b, c], p, t, fun l =>
    fpFma (modeOf rm s.me.csr.rm) z t (numIn z t (l.getD 0 0)) (numIn z t (l.getD 1 0)) (numIn z t (l.getD 2 0))⟩

def floatPick (s : State) (d a b : VReg) (t : ElemTy) (p : PReg) (isMax : Bool) : Elementwise :=
  ⟨d, [a, b], p, t, fun l => fpMinMax isMax s.me.csr.ftz t (l.getD 0 0) (l.getD 1 0)⟩

def floatSign (s : State) (d a : VReg) (t : ElemTy) (p : PReg) (flip : Bool) : Elementwise :=
  ⟨d, [a], p, t, fun l => fpSign flip s.me.csr.ftz t (l.getD 0 0)⟩

/-- An integer operation: exact, then saturated or taken modulo 2^N; no flag (R110). -/
def int (d : VReg) (srcs : List VReg) (t : ElemTy) (sat : Bool) (p : PReg) (f : (Nat → Int) → Int) : Elementwise :=
  ⟨d, srcs, p, t, fun l =>
    let r := f fun i => intVal t (l.getD i 0)
    (zBits t (if sat then saturate t r else r), 0)⟩

/-- The bitwise operations and shifts of R110 on a type's N bits. -/
def bitAnd (t : ElemTy) (l : Nat → Int) : Int := (zBits t (l 0) &&& zBits t (l 1) : Nat)
def bitOr (t : ElemTy) (l : Nat → Int) : Int := (zBits t (l 0) ||| zBits t (l 1) : Nat)
def bitXor (t : ElemTy) (l : Nat → Int) : Int := (zBits t (l 0) ^^^ zBits t (l 1) : Nat)
def bitShl (t : ElemTy) (l : Nat → Int) : Int := l 0 * 2 ^ shiftBy t (l 1)
def bitShr (t : ElemTy) (l : Nat → Int) : Int := (zBits t (l 0) / 2 ^ shiftBy t (l 1) : Nat)
def bitSra (t : ElemTy) (l : Nat → Int) : Int := topBits t (l 0) / 2 ^ shiftBy t (l 1)

/-- The elementwise instructions (R108 to R111). -/
def elementwise (i : Instr) (s : State) : Option Elementwise :=
  match i with
  | .vaddF32 d a b p => some (float2 s d a b .f32 .dyn p fpAdd)
  | .vsubF32 d a b p => some (float2 s d a b .f32 .dyn p fpSub)
  | .vmulF32 d a b p => some (float2 s d a b .f32 .dyn p fpMul)
  | .vfmaF32 d a b p => some (float3 s d a b d .f32 .dyn p)
  | .vdivF32 d a b p => some (float2 s d a b .f32 .dyn p fpDiv)
  | .vsqrtF32 d a p => some (float1 s d a .f32 .dyn p fpSqrt)
  | .vrsqrtF32 d a p => some (float1 s d a .f32 .dyn p fpRsqrt)
  | .vrcpF32 d a p => some (float1 s d a .f32 .dyn p fpRcp)
  | .vexp2F32 d a p => some (float1 s d a .f32 .dyn p fpExp2)
  | .vlog2F32 d a p => some (float1 s d a .f32 .dyn p fpLog2)
  | .vminF32 d a b p => some (floatPick s d a b .f32 p false)
  | .vmaxF32 d a b p => some (floatPick s d a b .f32 p true)
  | .vabsF32 d a p => some (floatSign s d a .f32 p false)
  | .vnegF32 d a p => some (floatSign s d a .f32 p true)
  | .vaddF64 d a b p => some (float2 s d a b .f64 .dyn p fpAdd)
  | .vsubF64 d a b p => some (float2 s d a b .f64 .dyn p fpSub)
  | .vmulF64 d a b p => some (float2 s d a b .f64 .dyn p fpMul)
  | .vfmaF64 d a b p => some (float3 s d a b d .f64 .dyn p)
  | .vdivF64 d a b p => some (float2 s d a b .f64 .dyn p fpDiv)
  | .vsqrtF64 d a p => some (float1 s d a .f64 .dyn p fpSqrt)
  | .vrsqrtF64 d a p => some (float1 s d a .f64 .dyn p fpRsqrt)
  | .vrcpF64 d a p => some (float1 s d a .f64 .dyn p fpRcp)
  | .vexp2F64 d a p => some (float1 s d a .f64 .dyn p fpExp2)
  | .vlog2F64 d a p => some (float1 s d a .f64 .dyn p fpLog2)
  | .vminF64 d a b p => some (floatPick s d a b .f64 p false)
  | .vmaxF64 d a b p => some (floatPick s d a b .f64 p true)
  | .vabsF64 d a p => some (floatSign s d a .f64 p false)
  | .vnegF64 d a p => some (floatSign s d a .f64 p true)
  | .vaddS32 d a b p => some (int d [a, b] .s32 false p (fun l => l 0 + l 1))
  | .vsubS32 d a b p => some (int d [a, b] .s32 false p (fun l => l 0 - l 1))
  | .vmulS32 d a b p => some (int d [a, b] .s32 false p (fun l => l 0 * l 1))
  | .vminS32 d a b p => some (int d [a, b] .s32 false p (fun l => min (l 0) (l 1)))
  | .vmaxS32 d a b p => some (int d [a, b] .s32 false p (fun l => max (l 0) (l 1)))
  | .vfmaS32 d a b p => some (int d [a, b, d] .s32 false p (fun l => l 0 * l 1 + l 2))
  | .vabsS32 d a p => some (int d [a] .s32 false p (fun l => |l 0|))
  | .vnegS32 d a p => some (int d [a] .s32 false p (fun l => -l 0))
  | .vandS32 d a b p => some (int d [a, b] .s32 false p (bitAnd .s32))
  | .vorS32 d a b p => some (int d [a, b] .s32 false p (bitOr .s32))
  | .vxorS32 d a b p => some (int d [a, b] .s32 false p (bitXor .s32))
  | .vshlS32 d a b p => some (int d [a, b] .s32 false p (bitShl .s32))
  | .vshrS32 d a b p => some (int d [a, b] .s32 false p (bitShr .s32))
  | .vsraS32 d a b p => some (int d [a, b] .s32 false p (bitSra .s32))
  | .vaddExt d a b t rm p =>
    some (if t.isInt then int d [a, b] t (rm == .rtz) p (fun l => l 0 + l 1) else float2 s d a b t rm p fpAdd)
  | .vsubExt d a b t rm p =>
    some (if t.isInt then int d [a, b] t (rm == .rtz) p (fun l => l 0 - l 1) else float2 s d a b t rm p fpSub)
  | .vmulExt d a b t rm p =>
    some (if t.isInt then int d [a, b] t (rm == .rtz) p (fun l => l 0 * l 1) else float2 s d a b t rm p fpMul)
  | .vfmaExt d a b c t rm p =>
    some (if t.isInt then int d [a, b, c] t (rm == .rtz) p (fun l => l 0 * l 1 + l 2) else float3 s d a b c t rm p)
  | .vdivExt d a b t rm p => some (float2 s d a b t rm p fpDiv)
  | .vsqrtExt d a t rm p => some (float1 s d a t rm p fpSqrt)
  | .vrsqrtExt d a t rm p => some (float1 s d a t rm p fpRsqrt)
  | .vrcpExt d a t rm p => some (float1 s d a t rm p fpRcp)
  | .vexp2Ext d a t rm p => some (float1 s d a t rm p fpExp2)
  | .vlog2Ext d a t rm p => some (float1 s d a t rm p fpLog2)
  | .vminExt d a b t rm p =>
    some (if t.isInt then int d [a, b] t (rm == .rtz) p (fun l => min (l 0) (l 1)) else floatPick s d a b t p false)
  | .vmaxExt d a b t rm p =>
    some (if t.isInt then int d [a, b] t (rm == .rtz) p (fun l => max (l 0) (l 1)) else floatPick s d a b t p true)
  | .vabsExt d a t rm p =>
    some (if t.isInt then int d [a] t (rm == .rtz) p (fun l => |l 0|) else floatSign s d a t p false)
  | .vnegExt d a t rm p =>
    some (if t.isInt then int d [a] t (rm == .rtz) p (fun l => -l 0) else floatSign s d a t p true)
  | .vandExt d a b t rm p => some (int d [a, b] t (rm == .rtz) p (bitAnd t))
  | .vorExt d a b t rm p => some (int d [a, b] t (rm == .rtz) p (bitOr t))
  | .vxorExt d a b t rm p => some (int d [a, b] t (rm == .rtz) p (bitXor t))
  | .vshlExt d a b t rm p => some (int d [a, b] t (rm == .rtz) p (bitShl t))
  | .vshrExt d a b t rm p => some (int d [a, b] t (rm == .rtz) p (bitShr t))
  | .vsraExt d a b t rm p => some (int d [a, b] t (rm == .rtz) p (bitSra t))
  | .vcvt d a t src rm p =>
    some ⟨d, [a], p, t, fun l => convert (modeOf rm s.me.csr.rm) s.me.csr.ftz t src (l.getD 0 0)⟩
  | _ => none

/-- Rows a container of a type takes: two for 64 bits (R100). -/
def rowsOf (t : ElemTy) : Nat := if t.width = 64 then 2 else 1

/-- ETYPE a type gives its destination: 1 for 64 bits, else 2 for integers and 0 for floats (R101). -/
def etypeFor (t : ElemTy) : BitVec 2 := if t.width = 64 then 1 else if t.isInt then 2 else 0

/-- Row words of a container as ETYPE counts them. -/
def rowsByEtype (e : BitVec 2) : Nat := if e = 1 then 2 else 1

/-- Whether element `e` takes part: below VL and predicated on, VRI being 0. -/
def TakesPart (h : Hart) (p : PReg) (e : Nat) : Prop := e < h.csr.vl.toNat ∧ (h.getP p).getLsbD e = true

/-- Before an instruction that writes a vector register: VL is not 0, no lane is about to compute wrongly, the kernel header and
the row pools have the rows the destination needs. -/
def RowsReady (s : State) (vd : VReg) (rows : Nat) : Prop :=
  s.me.csr.vl ≠ 0 ∧ s.me.laneFault = none ∧ s.rowCheck [vd] rows = none

/-- Before one that works element by element and starts at the first: VRI is 0 too (R125). -/
def VecReady (s : State) (vd : VReg) (rows : Nat) : Prop := RowsReady s vd rows ∧ s.me.csr.vri = 0

/-- What an element that does not take part holds of the register `old` it was in: the rows both layouts have. -/
def keptElem (old : VRegister) (etype : BitVec 2) (e : Nat) : Nat :=
  (old.row e 0).toNat + (if etype = 1 ∧ old.desc.etype = 1 then (old.row e 1).toNat * 2 ^ 32 else 0)

/-- The descriptor of an elementwise result: degree 0, basis 0, shape 0, the given ETYPE; KEEP, CAP and POLICY as before. -/
def pointDesc (d : Desc) (etype : BitVec 2) : Desc := { d with shape := 0, deg := 0, basis := 0, etype := etype }

/-- The frame of an instruction that writes vector register vd: its descriptor and rows; the other vector registers, all x and
predicate registers, the control registers but INSTRET, FFLAGS and VRI, everything outside the hart and every byte of memory
as before. -/
def VecFrame (s t : State) (vd : VReg) (desc : Desc) (rows : Nat) (fl : FpFlags) : Prop :=
  let h := s.me
  let k := t.me
  (k.getV vd).desc = desc ∧ (k.getV vd).rows = rows ∧ (∀ r, r ≠ vd → k.getV r = h.getV r) ∧ k.x = h.x ∧ k.p = h.p ∧
    k.csr = { h.csr with instret := h.csr.instret + 1, fflags := h.csr.fflags ||| fl, vri := 0 } ∧
    k.pc = h.retire.pc ∧ k.loops = h.retire.loops ∧
    { k with v := h.v, csr := h.csr, pc := h.pc, loops := h.loops, wait := h.wait, waited := h.waited, parked := h.parked,
             wake := h.wake, laneFault := h.laneFault } = h ∧
    OnlyMe s t

/-- An instruction that gives each element of `acts` a container and leaves or clears the others (R103). -/
def VecWrites (s t : State) (vd : VReg) (etype : BitVec 2) (takes : Nat → Prop) (value : Nat → Nat) (fl : FpFlags) : Prop :=
  let h := s.me
  let v := t.me.getV vd
  VecFrame s t vd (pointDesc (h.getV vd).desc etype) (rowsByEtype etype) fl ∧
    (∀ e, e < 256 → takes e → e < h.csr.vl.toNat → v.elem e = value e % 2 ^ (32 * rowsByEtype etype)) ∧
    (∀ e, e < 256 → ¬ takes e → e < h.csr.vl.toNat → v.elem e = keptElem (h.getV vd) etype e) ∧
    (∀ e, e < 256 → h.csr.vl.toNat ≤ e → h.csr.vpolTd = true → v.elem e = 0) ∧
    (∀ e, e < 256 → h.csr.vl.toNat ≤ e → h.csr.vpolTd = false → (h.getV vd).held.getLsbD (e / 16) = true →
      v.elem e = keptElem (h.getV vd) etype e)

/-- No element that takes part meets poison in the registers read. -/
def Clean (s : State) (srcs : List VReg) (takes : Nat → Prop) : Prop :=
  ∀ e, takes e → ∀ r ∈ srcs, (s.me.getV r).badElem e = false

/-- The flags of the elements that take part, ORed. -/
def orFlags (s : State) (p : PReg) (f : Nat → FpFlags) : FpFlags :=
  ((List.range s.me.csr.vl.toNat).filter fun e => (s.me.getP p).getLsbD e).foldl (fun a e => a ||| f e) 0

/-- Elements below VL whose predicate bit is 1, rising. -/
def chosen (s : State) (p : PReg) : List Nat :=
  (List.range s.me.csr.vl.toNat).filter fun e => (s.me.getP p).getLsbD e

/-- The element at an index inside 0 … VL − 1, else a zero container (R117). -/
def pickAt (s : State) (v : VReg) (j : Int) : Nat :=
  if 0 ≤ j ∧ j < s.me.csr.vl.toNat then (s.me.getV v).elem j.toNat else 0

/-- Rand(key, ctr, e) of R118, in arithmetic modulo 2^32. -/
def rand (key ctr e : Nat) : Nat :=
  let m := 2 ^ 32
  let x0 := (ctr % m + e) % m ^^^ key % m
  let x1 := x0 * 0x6A5D39E9 % m
  let x2 := (x1 ^^^ x1 / 2 ^ 16) ^^^ key / m % m
  let x3 := x2 * 0x2F1B4C63 % m
  x3 ^^^ x3 / 2 ^ 16

/-- A move or permute (R113, R117): whether it restarts whole and so takes no notice of VRI (R126), destination, vector sources,
ETYPE, which elements it writes and with which container. -/
structure Mover where
  restarts : Bool
  vd : VReg
  srcs : List VReg
  etype : BitVec 2
  takes : Nat → Prop
  value : Nat → Nat

def mover (i : Instr) (s : State) : Option Mover :=
  let h := s.me
  let et := fun (v : VReg) => (h.getV v).desc.etype
  let el := fun (v : VReg) (e : Nat) => (h.getV v).elem e
  match i with
  | .vmov d a p => some ⟨false, d, [a], et a, TakesPart h p, el a⟩
  | .vbcast d b p => some ⟨false, d, [], et d, TakesPart h p, fun _ => Z (s.x b)⟩
  | .vid d p => some ⟨false, d, [], 2, TakesPart h p, fun e => e⟩
  | .vsel d a b p => some ⟨false, d, [a, b], et a, fun e => e < h.csr.vl.toNat, fun e =>
      if (h.getP p).getLsbD e then el a e else el b e⟩
  | .vcompress d a p => some ⟨true, d, [a], et a, fun e => h.csr.vpolTd = true ∨ e < (chosen s p).length, fun e =>
      match (chosen s p)[e]? with
      | some j => el a j
      | none => 0⟩
  | .vexpand d a p => some ⟨true, d, [a], et a, TakesPart h p, fun e =>
      el a ((chosen s p).filter fun j => decide (j < e)).length⟩
  | .vperm d a b p => some ⟨true, d, [a, b], et a, TakesPart h p, fun e => pickAt s a (el b e % 2 ^ 32 : Nat)⟩
  | .vslide d a c p => some ⟨true, d, [a], et a, TakesPart h p, fun e => pickAt s a (e + S (s.x c))⟩
  | .vpass d a c p => some ⟨true, d, [a], et a, TakesPart h p, fun e => if e = 0 then Z (s.x c) else el a (e - 1)⟩
  | .vrand d b c p => some ⟨true, d, [], 2, TakesPart h p, fun e => rand (Z (s.x b)) (Z (s.x c)) e⟩
  | _ => none

/-! Predicates (R112, R114). -/

/-- A relation between two integers. -/
def holds (x : Cond) (a b : Int) : Bool :=
  match x with
  | .eq => a == b
  | .ne => a != b
  | .lt => decide (a < b)
  | .le => decide (a ≤ b)
  | .gt => decide (b < a)
  | .ge => decide (b ≤ a)
  | .un => false

/-- A relation between two containers of a type, with its flags. -/
def relation (s : State) (t : ElemTy) (x : Cond) (a b : Nat) : Bool × FpFlags :=
  if t.isInt then (holds x (intVal t a) (intVal t b), 0)
  else fpCmp x (numIn s.me.csr.ftz t a) (numIn s.me.csr.ftz t b)

/-- A compare: destination, sources, governing predicate, relation, type. -/
def compareOf (i : Instr) : Option (PReg × VReg × VReg × PReg × Cond × ElemTy) :=
  match i with
  | .vcmp d a b p x k =>
    some (d, a, b, p, x, match k.toNat with | 0 => .f32 | 1 => .f64 | 2 => .s32 | _ => .z32)
  | .vcmpExt d a b x t p => some (d, a, b, p, x, t)
  | _ => none

/-- A predicate instruction: destination and its bits below VL. -/
def predOf (i : Instr) (s : State) : Option (PReg × (Nat → Bool)) :=
  let g := fun (r : PReg) (e : Nat) => (s.me.getP r).getLsbD e
  match i with
  | .pand d a b => some (d, fun e => g a e && g b e)
  | .por d a b => some (d, fun e => g a e || g b e)
  | .pxor d a b => some (d, fun e => g a e != g b e)
  | .pnot d a => some (d, fun e => !g a e)
  | .pset d b => some (d, fun e => decide (e < Z (s.x b)))
  | _ => none

/-- Predicate register `pd` has bits `new` below VL and beyond it zeros or what it had (R16); p0 still reads all true. Flags
`fl`; every other register of the hart, everything else and every byte of memory are as before. -/
def PredWrites (s t : State) (pd : PReg) (new : Nat → Bool) (fl : FpFlags) : Prop :=
  let h := s.me
  let k := t.me
  (∀ e, e < 256 → (k.getP pd).getLsbD e =
    (if pd = 0 then true
     else if e < h.csr.vl.toNat then new e
     else if h.csr.vpolTd then false else (h.getP pd).getLsbD e)) ∧
    (∀ r, r ≠ pd → k.getP r = h.getP r) ∧ k.x = h.x ∧ k.v = h.v ∧
    k.csr = { h.csr with instret := h.csr.instret + 1, fflags := h.csr.fflags ||| fl } ∧
    k.pc = h.retire.pc ∧ k.loops = h.retire.loops ∧
    { k with p := h.p, csr := h.csr, pc := h.pc, loops := h.loops, wait := h.wait, waited := h.waited, parked := h.parked,
             wake := h.wake, laneFault := h.laneFault } = h ∧ OnlyMe s t

/-! Reductions (R46, R115, R116). -/

/-- An exact integer result as a type's bits, saturated or wrapped. -/
def intResultBits (t : ElemTy) (sat : Bool) (x : Int) : Nat := zBits t (if sat then saturate t x else x)

/-- The integers of the elements that take part. -/
def ints (s : State) (v : VReg) (t : ElemTy) (p : PReg) : List Int :=
  (chosen s p).map fun e => intVal t ((s.me.getV v).elem e)

/-- The acting hart as an instruction that restarts whole leaves it beside its results (R126): VRI at 0, with VL = 0 as it was. -/
def whole (s : State) : State :=
  if s.me.csr.vl = 0 then s else s.setMe { s.me with csr := { s.me.csr with vri := 0 }, laneFault := none }

/-- One node of an integer tree under R116: exact, then saturated or taken modulo 2^N. -/
def intNode (op : RedOp) (t : ElemTy) (sat : Bool) (a b : Nat) : FpRes :=
  let x := intVal t a
  let y := intVal t b
  (match op with
    | .add => intResultBits t sat (x + y)
    | .min => intResultBits t sat (min x y)
    | .max => intResultBits t sat (max x y)
    | .and => zBits t a &&& zBits t b
    | .or => zBits t a ||| zBits t b
    | .xor => zBits t a ^^^ zBits t b, 0)

/-- The empty value of a reduction (R116). -/
def emptyOf (op : RedOp) (t : ElemTy) : Nat :=
  match op with
  | .add => 0
  | .min => if t.isInt then (match t with
      | .s8 | .s16 | .s32 | .s64 => 2 ^ (t.width - 1) - 1
      | _ => 2 ^ t.width - 1) else infBits t false
  | .max => if t.isInt then (match t with
      | .s8 | .s16 | .s32 | .s64 => 2 ^ (t.width - 1)
      | _ => 0) else infBits t true
  | .and => 2 ^ t.width - 1
  | .or | .xor => 0

/-- What a wrapping integer reduction of a list comes to (R116), the empty value of an empty one. -/
def intReduce (op : RedOp) (t : ElemTy) (l : List Int) : Nat :=
  match op with
  | .add => zBits t l.sum
  | .min => zBits t (l.foldl min (match t with
      | .s8 | .s16 | .s32 | .s64 => 2 ^ (t.width - 1) - 1
      | _ => 2 ^ t.width - 1))
  | .max => zBits t (l.foldl max (match t with
      | .s8 | .s16 | .s32 | .s64 => -2 ^ (t.width - 1)
      | _ => 0))
  | .and => l.foldl (fun a x => a &&& zBits t x) (2 ^ t.width - 1)
  | .or => l.foldl (fun a x => a ||| zBits t x) 0
  | .xor => l.foldl (fun a x => a ^^^ zBits t x) 0

/-- One level of the tree of R46 over leaves in order: two present children are combined, a single one is passed up. -/
def pairUp (op : Nat → Nat → FpRes) : List TreeVal → List TreeVal
  | a :: b :: t => joinTree op a b :: pairUp op t
  | l => l

/-- The root of the tree over 2^k leaves. -/
def treeRoot (op : Nat → Nat → FpRes) : Nat → List TreeVal → TreeVal
  | 0, l => l.head?.getD none
  | k + 1, l => treeRoot op k (pairUp op l)

/-- A leaf: an integer's bits; of a float, the canonical NaN for a NaN, with NV where it signals (R31), and a zero for a
subnormal under FTZ (R35). -/
def leafIn (s : State) (t : ElemTy) (b : Nat) : FpRes :=
  if t.isInt then (b, 0)
  else
    match numOf t b with
    | .nan signalling => (canon t, if signalling then flNV else 0)
    | _ => (flushIn s.me.csr.ftz t b, 0)

/-- The leaf of element `e`: present where it takes part. -/
def leafAt (s : State) (v : VReg) (t : ElemTy) (p : PReg) (e : Nat) : TreeVal :=
  if e < s.me.csr.vl.toNat ∧ (s.me.getP p).getLsbD e = true then some (leafIn s t ((s.me.getV v).elem e % 2 ^ t.width))
  else none

/-- The leaves of the tree over a vector's elements, 2^k of them in order. -/
def leaves (s : State) (v : VReg) (t : ElemTy) (p : PReg) (k : Nat) : List TreeVal :=
  (List.range (2 ^ k)).map (leafAt s v t p)

/-- One node of a reduction's tree (R116): an integer operation, a rounded float addition, or the float minimum or maximum. -/
def nodeOf (s : State) (op : RedOp) (t : ElemTy) (rm : Rm) (a b : Nat) : FpRes :=
  let z := s.me.csr.ftz
  if t.isInt then intNode op t (rm == .rtz) a b
  else
    match op with
    | .min => fpMinMax false z t a b
    | .max => fpMinMax true z t a b
    | _ => fpAdd (modeOf rm s.me.csr.rm) z t (numIn z t a) (numIn z t b)

/-- The inclusive scan at index `i` (R47): the aligned blocks that [0, i] splits into, the largest first, each its own tree,
combined from the left. -/
def scanTo (op : Nat → Nat → FpRes) (leaf : Nat → TreeVal) (i : Nat) : TreeVal :=
  ((List.range 9).reverse.filter fun k => (i + 1).testBit k).foldl (fun acc k =>
    joinTree op acc
      (treeRoot op k ((List.range (2 ^ k)).map fun j => leaf ((i + 1) / 2 ^ (k + 1) * 2 ^ (k + 1) + j)))) none

/-- A scan's value at index `i`: inclusive, or exclusive with the empty value at index 0 (R47, R116). -/
def scanAt (op : Nat → Nat → FpRes) (empty : Nat) (leaf : Nat → TreeVal) (excl : Bool) (i : Nat) : FpRes :=
  if excl then (if i = 0 then (empty, 0) else (scanTo op leaf (i - 1)).getD (empty, 0))
  else (scanTo op leaf i).getD (empty, 0)

/-- The segment of an element (R48): it begins at element 0 or the last boundary at or below it, and ends at the next boundary
or at VL. -/
def segFrom (s : State) (b : PReg) (e : Nat) : Nat :=
  ((List.range (e + 1)).filter fun j => (s.me.getP b).getLsbD j).getLast?.getD 0

def segTo (s : State) (b : PReg) (e : Nat) : Nat :=
  ((List.range s.me.csr.vl.toNat).filter fun j => decide (e < j) && (s.me.getP b).getLsbD j).head?.getD s.me.csr.vl.toNat

/-- Levels of a tree over `n` leaves. -/
def levels (n : Nat) : Nat := ((List.range 10).find? fun k => decide (n ≤ 2 ^ k)).getD 0

/-- What a segmented reduction or a scan gives element `e`: its segment's tree, or the scan up to it (R47, R48, R116). -/
def treeValue (i : Instr) (s : State) : Option (Nat → FpRes) :=
  match i with
  | .vsred op _ a b t rm p => some fun e =>
    let n := segTo s b e - segFrom s b e
    (treeRoot (nodeOf s op t rm) (levels n) ((List.range (2 ^ levels n)).map fun j =>
      if j < n then leafAt s a t p (segFrom s b e + j) else none)).getD (emptyOf op t, 0)
  | .vscan op excl _ a t rm p => some (scanAt (nodeOf s op t rm) (emptyOf op t) (leafAt s a t p) excl)
  | .vsscan op excl _ a b t rm p => some fun e =>
    scanAt (nodeOf s op t rm) (emptyOf op t) (fun j => leafAt s a t p (segFrom s b e + j)) excl (e - segFrom s b e)
  | _ => none

/-- A scan or segmented reduction: destination, source, governing predicate, type. -/
def treeOf (i : Instr) : Option (VReg × VReg × PReg × ElemTy) :=
  match i with
  | .vsred _ d a _ t _ p => some (d, a, p, t)
  | .vscan _ _ d a t _ p => some (d, a, p, t)
  | .vsscan _ _ d a _ t _ p => some (d, a, p, t)
  | _ => none

/-! Vector loads and stores (R119 to R123). -/

/-- A vector memory form: whether it loads, first register, predicate, bytes per container, fields per element, the address of
element e's field f, and the index register of an indexed form. -/
structure VMem where
  isLoad : Bool
  v : VReg
  p : PReg
  size : Nat
  fields : Nat
  addr : Nat → Nat → Word64
  index : Option VReg

def unit (isLoad : Bool) (v : VReg) (p : PReg) (z : BitVec 2) (base : Word64) : VMem :=
  ⟨isLoad, v, p, 2 ^ z.toNat, 1, fun e _ => base + ofZ (e * 2 ^ z.toNat), none⟩

def strided (isLoad : Bool) (v : VReg) (p : PReg) (z : BitVec 2) (base c : Word64) : VMem :=
  ⟨isLoad, v, p, 2 ^ z.toNat, 1, fun e _ => base + ofS (e * S c), none⟩

def segmented (isLoad : Bool) (v : VReg) (p : PReg) (z : BitVec 2) (n : Nat) (base : Word64) : VMem :=
  ⟨isLoad, v, p, 2 ^ z.toNat, n, fun e f => base + ofZ ((e * n + f) * 2 ^ z.toNat), none⟩

def indexed (s : State) (isLoad : Bool) (v c : VReg) (p : PReg) (z : BitVec 2) (base : Word64) : VMem :=
  ⟨isLoad, v, p, 2 ^ z.toNat, 1, fun e _ => base + ofZ ((s.me.getV c).elem e % 2 ^ 32 * 2 ^ z.toNat), some c⟩

def vmemOf (i : Instr) (s : State) : Option VMem :=
  match i with
  | .vld v b p z => some (unit true v p z (s.x b))
  | .vlds v b c p z => some (strided true v p z (s.x b) (s.x c))
  | .vst v b p z => some (unit false v p z (s.x b))
  | .vsts v b c p z => some (strided false v p z (s.x b) (s.x c))
  | .vldOff v b z o p => some (unit true v p z (s.x b + immS o))
  | .vldsOff v b c z o p => some (strided true v p z (s.x b + immS o) (s.x c))
  | .vstOff v b z o p => some (unit false v p z (s.x b + immS o))
  | .vstsOff v b c z o p => some (strided false v p z (s.x b + immS o) (s.x c))
  | .vldg v b p z n => some (segmented true v p z (n.toNat + 1) (s.x b))
  | .vstg v b p z n => some (segmented false v p z (n.toNat + 1) (s.x b))
  | .vldx v b c p z => some (indexed s true v c p z (s.x b))
  | .vstx v b c p z => some (indexed s false v c p z (s.x b))
  | _ => none

/-- Register `f` of a form's group. -/
def VMem.reg (m : VMem) (f : Nat) : VReg := m.v + BitVec.ofNat 5 f

/-- Whether an address can be read by a vector load without effect beside its own: aligned, inside a scratchpad window where
the form is indexed, translated to `key`, not poisoned (R79, R121, R328). -/
def VReads (s : State) (m : VMem) (a : Word64) (key : Nat) : Prop :=
  a.toNat % m.size = 0 ∧ (m.index = none ∨ inSpadWindow a.toNat = true) ∧ s.resolveMe a.toNat .load = .ok key ∧
    ¬ BeyondSpad s key m.size ∧ s.poisonedAt key m.size = none

/-- Whether an address is stored at `key`. -/
def VStores (s : State) (indexed : Bool) (size : Nat) (a : Word64) (key : Nat) : Prop :=
  a.toNat % size = 0 ∧ (indexed = false ∨ inSpadWindow a.toNat = true) ∧ s.resolveMe a.toNat .store = .ok key ∧
    ¬ BeyondSpad s key size

/-- A byte of storage after stores in order, each of the little-endian bytes of a value: the last one that covers it. -/
def byteAfter (s : State) (size : Nat) (writes : List (Nat × Nat)) (a : Nat) : Byte :=
  writes.foldl (fun b w => if w.1 ≤ a ∧ a < w.1 + size then BitVec.ofNat 8 (w.2 / 256 ^ (a - w.1)) else b) (s.byte a)

/-- The stores of some elements of a form in order: elements rising, fields rising. -/
def storesAt (s : State) (m : VMem) (key : Nat → Nat → Nat) (l : List Nat) : List (Nat × Nat) :=
  l.flatMap fun e => (List.range m.fields).map fun f => (key e f, (s.me.getV (m.reg f)).elem e)

/-- The stores of a form. -/
def storesOf (s : State) (m : VMem) (key : Nat → Nat → Nat) : List (Nat × Nat) := storesAt s m key (chosen s m.p)

/-- Elements that take part below `k`. -/
def chosenBelow (s : State) (p : PReg) (k : Nat) : List Nat := (chosen s p).filter fun e => decide (e < k)

/-- Whether the checks of an element's address fail, and the cause and EVAL they give: alignment, the windows of an indexed form,
then those of R79 (R121). -/
def AddressFails (s : State) (m : VMem) (a : Word64) (cause : Nat) (eval : Word64) : Prop :=
  if a.toNat % m.size ≠ 0 then cause = 3 ∧ eval = a
  else if m.index.isSome = true ∧ inSpadWindow a.toNat = false then cause = 6 ∧ eval = a
  else
    match s.resolveMe a.toNat (if m.isLoad then .load else .store) with
    | .error f => cause = f.cause ∧ eval = if f.cause = 2 then ofZ (7 * 2 ^ 56 + Z a % 2 ^ 48) else a
    | .ok key => BeyondSpad s key m.size ∧ cause = 2 ∧ eval = ofZ (7 * 2 ^ 56 + Z a % 2 ^ 48)

/-- Whether element `k` of a form faults, and the cause and EVAL it gives: a poisoned index; the first of its fields whose address
fails; else, of a load, the first field that reads poison and, of a store, poison in a register it stores (R121, R125, R165, R328). -/
def ElementFails (s : State) (m : VMem) (k cause : Nat) (eval : Word64) : Prop :=
  let badIndex := ∃ r ∈ m.index, (s.me.getV r).badElem k = true
  let passes := fun (f : Nat) => ∀ c ev, ¬ AddressFails s m (m.addr k f) c ev
  (badIndex ∧ cause = 10 ∧ eval = 0) ∨
  (¬ badIndex ∧ ∃ f, f < m.fields ∧ AddressFails s m (m.addr k f) cause eval ∧ ∀ g, g < f → passes g) ∨
  (¬ badIndex ∧ (∀ f, f < m.fields → passes f) ∧ cause = 10 ∧
    if m.isLoad then
      ∃ f, f < m.fields ∧ eval = m.addr k f ∧ (∀ g, g < f → ∃ key, VReads s m (m.addr k g) key) ∧
        ∃ key, s.resolveMe (m.addr k f).toNat .load = .ok key ∧ (s.poisonedAt key m.size).isSome = true
    else eval = 0 ∧ ∃ f, f < m.fields ∧ (s.me.getV (m.reg f)).badElem k = true)

/-- ETYPE of a loaded register (R120). -/
def loadedEtype (size : Nat) (old : BitVec 2) : BitVec 2 := if size = 8 then 1 else if old = 2 then 2 else 0

/-! Function instructions (R130 to R166). -/

/-- DMAX of a shape and ETYPE (R132). -/
def degreeMax (shape etype : BitVec 2) : Nat :=
  match shape.toNat, etype.toNat with
  | _, 2 => 0
  | 0, _ => 0
  | 1, _ => 15
  | 2, 1 => 10
  | 2, _ => 15
  | _, 1 => 4
  | _, _ => 5

/-- ROWS of a register (R14): the rows its clusters hold, and while a part-way fault leaves them unlike counts the highest (log
entry 76, the model's choice). -/
def rowsIn (v : VRegister) : Nat :=
  if v.surplus = [] then v.rows else ((List.range 16).map v.rowsAt).foldl max v.rows

/-- The descriptor `fset` takes from a register and `fget` shows (R14). -/
def descBits (v : VRegister) : Nat :=
  v.desc.deg.toNat + v.desc.shape.toNat * 2 ^ 4 + v.desc.basis.toNat * 2 ^ 6 + v.desc.etype.toNat * 2 ^ 8 +
    v.desc.policy.toNat * 2 ^ 10 + v.desc.cap.toNat * 2 ^ 12 + bitN v.desc.keep 16 + rowsIn v % 512 * 2 ^ 17

def descFrom (x : Word64) : Desc :=
  { deg := x.extractLsb 3 0, shape := x.extractLsb 5 4, basis := x.extractLsb 7 6, etype := x.extractLsb 9 8,
    policy := x.extractLsb 11 10, cap := x.extractLsb 15 12, keep := x.getLsbD 16 }

/-- Descriptors `fset` refuses with reason 7 (R146, R164). -/
def descIllegal (d : Desc) : Prop :=
  2 ≤ d.basis.toNat ∨ d.etype = 3 ∨ d.policy = 3 ∨ (d.deg ≠ 0 ∧ d.shape = 0) ∨ (d.etype = 2 ∧ d.deg ≠ 0)

/-- The fields of a descriptor that lay its coefficients out. -/
def sameLayout (a b : Desc) : Prop := a.deg = b.deg ∧ a.shape = b.shape ∧ a.basis = b.basis ∧ a.etype = b.etype

/-- Coefficients of a descriptor per element: (DEG + 1)^dim (R131). -/
def coefCount (d : Desc) : Nat := (d.deg.toNat + 1) ^ d.shape.toNat

/-- An instruction that computes a function register: destination, function sources, coordinate sources, predicate, whether
its descriptor checks pass, natural degree, shape, basis and working type. -/
structure FnForm where
  vd : VReg
  srcs : List VReg
  coords : List VReg
  p : PReg
  legal : Prop
  nat : Nat
  shape : BitVec 2
  basis : BitVec 2
  t : ElemTy

def fnOf (i : Instr) (s : State) : Option FnForm :=
  let desc := fun (v : VReg) => (s.me.getV v).desc
  let q := fun (v : VReg) => (desc v).deg.toNat
  let dim := fun (v : VReg) => (desc v).shape.toNat
  let two := fun (d a b : VReg) (p : PReg) (n : Nat) (point : Bool) =>
    let of := if (desc a).shape = 0 then desc b else desc a
    FnForm.mk d [a, b] [] p ((desc a).shape = 0 ∨ (desc b).shape = 0 ∨ (desc a).shape = (desc b).shape) n
      (if point then 0 else of.shape) (if point then 0 else of.basis)
      (if (desc a).etype = 1 ∨ (desc b).etype = 1 then .f64 else .f32)
  match i with
  | .fadd d a b p | .fsub d a b p => some (two d a b p (max (q a) (q b)) false)
  | .fmul d a b p => some (two d a b p (q a + q b) false)
  | .fdot d a b p => some (two d a b p 0 true)
  | .fnorm d a p => some (two d a a p 0 true)
  | .fscale d a _ p => some ⟨d, [a], [], p, True, q a, (desc a).shape, (desc a).basis, if (desc a).etype = 1 then .f64 else .f32⟩
  | .fdiff d a axis t _ p =>
    some ⟨d, [a], [], p, axis.toNat < dim a, if (desc a).basis = 0 ∧ dim a = 1 then q a - 1 else q a, (desc a).shape,
      (desc a).basis, t⟩
  | .fint d a t _ p => some ⟨d, [a], [], p, True, 0, 0, 0, t⟩
  | .fanti d a axis t _ p => some ⟨d, [a], [], p, axis.toNat < dim a, q a + 1, (desc a).shape, (desc a).basis, t⟩
  | .fproj d a k t _ p => some ⟨d, [a], [], p, True, min k.toNat (q a), (desc a).shape, (desc a).basis, t⟩
  | .fraise d a k t _ p => some ⟨d, [a], [], p, True, max k.toNat (q a), (desc a).shape, (desc a).basis, t⟩
  | .fcvt d a basis t _ p => some ⟨d, [a], [], p, True, q a, (desc a).shape, basis.setWidth 2, t⟩
  | .ftrace d a face orient t _ p =>
    some ⟨d, [a], [], p,
      face.toNat < 2 * dim a ∧ (dim a = 2 → orient.toNat < 2) ∧ (dim a = 1 → orient = 0),
      if dim a = 1 then 0 else q a, (desc a).shape - 1, (desc a).basis, t⟩
  | .feval d a x y t _ p =>
    some ⟨d, [a], [x, y, y + 1].take (dim a), p,
      (dim a = 3 → y.toNat ≠ 31) ∧ (2 ≤ dim a → y.toNat < s.me.header.vregs) ∧
        (dim a = 3 → y.toNat + 1 < s.me.header.vregs), 0, 0, 0, t⟩
  | _ => none

/-- ETYPE of a working type. -/
def fnEtype (t : ElemTy) : BitVec 2 := if t = .f64 then 1 else 0

/-- The written degree: the natural one, held to CAP and DMAX (R141). -/
def FnForm.degree (f : FnForm) (s : State) : Nat :=
  min f.nat (min (s.me.getV f.vd).desc.cap.toNat (degreeMax f.shape (fnEtype f.t)))

/-- Rows of the result per cluster. -/
def FnForm.rows (f : FnForm) (s : State) : Nat := (f.degree s + 1) ^ f.shape.toNat * rowsByEtype (fnEtype f.t)

/-- Before a function instruction that goes through: its checks pass, POLICY is legal and takes the natural degree, the rows
are there, nothing it reads is poisoned. -/
def FnForm.Ready (f : FnForm) (s : State) : Prop :=
  VecReady s f.vd (f.rows s) ∧ f.legal ∧ (s.me.getV f.vd).desc.policy ≠ 3 ∧
    ((s.me.getV f.vd).desc.policy = 0 → f.degree s = f.nat) ∧
    (∀ e, TakesPart s.me f.p e → (∀ r ∈ f.srcs, (s.me.getV r).badAny e = false) ∧
      ∀ r ∈ f.coords, (s.me.getV r).badElem e = false)

/-- The descriptor of the result (R140, R141, R144). -/
def FnForm.desc (f : FnForm) (s : State) : Desc :=
  { (s.me.getV f.vd).desc with
    deg := BitVec.ofNat 4 (f.degree s), shape := f.shape, basis := f.basis, etype := fnEtype f.t }

/-- Index `k` of a coefficient with `n` per axis on axis `a` (R131). -/
def axisIndex (n k a : Nat) : Nat := k / n ^ a % n

/-- Coefficient `k` of a result with `m` per axis as a modal source with `n` per axis gives it: the source's of the same index
tuple, or 0 beyond it (R156). -/
def sameTuple (v : VRegister) (e dim n m k : Nat) : Nat :=
  if ∀ a, a < dim → axisIndex m k a < n then
    v.coef e (((List.range dim).map fun a => axisIndex m k a * n ^ a).sum)
  else 0

/-- What a function instruction computes with (R135, R139): rounding mode, FTZ, working type. -/
structure Work where
  mode : Rm
  ftz : Bool
  t : ElemTy

/-- Round(a × b + c), Round(a × b) and Round(a ± b) of R135. -/
def Work.fma (w : Work) (a b c : Nat) : Nat :=
  (fpFma w.mode w.ftz w.t (numIn w.ftz w.t a) (numIn w.ftz w.t b) (numIn w.ftz w.t c)).1

def Work.mul (w : Work) (a b : Nat) : Nat := (fpMul w.mode w.ftz w.t (numIn w.ftz w.t a) (numIn w.ftz w.t b)).1

def Work.sum (w : Work) (minus : Bool) (a b : Nat) : Nat :=
  ((if minus then fpSub else fpAdd) w.mode w.ftz w.t (numIn w.ftz w.t a) (numIn w.ftz w.t b)).1

/-- A chain of FMAs from +0 over constants and values; a structural zero performs none (R135). -/
def Work.run (w : Work) (l : List (Option Nat × Nat)) : Nat :=
  l.foldl (fun acc e => match e.1 with
    | some c => w.fma c e.2 acc
    | none => acc) 0

/-- An element of a function register: bits by index tuple. -/
abbrev Tensor := List Nat → Nat

/-- A rational rounded once by nearest-even (R134); zero is a structural zero. -/
def rational (t : ElemTy) (neg : Bool) (num den : Nat) : Option Nat :=
  if num = 0 then none else some (fpDiv .rne false t (.fin neg num 0) (.fin false den 0)).1

def rationalBits (t : ElemTy) (neg : Bool) (num den : Nat) : Nat := (rational t neg num den).getD 0

/-- Dm and Fm of R137 for a source of degree p. -/
def derivativeTable (t : ElemTy) (p rows : Nat) : List (List (Option Nat)) :=
  (List.range rows).map fun k => (List.range (p + 1)).map fun i =>
    if k < i ∧ (i - k) % 2 = 1 then rational t false (2 * k + 1) 1 else none

def antiderivativeTable (t : ElemTy) (p : Nat) : List (List (Option Nat)) :=
  (List.range (p + 2)).map fun j => (List.range (p + 1)).map fun i =>
    if i = 0 ∧ j = 0 then rational t false 1 1
    else if i + 1 = j then rational t false 1 (2 * i + 1)
    else if i = j + 1 then rational t true 1 (2 * i + 1)
    else none

/-- M_k of R137. -/
def massOf (t : ElemTy) (idx : List Nat) : Nat :=
  rationalBits t false (2 ^ idx.length) (idx.foldl (fun a i => a * (2 * i + 1)) 1)

/-- Transform along an axis (R135). -/
def Work.along (w : Work) (m : List (List (Option Nat))) (axis : Nat) (u : Tensor) : Tensor := fun idx =>
  w.run ((m.getD (idx.getD axis 0) []).zipIdx.map fun e => (e.1, u (idx.set axis e.2)))

/-- The same along every axis, x first. -/
def Work.allAxes (w : Work) (m : List (List (Option Nat))) (d : Nat) (u : Tensor) : Tensor :=
  (List.range d).foldl (fun f a => w.along m a f) u

/-- The index tuple of coefficient `k` with `n` per axis, and back (R131). -/
def tupleAt (n d k : Nat) : List Nat := (List.range d).map fun a => axisIndex n k a
def placeIn (n : Nat) (idx : List Nat) : Nat := (idx.zipIdx.map fun e => e.1 * n ^ e.2).sum

/-- An element of a source read in the working type (R139). -/
def Work.source (w : Work) (v : VRegister) (e : Nat) : Tensor := fun idx =>
  let from_ : ElemTy := if v.desc.etype = 1 then .f64 else if v.desc.etype = 2 then .s32 else .f32
  let b := v.coef e (placeIn (v.desc.deg.toNat + 1) idx)
  if from_ = w.t then b else (convert w.mode w.ftz w.t from_ b).1

/-- A change of basis at one degree (R157). -/
def Work.inBasis (w : Work) (u : Tensor) (d p : Nat) (old new : BitVec 2) : Tensor :=
  if old = new ∨ p = 0 ∨ d = 0 then u
  else w.allAxes (fxConsts w.t (if new = 1 then matE p p else matA p p)) d u

/-- A raise or an L² projection to degree `k` (R148, R156). -/
def Work.atDegree (w : Work) (u : Tensor) (d p k : Nat) (basis : BitVec 2) : Tensor :=
  if k = p then u
  else if basis = 0 then fun idx => if idx.all fun i => decide (i ≤ p) then u idx else 0
  else w.allAxes (fxConsts w.t (if p < k then matI p k else matPj p k)) d u

/-- An operand of a sum at degree `n` on a shape of dimension `d`; a point is the constant function (R133, R148). -/
def Work.raised (w : Work) (u : Tensor) (dim p n d : Nat) (basis : BitVec 2) : Tensor :=
  if dim = 0 ∧ d ≠ 0 then fun idx => if basis = 0 ∧ (idx.any fun i => i != 0) = true then 0 else u []
  else w.atDegree u d p n basis

/-- An operand of a product at the GLL(g) nodes (R142). -/
def Work.atNodes (w : Work) (u : Tensor) (dim p g : Nat) (basis : BitVec 2) : Tensor :=
  if dim = 0 then fun _ => u []
  else if basis = 1 ∧ p = g then u
  else w.allAxes (fxConsts w.t (if basis = 1 then matI p g else matE p g)) dim u

/-- A natural result of degree `n` brought to degree `c` below it (R141). -/
def Work.cut (w : Work) (u : Tensor) (d n c : Nat) (basis policy : BitVec 2) : Tensor :=
  if policy = 1 then w.atDegree u d n c basis
  else w.allAxes (fxConsts w.t (if basis = 0 then matMc n c else matI n c)) d u

/-- P_j at a point by the three roundings a step of R159. -/
def Work.legendreAt (w : Work) (xi : Nat) : Nat → Nat
  | 0 => rationalBits w.t false 1 1
  | 1 => xi
  | j + 2 =>
    w.fma (w.mul (rationalBits w.t false (2 * j + 3) (j + 2)) xi) (w.legendreAt xi (j + 1))
      (w.mul (rationalBits w.t true (j + 1) (j + 2)) (w.legendreAt xi j))

/-- The sum of R159 contracted axis by axis, x first: `ps` are the values P_0 to P_p on each axis. -/
def Work.contracted (w : Work) : List (List Nat) → Tensor → Nat
  | [], u => u []
  | ps :: rest, u => w.contracted rest fun idx => w.run (ps.zipIdx.map fun e => (some e.1, u (e.2 :: idx)))

/-- One value of a trace (R158). -/
def Work.traced (w : Work) (u : Tensor) (d q : Nat) (nodal : Bool) (face orient : BitVec 3) : Tensor := fun idx =>
  let turned := orient.getLsbD 2
  let js := idx.getD (if turned then 1 else 0) 0
  let jt := idx.getD (if turned then 0 else 1) 0
  let plus := face.getLsbD 0
  let at_ := fun (i js jt : Nat) =>
    let others := [js, jt].take (d - 1)
    u (others.take (face.toNat / 2) ++ i :: others.drop (face.toNat / 2))
  if nodal then
    at_ (if plus then q else 0) (if orient.getLsbD 0 then q - js else js) (if orient.getLsbD 1 then q - jt else jt)
  else
    w.run ((List.range (q + 1)).map fun i =>
      let minus := ((orient.getLsbD 0 && js % 2 == 1) != (orient.getLsbD 1 && jt % 2 == 1)) != (!plus && i % 2 == 1)
      (rational w.t minus 1 1, at_ i js jt))

/-- The sources of a two-operand instruction in one basis (R139). -/
def Work.pair (w : Work) (a b : VRegister) (e : Nat) : Tensor × Tensor :=
  (w.source a e,
    if a.desc.shape ≠ 0 ∧ b.desc.shape ≠ 0 then
      w.inBasis (w.source b e) b.desc.shape.toNat b.desc.deg.toNat b.desc.basis a.desc.basis
    else w.source b e)

/-- An element of a sum, difference or product, for the degree `r` written (R142, R148, R149). -/
def Work.binary (w : Work) (f : FnForm) (a b : VRegister) (policy : BitVec 2) (r e : Nat) (op : Option Bool) : Tensor :=
  let u := w.pair a b e
  let d := f.shape.toNat
  let p := a.desc.deg.toNat
  let q := b.desc.deg.toNat
  match op with
  | some minus =>
    let x := w.raised u.1 a.desc.shape.toNat p f.nat d f.basis
    let y := w.raised u.2 b.desc.shape.toNat q f.nat d f.basis
    let z : Tensor := fun idx => w.sum minus (x idx) (y idx)
    if r < f.nat then w.cut z d f.nat r f.basis policy else z
  | none =>
    let g := if policy = 2 ∧ r < f.nat then r else f.nat
    let x := w.atNodes u.1 a.desc.shape.toNat p g f.basis
    let y := w.atNodes u.2 b.desc.shape.toNat q g f.basis
    let z : Tensor := fun idx => w.mul (x idx) (y idx)
    if f.basis = 0 then w.allAxes (fxConsts w.t (matA g r)) d z
    else if r < g then w.allAxes (fxConsts w.t (matPj g r)) d z
    else z

/-- The inner product of R151. -/
def Work.inner (w : Work) (a b : VRegister) (e : Nat) : Nat :=
  let modal := fun (v : VRegister) =>
    if v.desc.shape = 0 then fun (_ : List Nat) => w.source v e []
    else w.inBasis (w.source v e) v.desc.shape.toNat v.desc.deg.toNat v.desc.basis 0
  let d := (if a.desc.shape = 0 then b.desc.shape else a.desc.shape).toNat
  let m := min a.desc.deg.toNat b.desc.deg.toNat
  (List.range ((m + 1) ^ d)).foldl (fun acc k =>
    let idx := tupleAt (m + 1) d k
    w.fma (w.mul (modal a idx) (modal b idx)) (massOf w.t idx) acc) 0

/-- What a function instruction of a form gives element `e` where degree `r` is written: bits by index tuple (R148 to R159). -/
def fnValue (i : Instr) (s : State) (f : FnForm) (r e : Nat) : Option Tensor :=
  let V := fun (v : VReg) => s.me.getV v
  let policy := (V f.vd).desc.policy
  let w20 : Work := ⟨modeOf .dyn s.me.csr.rm, s.me.csr.ftz, f.t⟩
  let w21 := fun (rm : Rm) => Work.mk (modeOf rm s.me.csr.rm) s.me.csr.ftz f.t
  let dim := fun (v : VReg) => (V v).desc.shape.toNat
  let q := fun (v : VReg) => (V v).desc.deg.toNat
  let basis := fun (v : VReg) => (V v).desc.basis
  let cut := fun (w : Work) (u : Tensor) => if r < f.nat then w.cut u f.shape.toNat f.nat r f.basis policy else u
  match i with
  | .fadd _ a b _ => some (w20.binary f (V a) (V b) policy r e (some false))
  | .fsub _ a b _ => some (w20.binary f (V a) (V b) policy r e (some true))
  | .fmul _ a b _ => some (w20.binary f (V a) (V b) policy r e none)
  | .fdot _ a b _ => some fun _ => w20.inner (V a) (V b) e
  | .fnorm _ a _ => some fun _ => w20.inner (V a) (V a) e
  | .fscale _ a x _ => some (cut w20 fun idx => w20.mul (w20.source (V a) e idx) (Z (s.x x) % 2 ^ f.t.width))
  | .fdiff _ a axis _ rm _ =>
    let w := w21 rm
    some (cut w (w.along (if basis a = 1 then fxConsts f.t (matDn (q a)) else derivativeTable f.t (q a) (f.nat + 1)) axis.toNat
      (w.source (V a) e)))
  | .fint _ a _ rm _ =>
    let w := w21 rm
    let u := w.source (V a) e
    some fun _ =>
      if basis a = 0 then w.mul (rationalBits f.t false (2 ^ dim a) 1) (u (List.replicate (dim a) 0))
      else w.run ((List.range ((q a + 1) ^ dim a)).map fun k =>
        let idx := tupleAt (q a + 1) (dim a) k
        (some (weightConst f.t (q a) idx), u idx))
  | .fanti _ a axis _ rm _ =>
    let w := w21 rm
    let u := w.source (V a) e
    some (cut w (if basis a = 1 then
        (List.range (dim a)).foldl (fun v k =>
          w.along (fxConsts f.t (if k = axis.toNat then matFn (q a) else matI (q a) (q a + 1))) k v) u
      else fun idx =>
        if idx.zipIdx.all fun x => x.2 == axis.toNat || decide (x.1 ≤ q a) then
          w.along (antiderivativeTable f.t (q a)) axis.toNat u idx
        else 0))
  | .fproj _ a _ _ rm _ | .fraise _ a _ _ rm _ =>
    let w := w21 rm
    some (cut w (w.atDegree (w.source (V a) e) (dim a) (q a) f.nat (basis a)))
  | .fcvt _ a _ _ rm _ =>
    let w := w21 rm
    some (cut w (w.inBasis (w.source (V a) e) (dim a) (q a) (basis a) f.basis))
  | .ftrace _ a face orient _ rm _ =>
    let w := w21 rm
    some (cut w (w.traced (w.source (V a) e) (dim a) (q a) (basis a == 1) face orient))
  | .feval _ a _ _ _ rm _ =>
    let w := w21 rm
    some fun _ =>
      w.contracted (f.coords.map fun x => (List.range (q a + 1)).map (w.legendreAt (w.source (V x) e [])))
        (w.inBasis (w.source (V a) e) (dim a) (q a) (basis a) 0)
  | _ => none

/-! Waits and events of a hart (R211 to R222, R247 to R252). -/

/-- An event of hart `h`: the acting hart stays the same one, and `P` holds of the two states as hart `h` sees them. -/
def AtHart (s t : State) (h : Nat) (P : State → State → Prop) : Prop := t.cur = s.cur ∧ P (s.actAs h) (t.actAs h)

/-- The acting hart waits at its instruction: registers, PC and everything else as before. -/
def Waits (s t : State) (w : Wait) : Prop :=
  t.me.wait = w ∧ t.me.wake = none ∧ t.me.x = s.me.x ∧ t.me.v = s.me.v ∧ t.me.p = s.me.p ∧ t.me.pc = s.me.pc ∧
    t.me.csr = s.me.csr ∧ { t with harts := s.harts, seqNo := s.seqNo } = s ∧ ∀ h, h ≠ s.cur → t.hart h = s.hart h

/-- The no-progress trap of a wait without a strip (R215). -/
def NoProgress (s t : State) : Prop := Trapped s t 9 (ofZ (511 * 2 ^ 48 + s.me.pc.toNat % 2 ^ 48)) s.me.csr.vri

/-- A strip-mine branch: target, and address registers with their strides (R206). -/
def smbOf (i : Instr) (s : State) : Option (Word64 × List (XReg × BitVec 16)) :=
  match i with
  | .smb o => some (s.me.pc + ofS (o.toInt * 4), [])
  | .smbStrides o r0 r1 r2 r3 s0 s1 s2 s3 =>
    some (s.me.pc + ofS (o.toInt * 4), [(r0, s0), (r1, s1), (r2, s2), (r3, s3)])
  | _ => none

/-- A 16-byte word at an aligned address of a scratchpad, readable and stored to at `key` without side effects (R221). -/
def WordAt (s : State) (va : Word64) (key : Nat) : Prop :=
  Quiet s ∧ va.toNat % 16 = 0 ∧
    (va.toNat < 0x100000 ∨ (0x7F0000000000 ≤ va.toNat ∧ va.toNat < 0x7F0000400000) ∨
      (0x7F0010000000 ≤ va.toNat ∧ va.toNat < 0x7F0018000000)) ∧
    s.resolveMe va.toNat .store = .ok key ∧ s.resolveMe va.toNat .load = .ok key ∧ ¬ BeyondSpad s key 16 ∧
    s.poisonedAt key 16 = none

/-- The acting hart has retired, x register `rd` aside as it was, after stores that left storage as `f` says. -/
def RetiresStoring (s t : State) (rd : XReg) (v : Word64) (f : Nat → Byte) : Prop :=
  t.x rd = (if rd = 0 then 0 else v) ∧ (∀ r, r ≠ rd → t.x r = s.x r) ∧ Next s t 0 ∧ ∀ a, t.byte a = f a

/-- A hart whose wait's timer has run out: not woken, not halted (R215). -/
def TimedOut (h : Hart) : Prop := h.wake = none ∧ h.csr.halt = false ∧ 2 ^ 20 ≤ h.waited

/-- The state with queue `q` of the acting hart's core holding `l`. -/
def withQueue (s : State) (q : Nat) (l : List (Word64 × Bool)) : State :=
  s.setCore s.myCoreId { s.myCore with q := fset [] s.myCore.q q l }

def queueOf (s : State) (q : Nat) : List (Word64 × Bool) := fget [] s.myCore.q q

/-- The state with the acting hart's pending generation of a barrier id set (R248). -/
def withPending (s : State) (l : BitVec 2) (id : BitVec 5) (g : Option Word32) : State :=
  s.setMe (s.me.setPending l.toNat id.toNat g)

/-- The state with the acting hart's wait on a barrier id over: no generation pending, no arrival held. -/
def passedBar (s : State) (l : BitVec 2) (id : BitVec 5) : State :=
  s.setMe { s.me.setPending l.toNat id.toNat none with barAt := none }

/-- Barrier `num` of the acting hart's core, press or die. -/
def barOf (s : State) (l : BitVec 2) (num : Nat) : Barrier := fget Barrier.reset (s.bars l.toNat) num

/-- A barrier after an arrival with participant count `n` (R248). -/
def arrived (b : Barrier) (n : Word64) : Barrier :=
  let e := if b.count = 0 then n.setWidth 16 else b.expect
  if b.count + 1 = e then { b with expect := e, count := 0, gen := b.gen + 1 }
  else { b with expect := e, count := b.count + 1 }

/-- Whether the acting hart's pending generation is over: none, or GEN of the bound barrier is another by now. -/
def Passed (s : State) (l : BitVec 2) (id : BitVec 5) : Prop :=
  ∀ g, s.me.pending l.toNat id.toNat = some g → ∀ n, s.boundBar l.toNat id.toNat = some n → (barOf s l n).gen ≠ g

/-! Engines (R224 to R236). -/

/-- A push: destination, descriptor address, the kinds its mnemonic accepts. -/
def pushOf (i : Instr) : Option (XReg × XReg × List Nat) :=
  match i with
  | .cpCopy a b => some (a, b, [0])
  | .cpGather a b => some (a, b, [1])
  | .cpDec a b => some (a, b, [2])
  | .eqPush a b => some (a, b, [0, 1, 2])
  | _ => none

/-- The command in the four doublewords of a descriptor (R225). -/
def cmdIn (hart seq order d0 d1 d2 d3 : Nat) : Cmd :=
  { seq := BitVec.ofNat 32 seq, hart := hart, kind := BitVec.ofNat 8 d0, len := BitVec.ofNat 32 (d0 / 2 ^ 32),
    tag := BitVec.ofNat 16 (d0 / 2 ^ 16), ord := d0.testBit 10, trapf := d0.testBit 9, norec := d0.testBit 8,
    dst := ofZ d1, src := ofZ d2, rszm1 := d3 / 2 ^ 52, idxoff := d3 / 2 ^ 32 % 2 ^ 20, dstmax := d3 / 2 ^ 32,
    syncen := d3.testBit 16, syncoff := d3 % 2 ^ 16 * 16, order := order }

/-- The format R226 asks of a descriptor, and the scratchpad limits of its sync word and index list. -/
def DescriptorOk (kinds : List Nat) (spad d0 d1 d2 d3 : Nat) : Prop :=
  d0 % 256 ∈ kinds ∧ d0 / 2 ^ 11 % 2 ^ 5 = 0 ∧ d3 / 2 ^ 17 % 2 ^ 15 = 0 ∧ (d0 % 256 = 0 → d3 / 2 ^ 32 = 0) ∧
    (d1 / 2 ^ 47 = 0 ∨ d1 / 2 ^ 47 = 2 ^ 17 - 1) ∧ (d2 / 2 ^ 47 = 0 ∨ d2 / 2 ^ 47 = 2 ^ 17 - 1) ∧
    (d0 % 256 = 1 → d3 / 2 ^ 32 % 4 = 0) ∧ (d3.testBit 16 = true → d3 % 2 ^ 16 * 16 + 16 ≤ spad) ∧
    (d0 % 256 = 1 → d0 / 2 ^ 32 ≠ 0 → d3 / 2 ^ 32 % 2 ^ 20 + 4 * (d0 / 2 ^ 32) ≤ spad) ∧
    ¬ (0x7F0100000000 ≤ d1 ∧ d1 < 0x7F0140000000)

/-- The acting hart's core with a command in the FIFO of engine `n`: it takes the engine's SEQ (R227). -/
def withCommand (s : State) (n : Nat) (c : Cmd) : State :=
  let e := s.myCore.eng n
  { s.setCore s.myCoreId (s.myCore.setEng n
      { e with fifo := e.fifo ++ [{ c with seq := e.seq, order := s.seqNo }], seq := e.seq + 1 }) with
    seqNo := s.seqNo + 1 }

/-- The acting hart with records `l` at engine `n` (R231). -/
def withRecords (s : State) (n : Nat) (l : List CompletionRec) : State := s.setMe (s.me.setOut n l)

/-- Doubleword 0 of a completion record: SEQ, TAG, STATUS and kind from the top (R231). -/
def recordWord (r : CompletionRec) : Word64 :=
  ofZ (r.seq.toNat * 2 ^ 32 + r.tag.toNat * 2 ^ 16 + r.status.toNat * 2 ^ 8 + r.kind.toNat)

/-! Matrix instructions (R169 to R197). -/

/-- The command of a matrix instruction, with the register values it captures at issue (R171). -/
def matOf (i : Instr) (s : State) : Option MatCmd :=
  match i with
  | .mattach a b c => some (.attach a (s.x b) (s.x c))
  | .mdetach => some .detach
  | .mzero n => some (.zero n.toNat)
  | .mldb n k z b c => some (.ldb n.toNat (k == 1) (z == 1) (s.x b) (s.x c))
  | .msign a b n => some (.sign a (s.x b) n.toNat)
  | .msave n b => some (.save n.toNat (s.x b))
  | .mrest n b => some (.rest n.toNat (s.x b))
  | .mmacc n k b t tb boff nblk rowb steps =>
    some (.acc false n.toNat k.toNat (s.x b) t tb boff.toNat nblk.toNat rowb.toNat (steps.toNat + 1))
  | .msmacc n k b t tb boff nblk rowb steps =>
    some (.acc true n.toNat k.toNat (s.x b) t tb boff.toNat nblk.toNat rowb.toNat (steps.toNat + 1))
  | .mresolve n t rm nblk rowb => some (.resolve n.toNat t rm nblk.toNat rowb.toNat)
  | .mcmp a b c t x n => some (.cmp a (s.x b) (s.x c) t x n.toNat)
  | .mdrain n b c t rm clr sat pack layout nblk rowb =>
    some (.drain n.toNat (s.x b) (if c = 0 then none else some ((s.x c).setWidth 32)) t rm clr sat pack layout.toNat
      nblk.toNat rowb.toNat)
  | .mdrainRaw n b clr nblk rowb => some (.drainRaw n.toNat (s.x b) clr nblk.toNat rowb.toNat)
  | .mdrainp n b clr nblk rowb => some (.drainp n.toNat (s.x b) clr nblk.toNat rowb.toNat)
  | _ => none

/-- The matrix queue of the acting hart's core is empty and nothing holds it back. -/
def QueueFree (s : State) : Prop := s.myCore.mq = [] ∧ s.matrixBusy s.myCoreId = false

/-- A raw transfer behind an `mdrainp.clr` of its core that waits in the queue or whose tile is on its way: whether the sender's rows
change state is not known before the tile arrives (R172, R194). -/
def Unsure (s : State) (cmd : MatCmd) : Prop :=
  ((∃ p d c m r, cmd = .drainRaw p d c m r) ∨ ∃ p x c m r, cmd = .drainp p x c m r) ∧
    ((∃ h p x m r, (h, MatCmd.drainp p x true m r) ∈ s.myCore.mq) ∨
      ∃ h x p m r, h / 8 = s.myCoreId ∧ (s.hart h).wait = .tile x p m r true)

/-- The acting hart has retired a matrix instruction: x and vector registers, PC, loops, storage. -/
def MatRetires (s t : State) : Prop :=
  t.me.x = s.me.x ∧ t.me.v = s.me.v ∧ t.me.pc = s.me.retire.pc ∧ t.me.loops = s.me.retire.loops ∧
    t.me.csr.instret = s.me.csr.instret + 1 ∧ t.me.wait = .none ∧ t.cur = s.cur ∧
    ∀ h, h ≠ s.cur → { t.hart h with wake := (s.hart h).wake } = s.hart h

/-- Physical block `k` of a plane of the acting hart's press. -/
def blkOf (s : State) (plane k : Nat) : Block := fget Block.zero s.myPress.blocks (plane * 4 + k)

/-- Cell `i` (row × 96 + column) of an unresolved block. -/
def cellAt (b : Block) (i : Nat) : Cell := fget (.fin 0) b.cells i

/-- Bits of cell `i` of a resolved block. -/
def valAt (b : Block) (i : Nat) : Nat := (fget 0 b.vals i).toNat

/-- An unresolved cell as a number: v × 2^(SHIFT − 40) (R40). -/
def cellNum (shift : Int) (c : Cell) : Machine.Num :=
  match c with
  | .fin v => .fin v.msb v.toInt.natAbs (shift - 40)
  | .pinf => .inf false
  | .ninf => .inf true
  | .nan => .nan false

/-- The row blocks `mattach` gives: the home block and those that follow it around the press, as many as asked for, up to the
first that a core of the press holds or whose core is attached (R173). -/
def attachable (s : State) (rows : Nat) : List Nat :=
  let home := s.myCoreId % 4
  let at_ := fun (j : Nat) => (s.core (s.myCoreId / 4 * 4 + j)).blocks
  ((List.range (rows / 16)).map fun i => (home + i) % 4).takeWhile fun b =>
    ((List.range 4).all fun j => !(at_ j).contains b) && (b == home || (at_ b).isEmpty)

/-- A byte range in the acting hart's own scratchpad window that passes its checks, and the key of its first byte. -/
def OwnRange (s : State) (va : Word64) (n : Nat) (acc : Acc) (key : Nat) : Prop :=
  s.cur < 4096 ∧ va.toNat + n ≤ 0x100000 ∧ s.rangeFailMe va.toNat n acc = none ∧ key = 2 ^ 56 + s.myCoreId * 2 ^ 20 + va.toNat ∧
    s.resolveMe va.toNat acc = .ok key

/-- K elements a step of an accumulate takes (R181). -/
def kPerStep (ta : ElemTy) : Nat := if ta = .t2 then 32 else if ta.width = 16 then 4 else 8

/-- No bank word of bytes, and of a scaled accumulate no scale, that it reads of a B buffer is poisoned (R184). -/
def CleanB (b : BBuf) (scaled : Bool) (ta tb : ElemTy) (boff steps : Nat) : Prop :=
  let k := kPerStep ta
  let w := tb.width / 8
  (∀ e ∈ b.bad, e.2 = true → e.1 % 32 * 32 + 32 ≤ boff * k * w ∨ (boff + steps) * k * w ≤ e.1 % 32 * 32) ∧
    (scaled = true → ∀ e ∈ b.badScales, e.2 = true →
      e.1 % 2 * 16 + 16 ≤ boff * k / 32 ∨ (boff + steps) * k / 32 ≤ e.1 % 2 * 16)

/-- No bank word of a block is poisoned, or none of row `m` (R323; log entry 28: which words those are). -/
def CleanBlock (b : Block) : Prop := ∀ e ∈ b.bad, e.2 = false
def CleanRow (b : Block) (m : Nat) : Prop := ∀ e ∈ b.bad, e.2 = true → e.1 / 60 ≠ m

/-- Bits of a type as an exact number, subnormals as zeros under FTZ (R26 to R29, R35). -/
def numAt (ftz : Bool) (t : ElemTy) (b : Nat) : Machine.Num :=
  if t.isInt then .fin (decide (intVal t b < 0)) (intVal t b).natAbs 0 else numIn ftz t b

def isFinite (x : Machine.Num) : Bool :=
  match x with
  | .fin _ _ _ => true
  | _ => false

/-- The exact product of finite numbers. -/
def times (a b : Machine.Num) : Machine.Num :=
  match a, b with
  | .fin n m e, .fin n' m' e' => .fin (n != n') (m * m') (e + e')
  | _, _ => .nan false

/-- `Fix` of R41: the integer below x / 2^(SHIFT − 40). -/
def fixOf (shift : Int) (x : Machine.Num) : Int :=
  match x with
  | .fin n m e =>
    let v : Int := if n then -(m : Int) else m
    if 0 ≤ e + 40 - shift then v * 2 ^ (e + 40 - shift).toNat else v / 2 ^ (shift - 40 - e).toNat
  | _ => 0

/-- Element `k` of row `m` of an A panel of `nr` rows at `key` (R28, R182). -/
def operandA (s : State) (key nr : Nat) (ta : ElemTy) (m k : Nat) : Machine.Num :=
  let kb := kPerStep ta
  let at_ := key + (k / kb * nr + m) * 8
  if ta = .t2 then
    match (s.byte (at_ + k % kb / 4)).toNat / 4 ^ (k % 4) % 4 with
    | 1 => .fin false 1 0
    | 3 => .fin true 1 0
    | _ => .fin false 0 0
  else numAt s.me.csr.ftz ta (leValue s (at_ + k % kb * (ta.width / 8)) (ta.width / 8))

/-- The element at K index `i` of column `n` of a B buffer (R176, R181). -/
def operandB (s : State) (b : BBuf) (tb : ElemTy) (n i : Nat) : Machine.Num :=
  let w := tb.width / 8
  numAt s.me.csr.ftz tb ((List.range w).map fun j => (fget 0 b.bytes (n * 1024 + i * w + j)).toNat * 256 ^ j).sum

/-- The factors of the k-th product of a cell in row `m`, column `n` of an accumulate: A, B and with scales `ScaleA` of v31 and the
buffer's scale slot (R182, R183). -/
def factors (s : State) (scaled : Bool) (b : BBuf) (key nr boff depth : Nat) (ta tb : ElemTy) (m n k : Nat) :
    List Machine.Num :=
  let i := boff * kPerStep ta + k
  let j := m * (depth / 32) + k / 32
  [operandA s key nr ta m k, operandB s b tb n i] ++
    if scaled then
      [numAt s.me.csr.ftz .bf16 (((s.me.getV 31).row (j / 2) 0).toNat / 2 ^ (16 * (j % 2)) % 2 ^ 16),
        numAt s.me.csr.ftz .bf16 (fget 0 b.scales (n * 32 + i / 32)).toNat]
    else []

/-- What the k-th product adds to a finite cell (R41, R42). -/
def added (shift : Int) (l : List Machine.Num) : Int := fixOf shift (l.foldl times (.fin false 1 0))

/-- A packed source of `units` units at `key` (R178, R190): element type, bytes in all, the unpacked stream, where the scales begin. -/
def PackedAt (s : State) (key units : Nat) (scaled : Bool) (ty : ElemTy) (total : Nat) (stream : Nat → Byte) (scales : Nat) : Prop :=
  let h := leValue s key 8
  let sz := ty.width / 8
  let e := units * 768 / sz
  let values := key + 16 + (e + 63) / 64 * 8
  let kept := h % 2 ^ 32
  let bit := fun (i : Nat) => (s.byte (key + 16 + i / 8)).getLsbD (i % 8)
  let rank := fun (i : Nat) => ((List.range i).filter bit).length
  (sz = 1 ∨ sz = 2) ∧ h / 2 ^ 48 = 0x5A01 ∧ h / 2 ^ 44 % 16 = ty.toCode.toNat ∧ h.testBit 41 = true ∧ h.testBit 40 = scaled ∧
    h / 2 ^ 32 % 256 * 96 = e ∧ rank e = kept ∧ scales = values + (kept * sz + 7) / 8 * 8 ∧
    total = scales - key + (if scaled then 48 * units else 0) ∧
    stream = fun q => if bit (q / sz) then s.byte (values + rank (q / sz) * sz + q % sz) else 0

/-- Element number of element (m, n) in the data of a tile of `nr` rows (R189), `size` bytes an element. -/
def layoutAt (layout size nr m n : Nat) : Nat :=
  let kb := 8 / size
  match layout with
  | 1 => (n / kb * nr + m) * kb + n % kb
  | 2 => (m / kb * 96 + n) * kb + m % kb
  | _ => m * 96 + n

/-- What a typed drain makes of the bits of a cell of type `src` (R189): copied where the type is the same and there is no scale, with
SAT too (log entry 64, the model's choice); else the exact number, times the scale, rounded once and under SAT held to the greatest
finite value. -/
def drainOf (mode : Rm) (ftz sat : Bool) (src t : ElemTy) (scale : Option Word32) (bits : Nat) : FpRes :=
  let to_ := fun (x : Machine.Num) (f : FpFlags) =>
    if t.isInt then (zBits t (fpToInt mode t x).1, f ||| (fpToInt mode t x).2)
    else
      let r := roundNum mode ftz t x
      (if sat = true ∧ r.1 = infBits t false then infBits t false - 1
        else if sat = true ∧ r.1 = infBits t true then infBits t true - 1 else r.1, f ||| r.2)
  match scale with
  | none =>
    if src = t then (bits, 0)
    else if src.isInt ∧ t.isInt then (zBits t (saturate t (intVal src bits)), 0)
    else to_ (numAt ftz src bits) 0
  | some k =>
    let p := accProduct (numAt ftz src bits) (numAt ftz .f32 k.toNat)
    to_ p.1 p.2

/-- Element (m, n) of a typed drain of the blocks `l`. -/
def drained (s : State) (l : List Block) (rm : Rm) (sat : Bool) (t : ElemTy) (scale : Option Word32) (m n : Nat) : FpRes :=
  let b := l.getD (m / 16) Block.zero
  match b.res with
  | some src => drainOf (modeOf rm s.me.csr.rm) s.me.csr.ftz sat src t scale (valAt b (m % 16 * 96 + n))
  | none => (0, 0)

/-- Row and column of every element of `nr` rows. -/
def places (nr : Nat) : List (Nat × Nat) := (List.range (nr * 96)).map fun i => (i / 96, i % 96)

/-- Bytes of a block's cells in an image, and its state code (R195). -/
def imageBytesOf (r : Option ElemTy) : Nat := 1536 * (match r with | none => 20 | some t => t.width / 8)
def stateCode (r : Option ElemTy) : Nat := match r with | none => 15 | some t => t.toCode.toNat

/-- Where the cells of block `j` of an image at `key` begin. -/
def cellsAt (key : Nat) (states : List (Option ElemTy)) (j : Nat) : Nat := key + 32 + ((states.take j).map imageBytesOf).sum

/-- Storage at `at_` holds the cells of a block as an image (R40, R195). A NaN marker's code is 0 or 3 (log entry 65). -/
def HoldsCells (s : State) (at_ : Nat) (b : Block) : Prop :=
  ∀ i, i < 1536 →
    let w := at_ + i * 20
    match b.res, cellAt b i with
    | some t, _ => leValue s (at_ + i * (t.width / 8)) (t.width / 8) = valAt b i % 256 ^ (t.width / 8)
    | none, .fin v => (leValue s w 10 + leValue s (w + 10) 10) % 2 ^ 80 = v.toNat ∧ leValue s (w + 10) 10 % 2 = 0
    | none, .pinf => leValue s w 10 = 1 ∧ leValue s (w + 10) 10 = 1
    | none, .ninf => leValue s w 10 = 2 ∧ leValue s (w + 10) 10 = 1
    | none, .nan => (leValue s w 10 = 0 ∨ leValue s w 10 = 3) ∧ leValue s (w + 10) 10 = 1

/-- A block has the cells that storage at `at_` holds for state `r` (R40, R196). -/
def ReadCells (s : State) (at_ : Nat) (r : Option ElemTy) (b : Block) : Prop :=
  b.res = r ∧ b.bad = [] ∧ ∀ i, i < 1536 →
    let w := at_ + i * 20
    match r with
    | some t => valAt b i = leValue s (at_ + i * (t.width / 8)) (t.width / 8)
    | none => cellAt b i =
        if leValue s (w + 10) 10 % 2 = 0 then .fin (BitVec.ofNat 80 (leValue s w 10 + leValue s (w + 10) 10))
        else if leValue s w 10 % 4 = 1 then .pinf else if leValue s w 10 % 4 = 2 then .ninf else .nan

/-- The acting hart's blocks of a logical range of a plane, and INX and OVF of a plane. -/
def rangeOf (s : State) (plane rowb nblk : Nat) : List Block :=
  ((s.myCore.blocks.drop rowb).take (nblk + 1)).map (blkOf s plane)
def stickyOf (c : Core) (plane : Nat) : Nat := if plane = 0 then bitN c.inx0 0 + bitN c.ovf0 1 else bitN c.inx1 0 + bitN c.ovf1 1

/-- The acting hart's core holds a logical range, its row blocks each once. -/
def HoldsRange (s : State) (rowb nblk : Nat) : Prop :=
  rowb + nblk + 1 ≤ s.myCore.blocks.length ∧ s.myCore.blocks.Nodup ∧ ∀ k ∈ s.myCore.blocks, k < 4

/-- After a drain of a logical range: its blocks unresolved zero with CLR, else as they were; every other block as it was (R191). -/
def ClearedBy (s t : State) (clr : Bool) (plane rowb nblk : Nat) : Prop :=
  ∀ p k, p < 2 → k < 4 → blkOf t p k =
    if clr = true ∧ p = plane ∧ k ∈ (s.myCore.blocks.drop rowb).take (nblk + 1) then { Block.zero with shift := s.myCore.shift }
    else blkOf s p k

/-- The keys of the bytes of a list of pieces, in order. -/
def segKeys (l : List (Nat × Nat)) : List Nat := l.flatMap fun e => (List.range e.2).map (e.1 + ·)

/-- The table entries that a translation of `n` bytes at `va` for a context reads, where it is neither a window's nor cached, hold none
of these bytes and lie in memory of the context's VF: writing the bytes changes no translation on the way (R301 to R303). -/
def TablesApart (s : State) (ctx va n : Nat) (keys : List Nat) : Prop :=
  ∀ i, i < n → inWindow ((va + i) % 2 ^ 64) = false → s.cached ctx ((va + i) % 2 ^ 48) = none →
    ∀ k ∈ s.walkKeys (vfOfCtx ctx) ((va + i) % 2 ^ 48) 4 1 (s.ctx ctx).cfg.tbase,
      (isPhys k = false ∨ s.ownsPa (vfOfCtx ctx) k = true) ∧ ∀ b, b < 8 → k + b ∉ keys

/-- The keys behind an image or tile the acting hart stores. -/
def storeKeys (s : State) (va : Word64) (n : Nat) : List Nat := segKeys (s.segmentsMe va.toNat n .store)

/-! Worklists (R270 to R295). -/

/-- A record with its arrival number. -/
def record (d0 d1 : Word64) (arrival : Nat) : Rec := { d0 := d0, d1 := d1, arrival := arrival, headerRead := false }

/-- Bin and frame of a record's first doubleword (R270). -/
def binIn (d0 : Word64) : Nat := Z d0 / 2 ^ 56
def frameIn (d0 : Word64) : Word64 := ofS (BitVec.ofNat 48 (Z d0)).toInt

/-- A record `wpush` takes: reserved bits zero, the frame 64-byte aligned in global memory or the die window (R270, R283). -/
def RecordOk (d0 d1 : Word64) : Prop :=
  Z d1 < 2 ^ 12 ∧ Z (frameIn d0) % 64 = 0 ∧
    ((0x100000 ≤ Z (frameIn d0) ∧ Z (frameIn d0) < 0x7F0000000000) ∨
      (0x7F0010000000 ≤ Z (frameIn d0) ∧ Z (frameIn d0) < 0x7F0018000000))

/-- The acting hart has retired; its x registers but `rd`, and storage, as before. -/
def RetiresX (s t : State) (rd : XReg) (v : Word64) : Prop :=
  t.x rd = (if rd = 0 then 0 else v) ∧ (∀ r, r ≠ rd → t.x r = s.x r) ∧ t.me.pc = s.me.retire.pc ∧
    t.me.loops = s.me.retire.loops ∧ t.me.csr = { s.me.csr with instret := s.me.csr.instret + 1 } ∧ t.me.v = s.me.v ∧
    t.me.p = s.me.p ∧ t.me.wait = .none ∧ t.cur = s.cur ∧ ∀ a, t.byte a = s.byte a

/-- Die and context of the acting hart. -/
def myDie (s : State) : Nat := s.cur / 1024
def myBin (s : State) (b : Nat) : Bin := s.bin s.myCtxId (myDie s) b

/-- The baseline state of a hart's registers (R279). -/
def Baseline (k : Hart) (globals : Word64) (old : HartCsr) : Prop :=
  (∀ r, k.getX r = if r = 4 then globals else 0) ∧ k.v = [] ∧ k.p = [] ∧ k.loops = [] ∧ k.handler = false ∧
    k.task = none ∧ k.window = none ∧ k.wait = .none ∧ k.grant = 0 ∧
    k.csr = { HartCsr.reset with dskid := old.dskid, wphit := old.wphit, stop := old.stop, halt := old.halt,
                                 instret := k.csr.instret }

/-- The acting hart has left its task and is back at its dispatch PC, its completion records discarded (R281). -/
def Left (s t : State) : Prop :=
  Baseline t.me s.myCtx.globals s.me.csr ∧ t.me.out0 = [] ∧ t.me.out1 = [] ∧ t.me.pc = s.me.dispatchPc

/-- The acting hart has entered the task of a record (R280). -/
def Entered (s t : State) (r : Rec) (f : Frame) : Prop :=
  let k := t.me
  k.task = some { record := r, xmask := f.xmask, committed := false } ∧ k.pc = f.pc ∧ k.dispatchPc = s.me.pc ∧
    k.csr.instret = s.me.csr.instret + 1 ∧ k.csr.wclass.toNat = r.eclass % 4 ∧ k.csr.leaseMin.toNat = r.lmin ∧
    k.csr.leasePref.toNat = max r.lmin r.lpref ∧ (k.wait = .none ∨ k.wait = .taskLease) ∧
    (r.lmin = 0 → k.wait = .none) ∧ k.out0 = s.me.out0 ∧ k.out1 = s.me.out1 ∧
    ∀ x, k.getX x = match f.regs.find? fun e => e.1 == x.toNat with
      | some e => e.2
      | none => if x = 2 then f.sp else if x = 3 then r.frame else if x = 4 then s.myCtx.globals else 0

/-- A drained core: by wear, or its press waits for repair (R316, R344, R345). -/
def Drained (s : State) (core : Nat) : Prop :=
  let l := (s.wearOf (s.physCore core)).life
  l = .drained ∨ l = .retired ∨ (s.press (pressOfCore core)).repair = true

/-- BIN of every record of a context that counts toward the floor (R273): queued on chip, in a ring or on its way, or of a task
that runs and has not been parked for more than 256 clk. -/
def liveBins (s : State) (ctx : Nat) : List Nat :=
  let c := s.ctx ctx
  (c.bins.flatMap (fun e => e.2.chip ++ e.2.ring.map Prod.snd) ++ c.flight.flatMap (fun w => w.recs) ++
      c.xflight.flatMap Prod.snd).map (fun r => binIn r.d0) ++
    s.harts.filterMap fun e =>
      if (s.press (pressOfHart e.1)).resident = some ctx ∧ (s.hart e.1).parked ≤ 257 then
        e.2.task.map fun t => binIn t.record.d0
      else none

/-- A bin whose records are eligible (R274). -/
def EligibleBin (s : State) (ctx b : Nat) : Prop :=
  liveBins s ctx ≠ [] ∧ ∀ n ∈ liveBins s ctx, b ≤ n + (s.ctx ctx).wbound.toNat

/-- An eligible bin of a die that holds a record which `ok` allows, on chip or in its ring. -/
def HoldsOk (s : State) (ctx die : Nat) (ok : Rec → Prop) (b : Nat) : Prop :=
  b < 256 ∧ EligibleBin s ctx b ∧ ∃ r ∈ (s.bin ctx die b).chip ++ (s.bin ctx die b).ring.map Prod.snd, ok r

/-- ORDER and energy class of a record (R270). -/
def orderIn (r : Rec) : Nat := Z r.d0 / 2 ^ 48 % 256
def classIn (r : Rec) : Nat := Z r.d1 / 2 ^ 8 % 4

/-- The record R275 chooses on a die among those `ok` allows. -/
def Chosen (s : State) (ctx die : Nat) (ok : Rec → Prop) (r : Rec) : Prop :=
  ∃ b, HoldsOk s ctx die ok b ∧ (∀ a, a < b → ¬ HoldsOk s ctx die ok a) ∧ r ∈ (s.bin ctx die b).chip ∧ ok r ∧
    ∀ q ∈ (s.bin ctx die b).chip, ok q → orderIn r < orderIn q ∨ (orderIn r = orderIn q ∧ r.arrival ≤ q.arrival)

/-- The records a hart may select: all where its press is permitted, else the background class, and the class after it where
there is none (R315). -/
def Allowed (s : State) (h : Nat) (r : Rec) : Prop :=
  let d := s.die (h / 1024)
  let low := ∃ b, HoldsOk s (s.actAs h).myCtxId (h / 1024) (fun q => classIn q = 0) b
  d.power = .normal ∨ pressOfHart h ∈ d.permitted ∨ (low ∧ classIn r = 0) ∨ (¬ low ∧ classIn r = 1)

/-- A doubleword of a frame the worklist unit of a core's die can read for a context. -/
def FrameWord (s : State) (core ctx : Nat) (va v : Word64) : Prop :=
  ∃ key, s.resolve core ctx (2 ^ 20) va.toNat .load = .ok key ∧ s.poisonedAt key 8 = none ∧ v = ofZ (leValue s key 8)

/-- The registers an XMASK names, x0 and x3 never (R280). -/
def savedNames (m : Word64) : List Nat := (List.range 32).filter fun i => m.getLsbD i && i != 0 && i != 3

/-- The stores `yield` makes to its frame: RESUME, STATE and the slots XMASK names (R287). -/
def yieldStores (s : State) (t : Task) : List (Word64 × Word64) :=
  let fr := t.record.frame
  (fr + 8, ofZ (Z s.me.npc % 2 ^ 48)) :: (fr + 24, 2) ::
    ((List.range 32).filter fun i => t.xmask.getLsbD i).map fun i =>
      (fr + 64 + ofZ (8 * i), s.x (BitVec.ofNat 5 i))

/-- A record with another priority (R286, R287). -/
def withPriority (r : Rec) (p : BitVec 16) : Rec := { r with d0 := ofZ (p.toNat * 2 ^ 48 + Z r.d0 % 2 ^ 48) }

/-! Host commands and sessions (R297 to R300, R346 to R370). -/

/-- A response appended to a state. -/
def answered (u : State) (h : GyskoHdr) (op : BitVec 16) (status detail : Nat) (body : RespBody) : State :=
  { u with hub := { u.hub with resps := u.hub.resps ++
      [{ op := op, tag := h.tag, vf := h.vf, mgmt := h.mgmt, status := status, detail := detail % 2 ^ 56, body := body }] } }

/-- The last response of a state: header fields, STATUS and body, and those before it. -/
def Answers (s t : State) (h : GyskoHdr) (op : BitVec 16) (body : RespBody) : Prop :=
  t.hub.resps = s.hub.resps ++
    [{ op := op, tag := h.tag, vf := h.vf, mgmt := h.mgmt, status := 0, detail := 0, body := body }]

/-- A command with a well-formed header in its VF's own secured session, the device in Run and the VF in RUN (R355). -/
def FromVf (s : State) (h : GyskoHdr) : Prop :=
  h.session = .vf h.vf ∧ (s.session h.vf).secured = true ∧ h.mgmt = false ∧ h.vf < 16 ∧ h.zero = 0 ∧
    s.hub.power = .run ∧ (s.vf h.vf).tdisp = .run ∧ (s.vf h.vf).resetting = false

/-- A command with a well-formed header in the management session, Olinath answering. -/
def FromMgmt (s : State) (h : GyskoHdr) : Prop :=
  h.session = .mgmt ∧ (s.session 16).secured = true ∧ h.mgmt = true ∧ h.vf < 16 ∧ h.zero = 0 ∧
    (s.hub.power = .standby ∨ s.hub.power = .run)

/-- Who may send a launch and the other kernel commands: the VF in RUN, the host for a VF that is unlocked (R355). -/
def KernelRight (s : State) (h : GyskoHdr) : Prop :=
  FromVf s h ∨ (FromMgmt s h ∧ (s.vf h.vf).tdisp = .unlocked ∧ (s.vf h.vf).resetting = false)

/-- No data command of the header's session for a context is under way: a command for the context takes effect at once (R357). -/
def NoneBefore (s : State) (h : GyskoHdr) (ctx : Nat) : Prop :=
  ∀ d ∈ s.hub.data, d.hdr.session = h.session → d.ctx = ctx → d.op = 0x0013 ∨ d.op = 0x0014

/-- VA of the 64-byte sector of a data command's piece (R216, R387): host window, cellar slice, or the VA itself. -/
def sectorAt (s : State) (d : DataCmd) (a : Nat) : Nat :=
  (if d.op = 0x0013 ∨ d.op = 0x0014 then 0x7F0200000000 + a
    else if d.op = 0x0012 then
      0x7F0100000000 + (s.ctx d.ctx).cfg.presses.getD (a / 20971520) 0 % 32 * 2 ^ 25 + a % 20971520
    else a) / 64 * 64

/-- A press that is due for replacement (R345). -/
def Due (s : State) (p : Nat) : Prop :=
  (s.press p).repair = true ∨ ∃ j, j < 4 ∧ (s.wearOf (s.physCore (coreOfPress p + j))).life = .retired

/-- Gysko commands with their OP (R355). -/
def gyskoOf (i : Instr) : Option (GyskoHdr × BitVec 16) :=
  match i with
  | .launch h _ => some (h, 0x0001)
  | .ctxcfg h _ _ => some (h, 0x0002)
  | .ctxrel h _ => some (h, 0x0003)
  | .switch h _ => some (h, 0x0004)
  | .inval h _ _ _ => some (h, 0x0005)
  | .query h _ => some (h, 0x0006)
  | .write h _ _ _ => some (h, 0x0010)
  | .read h _ _ _ => some (h, 0x0011)
  | .cellarld h _ _ _ _ => some (h, 0x0012)
  | .hwrite h _ _ => some (h, 0x0013)
  | .hread h _ _ => some (h, 0x0014)
  | .summary h => some (h, 0x0020)
  | .flr h => some (h, 0x0021)
  | .assign h _ _ => some (h, 0x0022)
  | .power h _ _ => some (h, 0x0023)
  | .fwupdate h _ _ _ _ _ => some (h, 0x0024)
  | .spdm h _ => some (h, 0x0030)
  | .unknownOp h op => some (h, op)
  | _ => none

/-- Storage of a list of keys has become these bytes, and no other byte has changed. -/
def BytesAt (s t : State) (keys : List Nat) (bytes : List Byte) : Prop :=
  (∀ p ∈ keys.zip bytes, t.byte p.1 = p.2) ∧ ∀ a, a ∉ keys → t.byte a = s.byte a

/-- The reply to an SPDM request: its TAG copied, the VF and MGMT fields of its session (R354, R359). -/
def replyTo (q : SpdmReq) (status : Nat) (body : RespBody) : Resp :=
  { op := 0x30, tag := q.tag, vf := q.ses % 16, mgmt := decide (q.ses = 16), status := status, detail := 0, body := body }

/-- A state with that reply appended. -/
def replied (u : State) (q : SpdmReq) (status : Nat) (body : RespBody) : State :=
  { u with hub := { u.hub with resps := u.hub.resps ++ [replyTo q status body] } }

/-- The state with a session's setup. -/
def withSession (s : State) (ses : Nat) (k : SpdmSession) : State :=
  { s with hub := { s.hub with sessions := fset SpdmSession.reset s.hub.sessions ses k } }

/-- One more reply: STATUS 0 with a body. -/
def Replies (s t : State) (q : SpdmReq) (body : RespBody) : Prop := t.hub.resps = s.hub.resps ++ [replyTo q 0 body]

/-- The SPDM requests and the TDISP and key messages with their session and TAG (R359, R364, R367). -/
def spdmOf (i : Instr) : Option SpdmReq :=
  match i with
  | .getVersion q | .getCapabilities q | .negotiateAlgorithms q _ _ _ _ | .getDigests q | .getCertificate q _ _
  | .challenge q _ | .getMeasurements q _ _ _ | .keyExchange q _ | .finish q _ | .heartbeat q | .keyUpdate q | .endSession q
  | .vendorDefinedRequest q _ | .getTdispVersion q _ | .getTdispCapabilities q _ | .lockInterfaceRequest q _
  | .getDeviceInterfaceReport q _ | .getDeviceInterfaceState q _ | .startInterfaceRequest q _ _ | .stopInterfaceRequest q _
  | .memoryKeyInstall q _ _ | .tdispUnsupportedMessage q _ _ => some q
  | _ => none

/-- The number in little-endian bytes. -/
def bytesNat (l : List Byte) : Nat := (l.zipIdx.map fun e => e.1.toNat * 256 ^ e.2).sum

/-- A signature has been released: index `i` was used, and flash held i + 1 first (R361). -/
def Signs (s t : State) : Prop :=
  t.hub.xmss = s.hub.xmss + 1 ∧ (t.hub.flash0 = s.hub.xmss + 1 ∨ t.hub.flash1 = s.hub.xmss + 1)

/-- Olinath answers (R347). -/
def Answering (s : State) : Prop := s.hub.power = .standby ∨ s.hub.power = .run

/-- The TDISP message of a row of the table, as a VENDOR_DEFINED_REQUEST carries it (R359, R364, R367). -/
def vendorForm (i : Instr) : Option (SpdmReq × VendorMsg) :=
  match i with
  | .getTdispVersion ses vf => some (ses, .getTdispVersion vf)
  | .getTdispCapabilities ses vf => some (ses, .getTdispCapabilities vf)
  | .lockInterfaceRequest ses vf => some (ses, .lockInterface vf)
  | .getDeviceInterfaceReport ses vf => some (ses, .getInterfaceReport vf)
  | .getDeviceInterfaceState ses vf => some (ses, .getInterfaceState vf)
  | .startInterfaceRequest ses vf nonce => some (ses, .startInterface vf nonce)
  | .stopInterfaceRequest ses vf => some (ses, .stopInterface vf)
  | .memoryKeyInstall ses vf key => some (ses, .memoryKey vf key)
  | _ => none

/-- The messages for a VF as rows of the table (R364, R367). -/
def ForVf (q : SpdmReq) (vf : Nat) (i : Instr) : Prop :=
  i = .getTdispVersion q vf ∨ i = .getTdispCapabilities q vf ∨ i = .lockInterfaceRequest q vf ∨
    i = .getDeviceInterfaceReport q vf ∨ i = .getDeviceInterfaceState q vf ∨ (∃ n, i = .startInterfaceRequest q vf n) ∨
    i = .stopInterfaceRequest q vf ∨ ∃ key, i = .memoryKeyInstall q vf key

/-- The 64-byte blocks of measurements (R360). -/
def blocksOf64 (l : List Nat) : List Byte := l.flatMap (leOf 64)

/-- TDISP state numbers (R364). -/
def tdispNumber : Tdisp → Nat
  | .unlocked => 0
  | .locked => 1
  | .run => 2
  | .error => 3

/-! Errors, power, debug, resets. -/

/-- An error counter of a die (R336). -/
def counterOf (s : State) (die k : Nat) : Nat := fget 0 (s.die die).counters k

/-- One more, held at the counter's largest value. -/
def bumped (n : Nat) : Nat := min (n + 1) (2 ^ 32 - 1)

/-- `u` is the acting hart's context of a mismatch of the two copies of an element, counted at its die (R128, R322): vector registers and
FFLAGS aside, everything of it, the other harts and every byte of memory are as in `s`. -/
def Counted (s u : State) : Prop :=
  counterOf u (s.cur / 1024) 7 = bumped (counterOf s (s.cur / 1024) 7) ∧ u.cur = s.cur ∧ u.me.laneFault = none ∧
    { u.me with v := s.me.v, csr := { u.me.csr with fflags := s.me.csr.fflags }, laneFault := s.me.laneFault } = s.me ∧
    (∀ h, h ≠ s.cur → u.hart h = s.hart h) ∧ ∀ a, u.byte a = s.byte a

/-- `m` more. -/
def bumps : Nat → Nat → Nat
  | 0, n => n
  | m + 1, n => bumps m (bumped n)

/-- The page a quarantine picks (R326): most entries, the lowest among equals. -/
def MostRecorded (s : State) (c page : Nat) : Prop :=
  let n := fun p => ((s.entries c).filter fun k => k / 65536 == p).length
  0 < n page ∧ ∀ p, n p ≤ n page ∧ (n p = n page → page ≤ p)

/-- The lifecycle state a wear figure in units of 2^-32 and the monitors call for (R342), Nominal first. -/
def rankFor (w : Nat) (m : WearSample) : Nat :=
  let at_ := fun (units : Nat) => units * 2 ^ 32 ≤ w
  if at_ 61320 then 4
  else if at_ 58254 ∨ 100 ≤ m.em then 3
  else if at_ 55188 ∨ 50 ≤ m.ageing then 2
  else if at_ 52122 ∨ 30 ≤ m.ageing then 1
  else 0

/-- The clock of a press: the lowest of its four cores' (R343). -/
def slowest (s : State) (press : Nat) : Nat :=
  (List.range 4).foldl (fun m j => min m (s.wearOf (s.physCore (coreOfPress press + j))).mhz) 1800

/-- A debug command, or a write of a debug register. -/
def DebugWrite (i : Instr) : Prop :=
  (∃ c m, i = .dcmdHalt c m) ∨ (∃ c m, i = .dcmdResume c m) ∨ (∃ c m, i = .dcmdStep c m) ∨ (∃ c m, i = .dcmdHaltRole c m) ∨
    (∃ c, i = .dcmdStopPress c) ∨ (∃ c, i = .dcmdStopDie c) ∨ ∃ d p c o op v, i = .registerWrite (.dbg d p c o) op v

/-- Whether a hart's issued instruction is still to complete: in the matrix engine, at a peer, or with the write of a control register
it has read (R89, R171, R194). -/
def inEngine (h : Hart) : Bool :=
  match h.wait with
  | .matrix | .tile _ _ _ _ _ | .csrPair _ _ _ _ => true
  | _ => false

/-- A hart a debug command halts, where it runs: at once, or when what it has issued is complete, unless a stop halts it then (R374;
log entry 16, the model's reading). -/
def haltedBy (source : BitVec 4) (h : Hart) : Hart :=
  if h.life = .running ∧ h.csr.halt = false then
    if inEngine h then { h with haltPend := h.haltPend || h.stopPend.all fun p => decide (p.clk < 6) }
    else
      { h with
        haltPend := false, stepping := false, stepDone := false, csr := { h.csr with halt := true, stop := source } }
  else h

/-- A hart a stop trigger is on its way to, halted or not; of several triggers in one clock it is the first (R374). -/
def stopping (h : Hart) (source : BitVec 4) : Hart :=
  if h.life = .running ∧ ∀ p ∈ h.stopPend, p.clk ≠ 0 then
    { h with stopPend := h.stopPend ++ [{ clk := 0, source := source, skid := 0, counted := false }] }
  else h

/-- Watchpoint `j` with contents `w` of the core whose scratchpad a key lies in matches byte `a` of an access to [key, key + n) (R373). -/
def Hits (s : State) (key n : Nat) (write : Bool) (j : Nat) (w : WatchPoint) (a : Nat) : Prop :=
  (j, w) ∈ (s.core ((key - 2 ^ 56) / 2 ^ 20)).wps ∧ key ≤ a ∧ a < key + n ∧
    (a - 2 ^ 56) % 2 ^ 20 / 32 = w.word.toNat ∧ w.bytes.getLsbD ((a - 2 ^ 56) % 2 ^ 20 % 32) = true ∧
    w.mtch.getLsbD (if write then 0 else 1) = true

/-- `u` is `s` after the watchpoints have tested an access: WPHIT of every hart of the watched core, and stops on their way to the
harts of its launch in the scope of a watchpoint with ACT 1 (R373, R374). -/
def Marked (s u : State) (key n : Nat) (write : Bool) : Prop :=
  let core := (key - 2 ^ 56) / 2 ^ 20
  let press := pressOfCore core
  let reached := fun (h : Nat) => (∃ j w a, Hits s key n write j w a ∧ w.act = 1 ∧
      if w.scope then pressOfHart h / 32 = press / 32 else pressOfHart h = press) ∧
    ∃ c, (s.press press).resident = some c ∧ (s.press (pressOfHart h)).resident = some c
  { u with harts := s.harts } = s ∧ (∀ a, u.byte a = s.byte a) ∧
    ∀ h, { u.hart h with
        csr := { (u.hart h).csr with wphit := (s.hart h).csr.wphit }, stopPend := (s.hart h).stopPend } = s.hart h ∧
      (∀ j, j < 8 → ((u.hart h).csr.wphit.getLsbD j = true ↔
        (s.hart h).csr.wphit.getLsbD j = true ∨ (h / 8 = core ∧ ∃ w a, Hits s key n write j w a))) ∧
      (reached h → (u.hart h).stopPend = (stopping (s.hart h) 1).stopPend) ∧
      (¬ reached h → (u.hart h).stopPend = (s.hart h).stopPend)

/-- A hart that waits for lanes and has not been granted any (R203). -/
def Asks (h : Hart) : Prop := h.wake = none ∧ (h.wait = .taskLease ∨ ∃ rd, h.wait = .lease rd)

/-- What a reset of the device leaves (R345, R348): harts and cores at reset, no context, nothing resident; fuses, firmware and
wear record as they were, every press at the lowest clock of its cores (R343). -/
def AllReset (s t : State) : Prop :=
  t.agenda = s.agenda ∧ (∀ h, t.hart h = Hart.reset) ∧ (∀ c, (t.ctx c).st = .free) ∧
    (∀ p, (t.press p).resident = none ∧ (t.press p).enabled = (s.press p).enabled ∧ (t.press p).phys = (s.press p).phys ∧
      (t.press p).repair = (s.press p).repair) ∧
    (∀ p, p < 128 → (t.press p).mhz = slowest t p) ∧
    (∀ d, (t.die d).spares = (s.die d).spares ∧ (t.die d).power = .normal) ∧ t.hub.fw0 = s.hub.fw0 ∧ t.hub.fw1 = s.hub.fw1 ∧
    t.hub.product = s.hub.product ∧ t.hub.sessions = [] ∧ t.hub.debugUnlocked = false ∧ t.tlb = []

/-- The wear record as it is written (R341): the generation after the other copy's, every core's figure and state, and the CRC-32C
of it all. -/
def NewCopy (s : State) (c : WearCopy) : Prop :=
  c.gen = (if s.hub.wearTurn then s.hub.wearCopy0.gen else s.hub.wearCopy1.gen) + 1 ∧
    c.wear = s.wear.map (fun e => (e.1, (e.2.w, e.2.life))) ∧ c.lasting = s.hub.lasting ∧ c.crc = crc32c c.bytes

/-- A firmware slot that can boot (R363). -/
def Bootable (f : Slot) (low : Nat) : Prop :=
  f.magic = 0xCD5AF1A500000001 ∧ Z f.size = f.image.length ∧ f.digest = leOf 64 (Config.shake256 f.image).toNat ∧
    Config.xmssVerify f.header f.sig = true ∧ low ≤ Z f.version

/-- Receiver's key and salt of a slot of a link, and the packets sent under its key. -/
def rxOf (l : Link) (slot : Bool) : Option (Nat × Nat) := if slot then l.rx1 else l.rx0
def psnOf (l : Link) (slot : Bool) : Nat := if slot then l.psn1 else l.psn0

/-- A packet that arrives as it was sent (R368). -/
def Verified (l : Link) (slot : Bool) (psn : Nat) (packet : List Byte) (tag : Nat) : Prop :=
  ∃ key salt, rxOf l slot = some (key, salt) ∧ tag = (Config.linkTag key salt psn slot packet).toNat

/-! Rounding (R29 to R36), over the real numbers. -/

/-- Mantissa and exponent bits of a floating-point type (R29). -/
def format (t : ElemTy) : Option (Nat × Nat) :=
  match t with
  | .f8a => some (3, 4)
  | .f8b => some (2, 5)
  | .f16 => some (10, 5)
  | .bf16 => some (7, 8)
  | .f32 => some (23, 8)
  | .f64 => some (52, 11)
  | _ => none

/-- The real number (−1)^neg × m × 2^e. -/
noncomputable def real (neg : Bool) (m : Nat) (e : Int) : ℝ := (if neg then -1 else 1) * (m : ℝ) * (2 : ℝ) ^ e

/-- The bias of a format with `eb` exponent bits, its least normal value and its greatest finite one (R29, R30). -/
def biasOf (eb : Nat) : Int := 2 ^ (eb - 1) - 1
noncomputable def leastNormal (eb : Nat) : ℝ := (2 : ℝ) ^ (1 - biasOf eb)
noncomputable def greatest (mb eb : Nat) : ℝ := (2 - (2 : ℝ) ^ (-(mb : Int))) * (2 : ℝ) ^ (2 ^ eb - 2 - biasOf eb)

/-- The value of the bits of a zero, subnormal or normal number (R29). -/
noncomputable def patternValue (mb eb b : Nat) : ℝ :=
  let s : ℝ := if b / 2 ^ (mb + eb) % 2 = 1 then -1 else 1
  let e := b / 2 ^ mb % 2 ^ eb
  let m : ℝ := ((b % 2 ^ mb : Nat) : ℝ) / 2 ^ mb
  if e = 0 then s * leastNormal eb * m else s * (2 : ℝ) ^ ((e : Int) - biasOf eb) * (1 + m)

/-- The values of a format's precision with exponents unbounded above, spaced as the subnormals are below the least normal one
(R33). -/
def Grid (mb eb : Nat) (y : ℝ) : Prop :=
  ∃ k q : ℤ, |k| ≤ 2 ^ (mb + 1) ∧ 1 - biasOf eb - mb ≤ q ∧ y = (k : ℝ) * (2 : ℝ) ^ q

/-- `y` is `x` rounded by a mode to the values `G` holds of (R32). Two nearest values on either side of `x` lie one spacing apart, and
the one with an even last bit is an even multiple of it. -/
def Rounded (G : ℝ → Prop) (mode : Rm) (x y : ℝ) : Prop :=
  let down := y ≤ x ∧ ∀ z, G z → z ≤ x → z ≤ y
  let up := x ≤ y ∧ ∀ z, G z → x ≤ z → y ≤ z
  let nearest := ∀ z, G z → |x - y| ≤ |x - z|
  G y ∧ match mode with
    | .rtz => (0 ≤ x → down) ∧ (x ≤ 0 → up)
    | .rdn => down
    | .rup => up
    | .rna => nearest ∧ ∀ z, G z → |x - z| = |x - y| → |z| ≤ |y|
    | .rne | .dyn => nearest ∧ ∀ z, G z → z ≠ y → |x - z| = |x - y| → ∃ k : ℤ, y = 2 * (k : ℝ) * |y - z|

/-- Bits of a signed zero, infinity and canonical NaN of a format (R29, R30). -/
def zeroOf (mb eb : Nat) (neg : Bool) : Nat := bitN neg (mb + eb)
def infOf (mb eb : Nat) (neg : Bool) : Nat := bitN neg (mb + eb) + (2 ^ eb - 1) * 2 ^ mb
def canonOf (mb eb : Nat) : Nat := (2 ^ eb - 1) * 2 ^ mb + 2 ^ (mb - 1)

/-- Whether an overflow gives an infinity (R33); else it gives the greatest finite value of its sign. -/
def overflowsToInf (mode : Rm) (neg : Bool) : Bool :=
  match mode with
  | .rne | .rna | .dyn => true
  | .rtz => false
  | .rdn => neg
  | .rup => !neg

/-- `r` is what `Round` gives of a nonzero real in a format, with its flags (R33) and the flush of R35. -/
def Rounds (mode : Rm) (ftz : Bool) (mb eb : Nat) (x : ℝ) (r : FpRes) : Prop :=
  ∃ y neg, Rounded (Grid mb eb) mode x y ∧ (neg = true ↔ x < 0) ∧
    (greatest mb eb < |y| → r = (if overflowsToInf mode neg then infOf mb eb neg else infOf mb eb neg - 1, 0b101)) ∧
    (|y| < leastNormal eb → ftz = true → y ≠ 0 → r = (zeroOf mb eb neg, 0b11)) ∧
    (|y| ≤ greatest mb eb → leastNormal eb ≤ |y| ∨ ftz = false ∨ y = 0 →
      patternValue mb eb r.1 = y ∧ r.1 / 2 ^ mb % 2 ^ eb ≠ 2 ^ eb - 1 ∧ r.1 / 2 ^ (mb + eb) = (if neg then 1 else 0) ∧
      (y = x → r.2 = 0) ∧ (y ≠ x → leastNormal eb ≤ |y| → r.2 = 1) ∧ (y ≠ x → |y| < leastNormal eb → r.2 = 0b11))

/-- `r` is what a sum of two reals with these signs gives: `Round`, or a zero of the sign R33 gives an exact zero. -/
def Sums (mode : Rm) (ftz : Bool) (mb eb : Nat) (n1 : Bool) (x1 : ℝ) (n2 : Bool) (x2 : ℝ) (r : FpRes) : Prop :=
  (x1 + x2 ≠ 0 → Rounds mode ftz mb eb (x1 + x2) r) ∧
    (x1 + x2 = 0 → r = (zeroOf mb eb (if n1 = n2 then n1 else decide (mode = .rdn)), 0))

end Sys2Proof.Claims

open Sys2Proof Sys2Proof.Machine Sys2Proof.Claims

/-! Encoding. -/

/-- Decoding an encoded instruction gives it back with its loop flags and its size (R50 to R56). -/
def Obligations.DecodeEncode : Prop :=
  ∀ (i : Instr) (first last : Bool), i.wf = true → (encodeEnc i).isSome = true →
    decodeBytes (bytesOfWords (encodeFlags first last i)) =
      .ok { instr := i, first := first, last := last, size := 4 * (encodeFlags first last i).length }

/-- Majors R61 to R64 leave reserved never decode: R57 gives them the illegal-instruction trap. -/
def Sys2Proof.Claims.ReservedMajorsRefused : Prop :=
  ∀ (w : Word32) (rest : List Word32),
    (w.extractLsb 7 2).toNat ∈ [0x1D, 0x1E, 0x1F, 0x24, 0x25, 0x26, 0x27, 0x2B, 0x2C, 0x2D, 0x2E, 0x2F, 0x37, 0x3B, 0x3E, 0x3F] →
      decodeWords (w :: rest) = .error .illegalWord0

/-- The words the spec works out (R61 to R65, R174, R175, R244). -/
def Sys2Proof.Claims.WorkedWords : Prop :=
  decodeWords [0x001CC500] = .ok { instr := .add 5 6 7, first := false, last := false, size := 4 } ∧
  decodeWords [0xFFF4C504] = .ok { instr := .addi 5 6 (-3), first := false, last := false, size := 4 } ∧
  decodeWords [0x000000F0] = .ok { instr := .nop, first := false, last := false, size := 4 } ∧
  decodeWords [0x19082340] = .ok { instr := .vfmaF32 3 1 2 2, first := false, last := false, size := 4 } ∧
  decodeWords [0x001CC526, 0x40010D0C, 0] =
    .ok { instr := .sffma 5 6 7 8 .f64 .rtz, first := false, last := false, size := 12 } ∧
  decodeWords [0x0000091D, 0x56789ABC, 0x1234] =
    .ok { instr := .liLit 9 0x123456789ABC, first := false, last := false, size := 12 } ∧
  decodeWords [0x00052906, 0x000000FF, 0x40000000] =
    .ok { instr := .addi 9 9 1, first := false, last := true, size := 12 } ∧
  decodeWords [0x080000A0] = .ok { instr := .mdetach, first := false, last := false, size := 4 } ∧
  decodeWords [0x100001A0] = .ok { instr := .mzero 1, first := false, last := false, size := 4 } ∧
  decodeWords [0x819CC5D4] = .ok { instr := .amoAdd 5 6 7 .die 1, first := false, last := false, size := 4 } ∧
  decodeWords [0xBA1CC5D6, 0x40000007, 0] =
    .ok { instr := .amoCas 5 6 7 8 .device 1, first := false, last := false, size := 12 } ∧
  decodeWords [0x2808A0E0] = .ok { instr := .qpush 5 2, first := false, last := false, size := 4 } ∧
  decodeWords [0x0080A65A, 0x18000400, 7] =
    .ok { instr := .vsscan .add true 6 5 3 .s32 .rne 1, first := false, last := false, size := 12 } ∧
  decodeWords [0xFFFFFFFF] = .error .illegalWord0

/-- Words the spec works out decode to what it says, and reserved majors do not decode. -/
def Obligations.SampleWords : Prop := Claims.WorkedWords ∧ Claims.ReservedMajorsRefused

/-! Scalar instructions. -/

/-- Scalar integer instructions (R70 to R73): xd gets the value, nothing else changes. -/
def Obligations.IntegerResults : Prop :=
  ∀ (i : Instr) (s : State) (rd : XReg) (v : Word64), intResult i s = some (rd, v) →
    ∃ t, exec i s = .next t ∧ WritesX s t rd v 0

/-- Scalar floating-point instructions (R74 to R77): xd gets the value, FFLAGS its flags. That `sfcvt` between equal types extends the
low bits of xa is log entry 59, the model's choice. -/
def Obligations.ScalarFloatResults : Prop :=
  ∀ (i : Instr) (s : State) (rd : XReg) (v : Word64) (fl : FpFlags), i.wf = true → fpResult i s = some (rd, v, fl) →
    ∃ t, exec i s = .next t ∧ WritesX s t rd v fl

/-- R13. -/
def Sys2Proof.Claims.ZeroRegister : Prop :=
  ∀ (h : Hart) (v : Word64), h.getX 0 = 0 ∧ h.setX 0 v = h ∧ ∀ r, r ≠ 0 → (h.setX r v).getX r = v

/-- R16. -/
def Sys2Proof.Claims.TruePredicate : Prop :=
  ∀ (h : Hart) (v : BitVec 256), (∀ e, e < 256 → (h.getP 0).getLsbD e = true) ∧ h.setP 0 v = h ∧
    ∀ r, r ≠ 0 → (h.setP r v).getP r = v

/-- x0 and p0 (R13, R16): what they read as, and that writes to them are discarded. -/
def Obligations.ConstantRegisters : Prop := Claims.ZeroRegister ∧ Claims.TruePredicate

/-- Conditional branches (R81). -/
def Sys2Proof.Claims.Branches : Prop :=
  ∀ (i : Instr) (s : State) (taken : Prop) (off : Word64), branchOf i s = some (taken, off) →
    ∃ t, exec i s = .next t ∧ (∀ r, t.x r = s.x r) ∧ (taken → Jumped s t (s.me.pc + off)) ∧
      (¬ taken → WritesNothing s t)

/-- `jal` and `jalr` (R82). -/
def Sys2Proof.Claims.Jumps : Prop :=
  ∀ (i : Instr) (s : State) (rd : XReg) (a : Word64), jumpOf i s = some (rd, a) → a.toNat % 4 = 0 →
    ∃ t, exec i s = .next t ∧ t.x rd = (if rd = 0 then 0 else s.me.npc) ∧ (∀ r, r ≠ rd → t.x r = s.x r) ∧ Jumped s t a

/-- `jalr` to a target that is not a multiple of 4 (R82). -/
def Sys2Proof.Claims.JumpMisaligned : Prop :=
  ∀ (s : State) (rd b : XReg) (o : BitVec 14), (s.x b + immS o).toNat % 4 ≠ 0 →
    ∃ t, exec (.jalr rd b o) s = .next t ∧ Trapped s t 3 (s.x b + immS o) s.me.csr.vri

/-- Branches and jumps (R81, R82), taken or not, and the trap of a misaligned target. -/
def Obligations.ControlTransfers : Prop := Claims.Branches ∧ Claims.Jumps ∧ Claims.JumpMisaligned

/-- A loop set-up (R84), with the end test after one of count 0; in handler mode it is illegal (R96). -/
def Sys2Proof.Claims.LoopSetup : Prop :=
  ∀ (i : Instr) (s : State) (n count : Nat) (stop : Word64), loopOf i s = some (n, count, stop) →
    (s.me.handler = false → ∃ t, exec i s = .next t ∧ (∀ r, t.x r = s.x r) ∧ OnlyMe s t ∧
      t.me.csr = { s.me.csr with instret := s.me.csr.instret + 1 } ∧ t.me.v = s.me.v ∧ t.me.p = s.me.p ∧
      (∀ m, n < m → m < 4 → (t.me.level m).active = false) ∧
      (t.me.level n).start = s.me.npc.setWidth 48 ∧ (t.me.level n).stop = stop.setWidth 48 ∧
      (count ≠ 0 → t.me.pc = s.me.npc ∧ (t.me.level n).active = true ∧ (t.me.level n).first = true ∧
        (t.me.level n).count.toNat = count - 1 ∧ ∀ m, m < n → t.me.level m = s.me.level m) ∧
      (count = 0 → (t.me.level n).active = false ∧ (t.me.level n).count = 0 ∧
        ∃ u : Hart, u.handler = false ∧ u.pc = s.me.pc ∧ u.npc = stop ∧ (∀ m, m < n → u.level m = s.me.level m) ∧
          (∀ m, n ≤ m → m < 4 → (u.level m).active = false) ∧ t.me.pc = u.retire.pc ∧
          ∀ m, m < n → t.me.level m = u.retire.level m)) ∧
    (s.me.handler = true → ∃ t, exec i s = .next t ∧ Trapped s t 1 (s.me.ir.setWidth 64) s.me.csr.vri)

/-- The end test of R85, on the acting hart's retirement outside handler mode. -/
def Sys2Proof.Claims.LoopEndTest : Prop :=
  ∀ (h : Hart), h.handler = false →
    ((∀ n, n < 4 → (h.level n).active = false) → h.retire.pc = h.npc ∧ h.retire.loops = h.loops) ∧
    ∀ n, Innermost h n →
      (¬ EndsBody h n → h.retire.pc = h.npc ∧ h.retire.loops = h.loops) ∧
      (EndsBody h n → ∀ c, c = (h.level n).heldCount.getD (h.level n).count → c ≠ 0 →
        h.retire.pc = (h.level n).start.signExtend 64 ∧ (h.retire.level n).count = c - 1 ∧
          (h.retire.level n).first = false ∧ (h.retire.level n).active = true ∧
          ∀ m, m ≠ n → h.retire.level m = h.level m) ∧
      (EndsBody h n → (h.level n).heldCount.getD (h.level n).count = 0 →
        h.retire = (h.setLevel n { h.level n with
          count := 0, active := false, heldCount := none, heldStart := none, heldStop := none,
          start := (h.level n).heldStart.getD (h.level n).start,
          stop := (h.level n).heldStop.getD (h.level n).stop }).retire)

/-- Loop set-up and the end test (R84, R85). -/
def Obligations.HardwareLoops : Prop := Claims.LoopSetup ∧ Claims.LoopEndTest

/-! Control registers. -/

def Obligations.CsrReads : Prop :=
  ∀ (s : State) (a : XReg) (n : BitVec 12),
    match csrValue s n.toNat with
    | some v => ∃ t, exec (.csrr a n) s = .next t ∧ WritesX s t a (ofZ v) 0
    | none => ∃ t, exec (.csrr a n) s = .next t ∧ Trapped s t 1 (s.me.ir.setWidth 64) s.me.csr.vri

/-- R89: an instruction that writes a register performs the write and retires; an unmapped number is illegal. -/
def Sys2Proof.Claims.CsrWrites : Prop :=
  ∀ (i : Instr) (s : State) (b : XReg) (n : BitVec 12) (op : CsrOp), csrWriteOf i = some (b, n, op) →
    ((csrValue s n.toNat).isSome = true →
      ∃ u, exec (.registerWrite (.csr n) op (s.x b)) s = .next u ∧ exec i s = .next u.retire ∧
        (∀ r, u.retire.x r = s.x r) ∧ u.retire.me.csr.instret = s.me.csr.instret + 1) ∧
    (csrValue s n.toNat = none → ∃ t, exec i s = .next t ∧ Trapped s t 1 (s.me.ir.setWidth 64) s.me.csr.vri)

/-- The write events are the register writes of their numbers. -/
def Sys2Proof.Claims.WriteEvents : Prop :=
  ∀ (i : Instr) (s : State) (n : Nat) (op : CsrOp) (v : Word64), writeEvent i = some (n, op, v) →
    ∃ t, exec i s = .next t ∧ exec (.registerWrite (.csr (BitVec.ofNat 12 n)) op v) s = .next t

/-- `csrw`, `csrs` and `csrc`, and the write events of the table (R89). -/
def Obligations.CsrWriteForms : Prop := Claims.CsrWrites ∧ Claims.WriteEvents

/-- Registers whose fields take what is written, W1C bits clear, or ignore it (R20 to R22, R89). -/
def Sys2Proof.Claims.PlainRegisterWrites : Prop :=
  ∀ (s : State) (n : BitVec 12) (op : CsrOp) (v : Word64) (c : HartCsr), plainWrite n.toNat op v s.me.csr = some c →
    ∃ t, exec (.registerWrite (.csr n) op v) s = .next t ∧ CsrIs s t c

/-- VL, VPOL, FRM and FFLAGS (R21, R38). That a write of VL takes bits [8:0] before it is limited is log entry 12, the model's
reading. -/
def Sys2Proof.Claims.ModeRegisterWrites : Prop :=
  ∀ (s : State) (op : CsrOp) (v : Word64),
    (∃ t, exec (.vlWrite op v) s = .next t ∧
      CsrIs s t { s.me.csr with vl := BitVec.ofNat 9 (min (comb op s.me.csr.vl (v.setWidth 9)).toNat (fullStrip s.me)) }) ∧
    (∃ t c, exec (.vpolWrite op v) s = .next t ∧ CsrIs s t c ∧
      c = { s.me.csr with vpolTd := c.vpolTd, vpolPm := c.vpolPm } ∧
      BitVec.ofBool c.vpolTd = comb op (BitVec.ofBool s.me.csr.vpolTd) (v.extractLsb 0 0) ∧
      BitVec.ofBool c.vpolPm = comb op (BitVec.ofBool s.me.csr.vpolPm) (v.extractLsb 1 1) ∧
      t.me.pmInForce = s.me.pmInForce) ∧
    (∃ t c, exec (.frmWrite op v) s = .next t ∧ CsrIs s t c ∧
      c = { s.me.csr with rm := c.rm, ftz := c.ftz } ∧
      BitVec.ofBool c.ftz = comb op (BitVec.ofBool s.me.csr.ftz) (v.extractLsb 3 3) ∧
      c.rm = (if (comb op s.me.csr.rm (v.extractLsb 2 0)).toNat ≤ 4 then comb op s.me.csr.rm (v.extractLsb 2 0)
        else s.me.csr.rm)) ∧
    (∃ t, exec (.fflagsWrite op v) s = .next t ∧
      CsrIs s t { s.me.csr with fflags := comb op s.me.csr.fflags (v.setWidth 6) })

/-- What a write of a control register of the hart does (R20 to R22, R38, R89; VL: log entry 12, the model's reading). -/
def Obligations.HartRegisterWrites : Prop := Claims.PlainRegisterWrites ∧ Claims.ModeRegisterWrites

/-- A write of VREM is a strip boundary (R201): PM comes into force and VL is the strip's length; AWIN, LC, LS, LE, WBOUND. -/
def Sys2Proof.Claims.BoundaryRegisterWrites : Prop :=
  ∀ (s : State) (op : CsrOp) (v : Word64),
    (∃ t, exec (.vremWrite op v) s = .next t ∧ t.me.csr.vrem = comb op s.me.csr.vrem (v.setWidth 48) ∧
      t.me.pmInForce = s.me.csr.vpolPm ∧ (s.suspended s.cur = false → t.me.stall = false) ∧
      (s.suspended s.cur = true → t.me.stall = s.me.stall) ∧
      t.me.csr.vl = BitVec.ofNat 9 (min t.me.csr.vrem.toNat (fullStrip t.me)) ∧ t.me.x = s.me.x ∧ t.me.p = s.me.p ∧
      ∀ a, t.byte a = s.byte a) ∧
    (∃ t, exec (.awinWrite op v) s = .next t ∧
      t.myCore.shift.toInt = max (-40) (min 40 (comb op s.myCore.shift (v.setWidth 8)).toInt) ∧
      BitVec.ofBool t.myCore.inx0 = w1c op (BitVec.ofBool s.myCore.inx0) (v.extractLsb 16 16) ∧
      BitVec.ofBool t.myCore.ovf0 = w1c op (BitVec.ofBool s.myCore.ovf0) (v.extractLsb 17 17) ∧
      BitVec.ofBool t.myCore.inx1 = w1c op (BitVec.ofBool s.myCore.inx1) (v.extractLsb 18 18) ∧
      BitVec.ofBool t.myCore.ovf1 = w1c op (BitVec.ofBool s.myCore.ovf1) (v.extractLsb 19 19) ∧
      { t with cores := s.cores } = s ∧ (∀ k, k ≠ s.myCoreId → t.core k = s.core k) ∧ ∀ a, t.byte a = s.byte a) ∧
    (∃ t, exec (.wboundWrite op v) s = .next t ∧ t.ctx s.myCtxId =
        { s.myCtx with wbound := comb op s.myCtx.wbound (v.setWidth 8) } ∧
      { t with ctxs := s.ctxs } = s ∧ (∀ c, c ≠ s.myCtxId → t.ctx c = s.ctx c) ∧ ∀ a, t.byte a = s.byte a)

/-- Writes of LCn, LSn and LEn: held by an active level as R86 and R87 say, at once in handler mode (R96). -/
def Sys2Proof.Claims.LoopRegisterWrites : Prop :=
  ∀ (s : State) (n : BitVec 2) (op : CsrOp) (v : Word64),
    let l := s.me.level n.toNat
    let inBody := l.active = true ∧ l.start ≤ s.me.pc.setWidth 48 ∧ s.me.pc.setWidth 48 < l.stop
    let c := comb op l.count (v.setWidth 32)
    (∃ t, exec (.lcWrite n op v) s = .next t ∧ OnlyMe s t ∧ { t.me with loops := s.me.loops } = s.me ∧
      (∀ m, m ≠ n.toNat → t.me.level m = s.me.level m) ∧
      (s.me.handler = false → inBody → t.me.level n.toNat = { l with heldCount := some c }) ∧
      (s.me.handler = false → ¬ inBody → t.me.level n.toNat = { l with count := c }) ∧
      (s.me.handler = true → t.me.level n.toNat = { l with count := c, heldCount := none })) ∧
    ∀ isEnd, ∃ t, exec (.lsLeWrite isEnd n op v) s = .next t ∧ OnlyMe s t ∧ { t.me with loops := s.me.loops } = s.me ∧
      (∀ m, m ≠ n.toNat → t.me.level m = s.me.level m) ∧
      (isEnd = false → t.me.level n.toNat =
        let a := aligned4 (comb op l.start (v.setWidth 48))
        if s.me.handler then { l with start := a, heldStart := none }
        else if l.active then { l with heldStart := some a } else { l with start := a }) ∧
      (isEnd = true → t.me.level n.toNat =
        let a := aligned4 (comb op l.stop (v.setWidth 48))
        if s.me.handler then { l with stop := a, heldStop := none }
        else if l.active then { l with heldStop := some a } else { l with stop := a })

/-- Writes of VREM, AWIN, WBOUND and the loop registers (R21, R41, R86, R87, R201). -/
def Obligations.SharedRegisterWrites : Prop := Claims.BoundaryRegisterWrites ∧ Claims.LoopRegisterWrites

/-! Traps and system instructions. -/

/-- R94 to R96: taking an exception. -/
def Sys2Proof.Claims.TrapEntry : Prop :=
  ∀ (s : State) (cause : Nat) (eval : Word64), Trapped s (s.trap cause eval) cause eval s.me.csr.vri

/-- R94, R125, R127: a vector, function or matrix instruction writes VRI, at a stop with a supervisor core too (log entry 14, the
model's reading). -/
def Sys2Proof.Claims.VectorTrapEntry : Prop :=
  ∀ (s : State) (cause : Nat) (eval : Word64) (k : Nat),
    Trapped s (s.trapV cause eval k) cause eval (BitVec.ofNat 9 k)

/-- The traps of words that are no instruction and of words that cannot be fetched (R57, R58); VRI is 0 where the major is
a vector, function or matrix one (log entry 14, the model's reading). -/
def Sys2Proof.Claims.FetchTraps : Prop :=
  ∀ (s : State),
    (∀ w, ∃ t, exec (.illegalInstruction w) s = .next t ∧
      Trapped s t 1 (w.setWidth 64) (if vectorMajor w then 0 else s.me.csr.vri)) ∧
    ∀ va cause, ∃ t, exec (.fetchFault va cause) s = .next t ∧
      Trapped s t cause va (if va ≠ s.me.pc ∧ vectorMajor s.me.ir then 0 else s.me.csr.vri)

/-- Taking an exception (R94 to R96), and the traps of words that do not fetch or decode (R57, R58). Where VRI is written at a stop
with a supervisor core, and for words of vector majors that do not fetch or decode, is log entry 14, the model's reading. -/
def Obligations.TrapsTaken : Prop := Claims.TrapEntry ∧ Claims.VectorTrapEntry ∧ Claims.FetchTraps

/-- R97, with the end test of R85 where EPC ends an active level's body. -/
def Obligations.TrapReturn : Prop :=
  ∀ (s : State),
    let epc := s.me.csr.epc
    let ended := ∃ n, n < 4 ∧ (s.me.level n).active = true ∧ (s.me.level n).stop = epc ∧ (s.me.level n).start ≤ epc - 1 ∧
      epc - 1 < epc
    let back := { s.me with handler := false, pc := (epc - 1).signExtend 64, npc := epc.signExtend 64 }
    (s.me.handler = true → ∃ t, exec .tret s = .next t ∧ t.me.handler = false ∧ (∀ r, t.x r = s.x r) ∧
      t.me.csr = { s.me.csr with instret := s.me.csr.instret + 1 } ∧ t.me.v = s.me.v ∧ t.me.p = s.me.p ∧ OnlyMe s t ∧
      (¬ ended → t.me.pc = epc.signExtend 64 ∧ t.me.loops = s.me.loops) ∧
      (ended → t.me.pc = back.retire.pc ∧ t.me.loops = back.retire.loops)) ∧
    (s.me.handler = false → ∃ t, exec .tret s = .next t ∧ Trapped s t 1 (s.me.ir.setWidth 64) s.me.csr.vri)

/-- `trap` and `brk` with debug locked or breakpoint halting off (R92). -/
def Obligations.SoftwareTraps : Prop :=
  ∀ (s : State),
    (∀ code : BitVec 14, ∃ t, exec (.trap code) s = .next t ∧ Trapped s t 17 (code.setWidth 64) s.me.csr.vri) ∧
    (s.hub.debugUnlocked = false ∨ s.myCore.brken = false →
      ∃ t, exec .brk s = .next t ∧ Trapped s t 18 0 s.me.csr.vri) ∧
    (s.hub.debugUnlocked = true → s.myCore.brken = true → ∃ t, exec .brk s = .next t ∧ t.me.csr.halt = true ∧
      t.me.csr.stop = 2 ∧ t.me.csr.dskid = 0 ∧ t.me.csr.instret = s.me.csr.instret + 1 ∧ t.me.pc = s.me.retire.pc ∧
      t.me.x = s.me.x ∧ ∀ a, t.byte a = s.byte a) ∧
    (∃ t, exec .halt s = .next t ∧ t.me.csr.halt = true ∧ t.me.csr.stop = 2 ∧
      t.me.csr.instret = s.me.csr.instret + 1 ∧ t.me.pc = s.me.retire.pc ∧ t.me.x = s.me.x ∧ OnlyMe s t ∧
      (s.hub.debugUnlocked = false → t.me.sup ≠ none))

/-- `nop`, fences (log entry 3 for their ordering) and `flush` over addresses that translate retire and change nothing else. -/
def Obligations.NothingButRetire : Prop :=
  ∀ (s : State) (i : Instr),
    (i = .nop ∨ (∃ c, i = .fenceSv c) ∨ (∃ c, i = .fenceVs c) ∨ (∃ c, i = .fenceVv c) ∨ (∃ c, i = .fenceAll c) ∨
      ∃ b c, i = .flush b c ∧ s.flaws = [] ∧ ∀ a, Z (s.x b) ≤ a → a < Z (s.x b) + Z (s.x c) → flushSkips a = true ∨
        ((a / 2 ^ 47 = 0 ∨ a / 2 ^ 47 = 2 ^ 17 - 1) ∧ ¬ (0x7F0000000000 ≤ a ∧ a < 0x800000000000) ∧
          ∃ e, s.leafOf s.myCtxId (a % 2 ^ 48) (fun _ => true) = .ok e)) →
    ∃ t, exec i s = .next t ∧ WritesNothing s t

/-! Memory. -/

/-- The checks of one access in the order of R79, and what an access that passes leaves alone. -/
def Obligations.AccessChecks : Prop :=
  ∀ (s : State) (va n align : Nat) (acc : Acc) (reads writes refusable : Bool),
    let w := s.meetWalk s.myCtxId va
    let overrun := BitVec.ofNat 8 7 ++ 0#8 ++ BitVec.ofNat 48 va
    (va % align ≠ 0 → s.access va n align acc reads writes refusable = .bad s 3 (ofZ va)) ∧
    (va % align = 0 → ∀ f, w.resolveMe va acc = .error f →
      s.access va n align acc reads writes refusable = .bad w f.cause (if f.cause = 2 then overrun else ofZ va)) ∧
    (va % align = 0 → ∀ key, w.resolveMe va acc = .ok key → BeyondSpad s key n →
      s.access va n align acc reads writes refusable = .bad w 2 overrun) ∧
    (va % align = 0 → Quiet s → ∀ key, s.resolveMe va acc = .ok key → ¬ BeyondSpad s key n →
      s.access va n align acc reads writes refusable =
        if reads = true ∧ (s.poisonedAt key n).isSome = true then .bad s 10 (ofZ va) else .ok s key) ∧
    ∀ u key, s.access va n align acc reads writes refusable = .ok u key →
      w.resolveMe va acc = .ok key ∧ ¬ BeyondSpad s key n ∧ u.cur = s.cur ∧ u.me.x = s.me.x ∧ u.me.v = s.me.v ∧ u.me.p = s.me.p ∧
        u.me.pc = s.me.pc ∧ u.me.npc = s.me.npc ∧ ∀ a, u.byte a = s.byte a

/-- Where the windows of R217 lie, and what an access of a scalar agent to them meets. -/
def Obligations.AddressWindows : Prop :=
  ∀ (s : State) (va : Nat) (acc : Acc), acc ≠ .fetch →
    let core := s.cur / 8
    let mine := fun k => (s.press (pressOfCore k)).enabled = true ∧ s.myCtx.cfg.presses.contains (pressOfCore k) = true
    (va / 2 ^ 47 ≠ 0 → va / 2 ^ 47 ≠ 2 ^ 17 - 1 → s.resolveMe va acc = .error { order := 1, cause := 4 }) ∧
    (va < 0x100000 → mine core → s.resolveMe va acc =
      if s.me.header.spad ≤ va then .error { order := 4, cause := 2 } else .ok (2 ^ 56 + core * 2 ^ 20 + va)) ∧
    (∀ k off, k < 4 → off < 0x100000 → k ≠ core % 4 → va = 0x7F0000000000 + k * 2 ^ 20 + off → mine (core / 4 * 4 + k) →
      s.resolveMe va acc = .ok (2 ^ 56 + (core / 4 * 4 + k) * 2 ^ 20 + off)) ∧
    (∀ k off, k < 128 → off < 0x100000 → k ≠ core % 128 → va = 0x7F0010000000 + k * 2 ^ 20 + off →
      mine (core / 128 * 128 + k) → s.resolveMe va acc = .ok (2 ^ 56 + (core / 128 * 128 + k) * 2 ^ 20 + off)) ∧
    (∀ p off, p < 32 → off < 20971520 → va = 0x7F0100000000 + p * 2 ^ 25 + off →
      (s.press (core / 128 * 32 + p)).enabled = true → s.myCtx.cfg.presses.contains (core / 128 * 32 + p) = true →
      s.resolveMe va acc = if acc = .load then .ok (2 ^ 57 + (core / 128 * 32 + p) * 2 ^ 25 + off)
        else .error { order := 5, cause := 16 }) ∧
    (∀ off, off < 0x10000 → va = 0x7F0200000000 + off → s.resolveMe va acc = .ok (2 ^ 58 + s.myCtxId / 4 * 2 ^ 16 + off)) ∧
    ((0x7F0000400000 ≤ va ∧ va < 0x7F0010000000) ∨ (0x7F0018000000 ≤ va ∧ va < 0x7F0100000000) ∨
        (0x7F0140000000 ≤ va ∧ va < 0x7F0200000000) ∨ (0x7F0200010000 ≤ va ∧ va < 0x800000000000) →
      s.resolveMe va acc = .error { order := 1, cause := 4 })

/-- The walk of R301 to R303 to a leaf of level 2 or an entry that is not valid, and the permissions of a leaf. -/
def Obligations.PageTranslation : Prop :=
  ∀ (s : State) (ctx va : Nat) (acc : Acc),
    (s.tlb.find? fun t => t.ctx == ctx && decide (t.va ≤ va) && decide (va < t.va + t.size)) = none →
    let root := (s.ctx ctx).cfg.tbase + va / 2 ^ 39 % 512 * 8
    let e1 := ofZ (s.readLe root 8)
    let k2 := pteAddr e1 + va / 2 ^ 30 % 512 * 8
    let e2 := ofZ (s.readLe k2 8)
    (s.ctx ctx).cfg.tbase % 4096 = 0 → s.ownsPa (ctx / 4) (s.ctx ctx).cfg.tbase = true →
    (e1.getLsbD 0 = false → s.translate ctx va acc true = .error { order := 1, cause := 4 }) ∧
    (e1.getLsbD 0 = true → e1.getLsbD 1 = true → s.translate ctx va acc true = .error { order := 1, cause := 4 }) ∧
    (e1.getLsbD 0 = true → e1.getLsbD 1 = false → pteZeroOk e1 = true → pteAddr e1 % 4096 = 0 →
      s.ownsPa (ctx / 4) (pteAddr e1) = true → s.badAt root 8 = false → s.badAt k2 8 = false →
      e2.getLsbD 0 = true → e2.getLsbD 1 = true → e2.getLsbD 7 = false → pteZeroOk e2 = true → pteAddr e2 % 2 ^ 30 = 0 →
      s.ownsPa (ctx / 4) (pteAddr e2) = true →
      s.translate ctx va acc true =
        if (match acc with
          | .load => e2.getLsbD 2
          | .store => e2.getLsbD 3 && !e2.getLsbD 4
          | .atomic => e2.getLsbD 2 && e2.getLsbD 3 && !e2.getLsbD 4
          | .fetch => e2.getLsbD 4)
        then .ok (pteAddr e2 + va % 2 ^ 30) else .error { order := 2, cause := 5 })

/-- Scalar loads whose checks pass. -/
def Sys2Proof.Claims.Loads : Prop :=
  ∀ (i : Instr) (s u : State) (rd : XReg) (va : Word64) (ty : ElemTy) (key : Nat), i.wf = true →
    loadOf i s = some (rd, va, ty) →
    s.access va.toNat (bytesOf ty) (bytesOf ty) .load true false true = .ok u key →
    ∃ t, exec i s = .next t ∧ WritesX u t rd (inX ty (leValue s key (bytesOf ty))) 0 ∧ ∀ r, r ≠ rd → t.x r = s.x r

/-- Scalar stores whose checks pass: the bytes stored to, and no others, change. -/
def Sys2Proof.Claims.Stores : Prop :=
  ∀ (i : Instr) (s u : State) (ra : XReg) (va : Word64) (n key : Nat), storeOf i s = some (ra, va, n) →
    s.access va.toNat n n .store false true true = .ok u key →
    ∃ t, exec i s = .next t ∧ Stored u t key (leOf n (s.x ra).toNat) ∧ (∀ r, t.x r = s.x r) ∧ Next u t 0

/-- A scalar access that fails its checks traps with the cause and EVAL of R79 and performs nothing. -/
def Sys2Proof.Claims.FailedAccesses : Prop :=
  ∀ (i : Instr) (s u : State) (cause : Nat) (eval : Word64),
    ((∃ rd va ty, loadOf i s = some (rd, va, ty) ∧
        s.access va.toNat (bytesOf ty) (bytesOf ty) .load true false true = .bad u cause eval) ∨
      (∃ ra va n, storeOf i s = some (ra, va, n) ∧ s.access va.toNat n n .store false true true = .bad u cause eval) ∨
      (∃ op un rd b c z, amoOf i = some (op, un, rd, b, c, z) ∧
        s.access (s.x b).toNat (atomBytes z) (atomBytes z) .atomic true true true = .bad u cause eval)) →
    ∃ t, exec i s = .next t ∧ Trapped u t cause eval u.me.csr.vri ∧ ∀ a, t.byte a = s.byte a

/-- Loads and stores (R78 to R80), and an access that fails its checks (R79). -/
def Obligations.ScalarMemory : Prop := Claims.Loads ∧ Claims.Stores ∧ Claims.FailedAccesses

/-- Fetching atomics whose checks pass. -/
def Sys2Proof.Claims.Atomics : Prop :=
  ∀ (i : Instr) (s u : State) (op : AmoOp) (un : Bool) (rd b c : XReg) (z : BitVec 1) (key : Nat),
    amoOf i = some (op, un, rd, b, c, z) →
    s.access (s.x b).toNat (atomBytes z) (atomBytes z) .atomic true true true = .ok u key →
    let n := atomBytes z
    let old := leValue s key n
    ∃ t, exec i s = .next t ∧ Stored u t key (leOf n (atomNew op un n old ((s.x c).toNat % 256 ^ n))) ∧
      t.x rd = (if rd = 0 then 0 else oldX un n old) ∧ (∀ r, r ≠ rd → t.x r = s.x r) ∧ Next u t 0

/-- `amo.cas`: stores xd's bytes when the old value equals xc, and nothing otherwise. -/
def Sys2Proof.Claims.CompareAndSwap : Prop :=
  ∀ (s : State) (a b c d : XReg) (sc : Scope) (z : BitVec 1) (key : Nat), Quiet s →
    let n := atomBytes z
    let old := leValue s key n
    (s.x b).toNat % n = 0 → s.resolveMe (s.x b).toNat .atomic = .ok key → ¬ BeyondSpad s key n →
    s.poisonedAt key n = none →
    ∃ t, exec (.amoCas a b c d sc z) s = .next t ∧ t.x a = (if a = 0 then 0 else oldX false n old) ∧
      (∀ r, r ≠ a → t.x r = s.x r) ∧ Next s t 0 ∧
      (old = (s.x c).toNat % 256 ^ n → Stored s t key (leOf n (s.x d).toNat)) ∧
      (old ≠ (s.x c).toNat % 256 ^ n → OnlyMe s t)

/-- `red.*`: as the atomic of the same op, nothing returned; at a poisoned home nothing is written (log entry 52, the model's
reading: R327 speaks of a request or merged operand that arrives poisoned). -/
def Sys2Proof.Claims.HomeReductions : Prop :=
  ∀ (i : Instr) (s : State) (op : AmoOp) (un : Bool) (b c : XReg) (z : BitVec 1) (key : Nat),
    redOf i = some (op, un, b, c, z) → Quiet s →
    let n := atomBytes z
    (s.x b).toNat % n = 0 → s.resolveMe (s.x b).toNat .atomic = .ok key → ¬ BeyondSpad s key n →
    ∃ t, exec i s = .next t ∧ (∀ r, t.x r = s.x r) ∧ Next s t 0 ∧
      (s.poisonedAt key n = none →
        Stored s t key (leOf n (atomNew op un n (leValue s key n) ((s.x c).toNat % 256 ^ n)))) ∧
      ((s.poisonedAt key n).isSome = true → ∀ a, t.byte a = s.byte a)

/-- Fetching atomics, compare and swap, reductions at the home (R244, R245; a poisoned home: log entry 52, the model's reading). -/
def Obligations.AtomicOperations : Prop := Claims.Atomics ∧ Claims.CompareAndSwap ∧ Claims.HomeReductions

/-! Vector instructions. -/

def Sys2Proof.Claims.ElementwiseResults : Prop :=
  ∀ (i : Instr) (s : State) (q : Elementwise), i.wf = true → elementwise i s = some q →
    VecReady s q.vd (rowsOf q.t) → Clean s q.srcs (TakesPart s.me q.p) →
    let r := fun e => q.f (q.srcs.map fun v => (s.me.getV v).elem e)
    ∃ t, exec i s = .next t ∧
      VecWrites s t q.vd (etypeFor q.t) (TakesPart s.me q.p) (fun e => containerOf q.t (r e).1)
        (orFlags s q.p fun e => (r e).2)

/-- R125, R328: the least element k that meets poison traps with cause 10 and VRI = k; the elements below it are written. -/
def Sys2Proof.Claims.ElementFaults : Prop :=
  ∀ (i : Instr) (s : State) (q : Elementwise) (k : Nat), i.wf = true → elementwise i s = some q →
    VecReady s q.vd (rowsOf q.t) → k < 256 → TakesPart s.me q.p k →
    (∃ r ∈ q.srcs, (s.me.getV r).badElem k = true) →
    (∀ e, e < k → TakesPart s.me q.p e → ∀ r ∈ q.srcs, (s.me.getV r).badElem e = false) →
    ∃ t, exec i s = .next t ∧ (∀ r, t.x r = s.x r) ∧ (∀ r, r ≠ q.vd → t.me.getV r = s.me.getV r) ∧
      OnlyMe s t ∧ t.me.csr.vri = BitVec.ofNat 9 k ∧ t.me.csr.instret = s.me.csr.instret ∧
      (∀ e, e < k → TakesPart s.me q.p e → (t.me.getV q.vd).elem e =
        containerOf q.t (q.f (q.srcs.map fun v => (s.me.getV v).elem e)).1 % 2 ^ (32 * rowsOf q.t)) ∧
      (s.me.handler = false → ∃ w, t.me.sup = some w ∧ w.cause = 10 ∧ w.eval = 0)

/-- R128, R322: in protected mode the least element m whose two copies differ traps with cause 11, EVAL and VRI = m; the elements
below it are written, and nothing where none of them takes part. (Which element differs is a free value of the state: log entry
47.) -/
def Sys2Proof.Claims.ElementMismatches : Prop :=
  ∀ (i : Instr) (s : State) (q : Elementwise) (m : Nat), i.wf = true → elementwise i s = some q → s.me.csr.vl ≠ 0 →
    s.me.csr.vri = 0 → s.rowCheck [q.vd] (rowsOf q.t) = none → s.me.pmInForce = true → s.me.laneFault = some m →
    TakesPart s.me q.p m →
    (∀ e, e < m → TakesPart s.me q.p e → ∀ r ∈ q.srcs, (s.me.getV r).badElem e = false) →
    let r := fun e => q.f (q.srcs.map fun v => (s.me.getV v).elem e)
    ∃ u t, exec i s = .next t ∧ Counted s u ∧ Trapped u t 11 (ofZ m) (BitVec.ofNat 9 m) ∧
      (∀ r, r ≠ q.vd → u.me.getV r = s.me.getV r) ∧
      u.me.csr.fflags = (chosenBelow s q.p m).foldl (fun a e => a ||| (r e).2) s.me.csr.fflags ∧
      (chosenBelow s q.p m = [] → u.me.v = s.me.v) ∧
      ∀ e ∈ chosenBelow s q.p m, (u.me.getV q.vd).elem e = containerOf q.t (r e).1 % 2 ^ (32 * rowsOf q.t)

/-- Elementwise vector instructions (R103 to R110), the least element that faults (R125), and the least one whose copies differ in
protected mode (R128; log entry 47, the model's choice of which does). -/
def Obligations.ElementwiseOperations : Prop :=
  Claims.ElementwiseResults ∧ Claims.ElementFaults ∧ Claims.ElementMismatches

/-- Instructions that move elements without arithmetic (R113, R117 to R120): the elements and the tail. -/
def Obligations.ElementMoves : Prop :=
  ∀ (i : Instr) (s : State) (m : Mover), mover i s = some m → RowsReady s m.vd (rowsByEtype m.etype) →
    (m.restarts = false → s.me.csr.vri = 0) →
    (∀ e, e < 512 → ∀ r ∈ m.srcs, (s.me.getV r).badElem e = false) →
    ∃ t, exec i s = .next t ∧ VecWrites s t m.vd m.etype m.takes m.value 0

/-- `vcmp`: bits of pd for the elements that take part, the flags of their comparisons. -/
def Sys2Proof.Claims.Compares : Prop :=
  ∀ (i : Instr) (s : State) (pd p : PReg) (a b : VReg) (x : Cond) (ty : ElemTy),
    compareOf i = some (pd, a, b, p, x, ty) → s.me.csr.vl ≠ 0 → s.me.laneFault = none →
    Clean s [a, b] (TakesPart s.me p) →
    let r := fun e => relation s ty x ((s.me.getV a).elem e) ((s.me.getV b).elem e)
    ∃ t, exec i s = .next t ∧
      PredWrites (whole s) t pd (fun e => if (s.me.getP p).getLsbD e then (r e).1 else (s.me.getP pd).getLsbD e)
        (orFlags s p fun e => (r e).2)

/-- `pand`, `por`, `pxor`, `pnot`, `pset`. -/
def Sys2Proof.Claims.PredicateOps : Prop :=
  ∀ (i : Instr) (s : State) (pd : PReg) (f : Nat → Bool), predOf i s = some (pd, f) → s.me.csr.vl ≠ 0 →
    s.me.laneFault = none → ∃ t, exec i s = .next t ∧ PredWrites (whole s) t pd f 0

/-- Vector compares and predicate instructions (R112, R114). -/
def Obligations.ComparesAndPredicates : Prop := Claims.Compares ∧ Claims.PredicateOps

/-- `vext`, `pfirst` and `ppop`: what an x register gets from a vector or predicate register (R113, R114), with VL = 0 too. -/
def Obligations.VectorToScalar : Prop :=
  ∀ (s : State) (a c : XReg) (v : VReg) (p : PReg),
    ((∀ e, e < s.me.csr.vl.toNat → (s.me.getV v).badElem e = false) → ∃ t, exec (.vext a v c) s = .next t ∧
      WritesX (whole s) t a (if Z (s.x c) < s.me.csr.vl.toNat then ofZ ((s.me.getV v).elem (Z (s.x c))) else 0) 0) ∧
    (∃ t, exec (.pfirst a p) s = .next t ∧ WritesX (whole s) t a (ofZ ((chosen s p).head?.getD s.me.csr.vl.toNat)) 0) ∧
    (∃ t, exec (.ppop a p) s = .next t ∧ WritesX (whole s) t a (ofZ (chosen s p).length) 0)

/-- `vred` on an integer type gives the exact reduction of the elements that take part, in whatever order (R116). -/
def Sys2Proof.Claims.IntegerReductions : Prop :=
  ∀ (s : State) (op : RedOp) (a : XReg) (v : VReg) (ty : ElemTy) (p : PReg), ty.isInt = true →
    s.me.csr.vl.toNat ≤ 256 → s.me.laneFault = none → Clean s [v] (TakesPart s.me p) →
    ∃ t, exec (.vred op a v ty .rne p) s = .next t ∧ WritesX (whole s) t a (inX ty (intReduce op ty (ints s v ty p))) 0

/-- Every `vred`, float sums, minima and maxima and saturating integer sums among them, gives the root of the fixed tree of R46
over the elements in order. -/
def Sys2Proof.Claims.ReductionTree : Prop :=
  ∀ (s : State) (op : RedOp) (a : XReg) (v : VReg) (ty : ElemTy) (rm : Rm) (p : PReg) (k : Nat),
    (Instr.vred op a v ty rm p).wf = true → s.me.csr.vl.toNat ≤ 2 ^ k → (k = 0 ∨ 2 ^ (k - 1) < s.me.csr.vl.toNat) →
    s.me.laneFault = none → Clean s [v] (TakesPart s.me p) →
    let r := (treeRoot (nodeOf s op ty rm) k (leaves s v ty p k)).getD (emptyOf op ty, 0)
    ∃ t, exec (.vred op a v ty rm p) s = .next t ∧ WritesX (whole s) t a (inX ty r.1) r.2

/-- `vred` on integers, and on every type by its tree (R46, R116). Leaves are read as operands, so that a NaN that is the only leaf
comes out canonical: log entry 13, the model's reading. -/
def Obligations.VectorReductions : Prop := Claims.IntegerReductions ∧ Claims.ReductionTree

/-- Scans and segmented reductions (R47, R48, R116) give the elements that take part the values of their trees; an inclusive
wrapping integer sum scan gives each the sum of those up to it. Leaves are read as operands: log entry 13, the model's reading. -/
def Obligations.Scans : Prop :=
  ∀ (i : Instr) (s : State) (vd v : VReg) (p : PReg) (ty : ElemTy), i.wf = true → treeOf i = some (vd, v, p, ty) →
    RowsReady s vd (rowsOf ty) → Clean s [v] (TakesPart s.me p) →
    ∃ t f, exec i s = .next t ∧ treeValue i s = some f ∧
      VecWrites s t vd (etypeFor ty) (TakesPart s.me p) (fun e => containerOf ty (f e).1) (orFlags s p fun e => (f e).2) ∧
      (i = .vscan .add false vd v ty .rne p → ty.isInt = true → ∀ e, TakesPart s.me p e → (f e).2 = 0 ∧
        containerOf ty (f e).1 = containerOf ty (zBits ty
          (((chosen s p).filter fun j => decide (j ≤ e)).map fun j => intVal ty ((s.me.getV v).elem j)).sum))

/-- R104: with VL = 0 an instruction with a vector or predicate destination, or that stores, only retires. -/
def Obligations.NoElements : Prop :=
  ∀ (i : Instr) (s : State),
    ((elementwise i s).isSome = true ∨ (mover i s).isSome = true ∨ (compareOf i).isSome = true ∨
      (predOf i s).isSome = true ∨ (treeOf i).isSome = true ∨ (vmemOf i s).isSome = true ∨ (fnOf i s).isSome = true ∨
      (∃ a b o, i = .fld a b o) ∨ ∃ a b o, i = .fst a b o) →
    s.me.csr.vl = 0 → ∃ t, exec i s = .next t ∧ WritesNothing s t

/-- Vector loads (R121 to R124): each element that takes part gets its little-endian value, the others stay or go to zero. -/
def Sys2Proof.Claims.LoadedElements : Prop :=
  ∀ (i : Instr) (s : State) (m : VMem) (key : Nat → Nat → Nat), vmemOf i s = some m → m.isLoad = true → Quiet s →
    s.me.csr.vl ≠ 0 → s.me.csr.vri = 0 → s.me.laneFault = none →
    s.rowCheck ((List.range m.fields).map m.reg) (if m.size = 8 then 2 else 1) = none →
    (∀ e, TakesPart s.me m.p e → (∀ r ∈ m.index, (s.me.getV r).badElem e = false) ∧
      ∀ f, f < m.fields → VReads s m (m.addr e f) (key e f)) →
    ∃ t, exec i s = .next t ∧ OnlyMe s t ∧ t.me.x = s.me.x ∧ t.me.p = s.me.p ∧ t.me.pc = s.me.retire.pc ∧
      t.me.csr = { s.me.csr with instret := s.me.csr.instret + 1 } ∧
      (∀ r, (∀ f, f < m.fields → r ≠ m.reg f) → t.me.getV r = s.me.getV r) ∧
      ∀ f, f < m.fields →
        let old := s.me.getV (m.reg f)
        let et := loadedEtype m.size old.desc.etype
        let new := t.me.getV (m.reg f)
        new.desc = pointDesc old.desc et ∧
        (∀ e, e < 256 → TakesPart s.me m.p e → new.elem e = leValue s (key e f) m.size) ∧
        (∀ e, e < s.me.csr.vl.toNat → e < 256 → ¬ TakesPart s.me m.p e → new.elem e = keptElem old et e) ∧
        (∀ e, s.me.csr.vl.toNat ≤ e → e < 256 → s.me.csr.vpolTd = true → new.elem e = 0)

/-- R121, R125: the least element k of a vector load that faults gives the trap its cause and EVAL and VRI = k; the elements below it
are loaded, and nothing where none of them takes part. -/
def Sys2Proof.Claims.LoadFaults : Prop :=
  ∀ (i : Instr) (s : State) (m : VMem) (key : Nat → Nat → Nat) (k cause : Nat) (eval : Word64), vmemOf i s = some m →
    m.isLoad = true → Quiet s → s.me.csr.vl ≠ 0 → s.me.csr.vri = 0 → s.me.laneFault = none →
    s.rowCheck ((List.range m.fields).map m.reg) (if m.size = 8 then 2 else 1) = none →
    (∀ e ∈ chosenBelow s m.p k, (∀ r ∈ m.index, (s.me.getV r).badElem e = false) ∧
      ∀ f, f < m.fields → VReads s m (m.addr e f) (key e f)) →
    TakesPart s.me m.p k → ElementFails s m k cause eval →
    ∃ u t, exec i s = .next t ∧ Trapped u t cause eval (BitVec.ofNat 9 k) ∧ OnlyMe s u ∧ { u.me with v := s.me.v } = s.me ∧
      (∀ r, (∀ f, f < m.fields → r ≠ m.reg f) → u.me.getV r = s.me.getV r) ∧
      (chosenBelow s m.p k = [] → u = s) ∧
      ∀ e ∈ chosenBelow s m.p k, ∀ f, f < m.fields → (u.me.getV (m.reg f)).elem e = leValue s (key e f) m.size

/-- Vector loads: their elements, and the least element that faults. -/
def Obligations.VectorLoads : Prop := Claims.LoadedElements ∧ Claims.LoadFaults

/-- Vector stores (R121 to R124): exactly the bytes of the elements that take part change, the later element last. -/
def Sys2Proof.Claims.StoredElements : Prop :=
  ∀ (i : Instr) (s : State) (m : VMem) (key : Nat → Nat → Nat), vmemOf i s = some m → m.isLoad = false → Quiet s →
    s.me.csr.vl ≠ 0 → s.me.csr.vri = 0 → s.me.laneFault = none →
    (∀ e, TakesPart s.me m.p e → (∀ r ∈ m.index, (s.me.getV r).badElem e = false) ∧
      ∀ f, f < m.fields → (s.me.getV (m.reg f)).badElem e = false ∧
        VStores s m.index.isSome m.size (m.addr e f) (key e f)) →
    ∃ t, exec i s = .next t ∧ (∀ a, t.byte a = byteAfter s m.size (storesOf s m key) a) ∧ t.me.x = s.me.x ∧
      t.me.v = s.me.v ∧ t.me.p = s.me.p ∧ t.me.pc = s.me.retire.pc ∧
      t.me.csr = { s.me.csr with instret := s.me.csr.instret + 1 } ∧
      { t with harts := s.harts, mem := s.mem, stale := s.stale, poison := s.poison, inband := s.inband,
               flaws := s.flaws } = s ∧
      ∀ h, h ≠ s.cur → { t.hart h with wake := (s.hart h).wake } = s.hart h

/-- R121, R125: the least element k of a vector store that faults gives the trap its cause and EVAL and VRI = k; the bytes of the
elements below it, and no others, have changed. -/
def Sys2Proof.Claims.StoreFaults : Prop :=
  ∀ (i : Instr) (s : State) (m : VMem) (key : Nat → Nat → Nat) (k cause : Nat) (eval : Word64), vmemOf i s = some m →
    m.isLoad = false → Quiet s → s.me.csr.vl ≠ 0 → s.me.csr.vri = 0 → s.me.laneFault = none →
    (∀ e ∈ chosenBelow s m.p k, (∀ r ∈ m.index, (s.me.getV r).badElem e = false) ∧
      ∀ f, f < m.fields → (s.me.getV (m.reg f)).badElem e = false ∧
        VStores s m.index.isSome m.size (m.addr e f) (key e f)) →
    TakesPart s.me m.p k → ElementFails s m k cause eval →
    ∃ u t, exec i s = .next t ∧ Trapped u t cause eval (BitVec.ofNat 9 k) ∧
      (∀ a, u.byte a = byteAfter s m.size (storesAt s m key (chosenBelow s m.p k)) a) ∧
      { u with harts := s.harts, mem := s.mem, stale := s.stale, poison := s.poison, inband := s.inband,
               flaws := s.flaws } = s ∧
      ∀ h, { u.hart h with wake := (s.hart h).wake } = s.hart h

/-- Vector stores: their bytes, and the least element that faults. -/
def Obligations.VectorStores : Prop := Claims.StoredElements ∧ Claims.StoreFaults

/-! Function instructions. -/

/-- A descriptor of the point layout with all four fields zero, which `fset` writes without rows (R146). -/
def Sys2Proof.Claims.zeroLayout (d : Desc) : Prop := d.deg = 0 ∧ d.shape = 0 ∧ d.basis = 0 ∧ d.etype = 0

/-- `fget` shows the descriptor; `fset` writes it, refuses it by name, or zeroes the elements below VL where the layout
changes (R146, R147, R164); a mismatch of the two copies at an element m stops the change there (R128, R165). The model's choices
in it: `fset`'s reason 7 comes before reason 5 (log entry 60), an all-zero layout over an all-zero one keeps its rows (log entry
50), ROWS shown after a part-way fault (log entry 76), an `fset` that changes the layout meets a mismatch as other function
instructions do (log entry 77). -/
def Sys2Proof.Claims.Descriptors : Prop :=
  ∀ (s : State) (v : VReg) (x : XReg),
    let d := descFrom (s.x x)
    let old := s.me.getV v
    let rows := coefCount d * rowsByEtype d.etype
    (∃ t, exec (.fget x v) s = .next t ∧ WritesX s t x (ofZ (descBits old)) 0) ∧
    (descIllegal d → ∃ t, exec (.fset v x) s = .next t ∧
      Trapped s t 1 (1#8 ++ 7#8 ++ 0#16 ++ s.me.ir) 0) ∧
    (¬ descIllegal d → old.desc.policy = 3 → ∃ t, exec (.fset v x) s = .next t ∧
      Trapped s t 1 (1#8 ++ 5#8 ++ 0#16 ++ s.me.ir) 0) ∧
    (¬ descIllegal d → old.desc.policy ≠ 3 → degreeMax d.shape d.etype < d.deg.toNat → ∃ t, exec (.fset v x) s = .next t ∧
      Trapped s t 8 (d.deg.setWidth 64) 0) ∧
    (¬ descIllegal d → old.desc.policy ≠ 3 → d.deg.toNat ≤ degreeMax d.shape d.etype →
      (sameLayout d old.desc ∨ zeroLayout d ∨ (s.rowCheck [v] rows = none ∧ s.me.laneFault = none)) →
      ∃ t, exec (.fset v x) s = .next t ∧ OnlyMe s t ∧ t.me.x = s.me.x ∧ t.me.p = s.me.p ∧
        t.me.csr = { s.me.csr with instret := s.me.csr.instret + 1 } ∧ (∀ r, r ≠ v → t.me.getV r = s.me.getV r) ∧
        (t.me.getV v).desc = d ∧
        (sameLayout d old.desc → (t.me.getV v).data = old.data ∧ (t.me.getV v).rows = old.rows) ∧
        (¬ sameLayout d old.desc → ∀ e k, e < s.me.csr.vl.toNat → k < coefCount d → k < 256 → (t.me.getV v).coef e k = 0) ∧
        (¬ sameLayout d old.desc → zeroLayout d → (t.me.getV v).rows = 0) ∧
        (¬ sameLayout d old.desc → ¬ zeroLayout d → s.me.csr.vl ≠ 0 → (t.me.getV v).rows = rows)) ∧
    (¬ descIllegal d → old.desc.policy ≠ 3 → d.deg.toNat ≤ degreeMax d.shape d.etype → ¬ sameLayout d old.desc → ¬ zeroLayout d →
      s.rowCheck [v] rows = none → s.me.pmInForce = true → ∀ m, s.me.laneFault = some m → m < s.me.csr.vl.toNat → m < 256 →
      ∃ u t, exec (.fset v x) s = .next t ∧ Counted s u ∧ Trapped u t 11 (ofZ m) (BitVec.ofNat 9 m) ∧
        u.me.csr = s.me.csr ∧ (∀ r, r ≠ v → u.me.getV r = s.me.getV r) ∧ (m = 0 → u.me.v = s.me.v) ∧
        ∀ e k, e < m → k < coefCount d → k < 256 → (u.me.getV v).coef e k = 0)

/-- A function instruction whose checks pass completes with the descriptor R140, R141 and R144 give its result. -/
def Sys2Proof.Claims.FunctionResults : Prop :=
  ∀ (i : Instr) (s : State) (f : FnForm), i.wf = true → fnOf i s = some f → f.Ready s →
    ∃ t fl, exec i s = .next t ∧ VecFrame s t f.vd (f.desc s) (f.rows s) fl

/-- Descriptor faults (R164): two shapes that differ, an axis or face the source lacks, POLICY 3, a degree beyond CAP under
POLICY 0; nothing commits and VRI is 0. That an instruction's own checks come before reason 5 is log entry 60, the model's choice. -/
def Sys2Proof.Claims.FunctionFaults : Prop :=
  ∀ (i : Instr) (s : State) (f : FnForm), fnOf i s = some f → s.me.csr.vl ≠ 0 →
    (¬ f.legal → (∀ a b x y t rm p, i ≠ .feval a b x y t rm p) → ∃ t r, exec i s = .next t ∧ r ∈ [1#8, 2#8, 3#8, 4#8] ∧
      Trapped s t 1 (1#8 ++ r ++ 0#16 ++ s.me.ir) 0) ∧
    (f.legal → (s.me.getV f.vd).desc.policy = 3 → ∃ t, exec i s = .next t ∧
      Trapped s t 1 (1#8 ++ 5#8 ++ 0#16 ++ s.me.ir) 0) ∧
    (f.legal → (s.me.getV f.vd).desc.policy = 0 → f.degree s < f.nat → ∃ t, exec i s = .next t ∧
      Trapped s t 8 (ofZ f.nat) 0)

/-- `fget`, `fset`, and the descriptor faults of function instructions (R146, R147, R164), with the model's choices of log entries
50, 60, 76 and 77. -/
def Obligations.DescriptorsAndFaults : Prop := Claims.Descriptors ∧ Claims.FunctionFaults

/-- Coefficients where no change of basis or degree comes in: sums and differences of functions of one layout, a scaled
function, a projection or raise of a modal function by index tuple, the integral of a modal function. -/
def Sys2Proof.Claims.FunctionCoefficients : Prop :=
  ∀ (s t : State) (f : FnForm) (d a b : VReg) (p : PReg) (e k : Nat),
    let A := s.me.getV a
    let B := s.me.getV b
    let z := s.me.csr.ftz
    let D := t.me.getV d
    let n := A.desc.deg.toNat + 1
    TakesPart s.me p e → e < 256 → A.desc.etype ≠ 2 →
    (∀ i minus, (i = Instr.fadd d a b p ∧ minus = false) ∨ (i = Instr.fsub d a b p ∧ minus = true) → sameLayout A.desc B.desc →
      fnOf i s = some f → f.Ready s → f.degree s = f.nat → exec i s = .next t → k < coefCount A.desc →
      D.coef e k = ((if minus then fpSub else fpAdd) (modeOf .dyn s.me.csr.rm) z f.t (numIn z f.t (A.coef e k))
        (numIn z f.t (B.coef e k))).1 % 2 ^ f.t.width) ∧
    (∀ x, fnOf (.fscale d a x p) s = some f → f.Ready s → f.degree s = f.nat → exec (.fscale d a x p) s = .next t →
      k < coefCount A.desc →
      D.coef e k = (fpMul (modeOf .dyn s.me.csr.rm) z f.t (numIn z f.t (A.coef e k))
        (numIn z f.t (Z (s.x x) % 2 ^ f.t.width))).1 % 2 ^ f.t.width) ∧
    (∀ i m rm, i = Instr.fproj d a m f.t rm p ∨ i = Instr.fraise d a m f.t rm p → i.wf = true → fnEtype f.t = A.desc.etype →
      fnOf i s = some f → f.Ready s → f.degree s = f.nat → exec i s = .next t → A.desc.basis = 0 →
      k < (f.nat + 1) ^ A.desc.shape.toNat → D.coef e k = sameTuple A e A.desc.shape.toNat n (f.nat + 1) k)

/-- Every coefficient of every function instruction, of unlike layouts, bases and degrees and under a cap: the chains of R135
over the constants of R134, in index order (R141, R142, R148 to R159). -/
def Sys2Proof.Claims.FunctionArithmetic : Prop :=
  ∀ (i : Instr) (s : State) (f : FnForm) (e : Nat) (idx : List Nat), i.wf = true → fnOf i s = some f → f.Ready s →
    TakesPart s.me f.p e → e < 256 → idx.length = f.shape.toNat → (∀ k ∈ idx, k ≤ f.degree s) →
    ∃ t g, exec i s = .next t ∧ fnValue i s f (f.degree s) e = some g ∧
      (t.me.getV f.vd).coef e (placeIn (f.degree s + 1) idx) = g idx % 2 ^ f.t.width

/-- Results of function instructions: descriptor, frame, and every coefficient. -/
def Obligations.FunctionValues : Prop :=
  Claims.FunctionResults ∧ Claims.FunctionCoefficients ∧ Claims.FunctionArithmetic

/-- `fld` and `fst` (R160, R161): every element below VL, coefficients in order, little-endian. -/
def Obligations.FunctionMemory : Prop :=
  ∀ (s : State) (v : VReg) (b : XReg) (o : BitVec 14) (key : Nat → Nat → Nat),
    let old := s.me.getV v
    let w := rowsByEtype old.desc.etype
    let count := coefCount old.desc
    let addr := fun n e k => s.x b + immS o + ofZ ((e * n + k) * (4 * w))
    Quiet s → s.me.csr.vl ≠ 0 → s.me.csr.vri = 0 → s.me.laneFault = none →
    (old.desc.policy = 3 → ∃ t, exec (.fld v b o) s = .next t ∧ Trapped s t 1 (1#8 ++ 5#8 ++ 0#16 ++ s.me.ir) 0) ∧
    (old.desc.policy ≠ 3 → s.rowCheck [v] (count * w) = none → count * w ≤ 256 →
      (∀ e k, e < s.me.csr.vl.toNat → k < count → (addr count e k).toNat % (4 * w) = 0 ∧
        s.resolveMe (addr count e k).toNat .load = .ok (key e k) ∧ ¬ BeyondSpad s (key e k) (4 * w) ∧
        s.poisonedAt (key e k) (4 * w) = none) →
      ∃ t, exec (.fld v b o) s = .next t ∧ VecFrame s t v old.desc (count * w) 0 ∧
        ∀ e k, e < s.me.csr.vl.toNat → e < 256 → k < count → (t.me.getV v).coef e k = leValue s (key e k) (4 * w)) ∧
    let n := if old.rows = 0 then 1 else count
    ((∀ e, old.badAny e = false) →
      (∀ e k, e < s.me.csr.vl.toNat → k < n → VStores s false (4 * w) (addr n e k) (key e k)) →
      ∃ t, exec (.fst v b o) s = .next t ∧ t.me.x = s.me.x ∧ t.me.v = s.me.v ∧ t.me.p = s.me.p ∧
        t.me.csr = { s.me.csr with instret := s.me.csr.instret + 1 } ∧
        ∀ a, t.byte a = byteAfter s (4 * w)
          ((List.range (min s.me.csr.vl.toNat 256)).flatMap fun e => (List.range n).map fun k => (key e k, old.coef e k)) a)

/-! Strips, leases, waits. -/

/-- The strip-mine branch: no-progress trap on a second empty strip, else address registers, VREM, a strip boundary, and back
to the loop head until nothing remains (R207). -/
def Sys2Proof.Claims.StripMine : Prop :=
  ∀ (i : Instr) (s : State) (target : Word64) (rs : List (XReg × BitVec 16)), smbOf i s = some (target, rs) →
    let h := s.me
    let n := h.csr.vl.toNat
    let second := n = 0 ∧ h.csr.vrem ≠ 0 ∧ h.stall = true ∧ s.suspended s.cur = false
    (second → ∃ t, exec i s = .next t ∧ Trapped s t 9 (ofZ (target.toNat % 2 ^ 48)) h.csr.vri) ∧
    (¬ second → ∃ t, exec i s = .next t ∧
      (∀ r, t.x r = if r = 0 then 0 else
        ofS (S (s.x r) + n * ((rs.filter fun e => e.1 == r).map fun e => e.2.toInt).sum)) ∧
      t.me.csr.vrem.toNat = h.csr.vrem.toNat - n ∧
      t.me.csr.vl = BitVec.ofNat 9 (min t.me.csr.vrem.toNat (fullStrip t.me)) ∧ t.me.pmInForce = h.csr.vpolPm ∧
      t.me.p = h.p ∧ t.me.csr.instret = h.csr.instret + 1 ∧
      t.me.pc = (if t.me.csr.vrem = 0 then h.retire.pc else target) ∧ ∀ a, t.byte a = s.byte a)

/-- `lease` and its grant, the arbiter's service of a waiting hart, `farm` (R202, R203, R210). -/
def Sys2Proof.Claims.Leases : Prop :=
  ∀ (s : State) (a b c : XReg),
    (let low := min (Z (s.x b)) 16
     let pref := max low (min (Z (s.x c)) 16)
     ∃ t, exec (.lease a b c) s = .next t ∧ t.me.csr.leaseMin.toNat = low ∧ t.me.csr.leasePref.toNat = pref ∧
      (∀ r, r ≠ a → t.x r = s.x r) ∧ t.me.p = s.me.p ∧ (∀ x, t.byte x = s.byte x) ∧
      (s.waitingAt s.myCoreId = [] → s.myCore.withdrawn = 0 → s.me.lmap.length = s.me.grant → low ≤ s.me.grant →
        low ≤ t.me.grant ∧ t.me.grant ≤ pref ∧ t.x a = (if a = 0 then 0 else ofZ t.me.grant) ∧
        t.me.csr.vl = BitVec.ofNat 9 (min t.me.csr.vrem.toNat (fullStrip t.me)) ∧
        t.me.csr.instret = s.me.csr.instret + 1 ∧ t.me.wait = .none)) ∧
    (∀ h, (s.hart h).wait = .lease a → (s.hart h).wake.isSome = true → (s.hart h).csr.halt = false →
      ∃ t, exec (.leaseWaitGrant h) s = .next t ∧ AtHart s t h fun u w =>
        w.x a = (if a = 0 then 0 else ofZ u.me.grant) ∧ (∀ r, r ≠ a → w.x r = u.x r) ∧
        w.me.csr.vl = BitVec.ofNat 9 (min u.me.csr.vrem.toNat (fullStrip w.me)) ∧ w.me.pmInForce = u.me.csr.vpolPm ∧
        w.me.csr.instret = u.me.csr.instret + 1 ∧ w.me.wait = .none ∧ OnlyMe u w) ∧
    (∀ core, s.waitingAt core = [] → exec (.arbiterServe core) s = .next s) ∧
    (∀ core w, s.waitingAt core = [w] → (s.hart w).grant = 0 → (s.hart w).csr.halt = false → (s.hart w).csr.leaseMin.toNat ≤ (s.usable w).length →
      ∃ t, exec (.arbiterServe core) s = .next t ∧
        (t.hart w).grant = min (s.usable w).length (s.hart w).csr.leasePref.toNat ∧
        (t.hart w).wake = some (ofZ (t.hart w).grant) ∧ (t.hart w).age = 0 ∧ (t.hart w).x = (s.hart w).x ∧
        (∀ h, h ≠ w → t.hart h = s.hart h) ∧ { t with harts := s.harts } = s) ∧
    (∀ key, Quiet s → Z (s.x b) % 16 = 0 → s.resolveMe (s.x b).toNat .atomic = .ok key → ¬ BeyondSpad s key 16 →
      s.poisonedAt key 16 = none →
      let start := leValue s key 6
      ∃ t n, exec (.farm a b) s = .next t ∧ n = min (fullStrip t.me) (leValue s (key + 8) 6 - start) ∧
        t.x a = (if a = 0 then 0 else ofZ start) ∧ (∀ r, r ≠ a → t.x r = s.x r) ∧
        t.me.csr.vrem = BitVec.ofNat 48 n ∧ t.me.csr.vl = BitVec.ofNat 9 n ∧ t.me.pmInForce = s.me.csr.vpolPm ∧
        t.me.csr.instret = s.me.csr.instret + 1 ∧
        ∀ x, t.byte x = if key ≤ x ∧ x < key + 6 then BitVec.ofNat 8 ((start + n) / 256 ^ (x - key)) else s.byte x)

/-- Strip-mine branches, leases, the arbiter and `farm` (R201 to R210). -/
def Obligations.StripsAndLeases : Prop := Claims.StripMine ∧ Claims.Leases

/-- Sync words and future words: arming, waiting, filling, and what their waits come to (R221, R222, R250). -/
def Sys2Proof.Claims.SyncAndFutureWords : Prop :=
  ∀ (s : State) (a b c : XReg) (key : Nat), WordAt s (s.x b) key →
    let gen := leValue s (key + 8) 4
    let full := (s.byte (key + 8)).getLsbD 0
    (∃ t, exec (.swInit b c) s = .next t ∧ RetiresStoring s t 0 0 fun x =>
      if key ≤ x ∧ x < key + 4 then BitVec.ofNat 8 (Z (s.x c) / 256 ^ (x - key))
      else if (key + 4 ≤ x ∧ x < key + 8) ∨ (key + 12 ≤ x ∧ x < key + 16) then 0 else s.byte x) ∧
    (gen ≠ Z (s.x c) % 2 ^ 32 → ∃ t, exec (.swWait a b c) s = .next t ∧ WritesX s t a (ofZ gen) 0) ∧
    (gen = Z (s.x c) % 2 ^ 32 → ∃ t, exec (.swWait a b c) s = .next t ∧
      Waits s t (.swWait key ((s.x c).setWidth 32) a)) ∧
    (full = true → ∃ t, exec (.futPut a b c) s = .next t ∧ WritesX s t a 1 0) ∧
    (full = false → ∃ t, exec (.futPut a b c) s = .next t ∧ (RetiresStoring s t a 0 fun x =>
        if key ≤ x ∧ x < key + 8 then BitVec.ofNat 8 (Z (s.x c) / 256 ^ (x - key))
        else if x = key + 8 then s.byte x ||| 1 else s.byte x) ∧
      ∀ h rd sl, h ≠ s.cur → (s.hart h).wait = .futGet key rd sl → (s.hart h).wake = none →
        (t.hart h).wake = some (s.x c)) ∧
    (full = true → ∃ t, exec (.futGet a b) s = .next t ∧ WritesX s t a (ofZ (leValue s key 8)) 0) ∧
    (full = false → s.parksUsed key < 8 → ∃ t, exec (.futGet a b) s = .next t ∧ Waits s t (.futGet key a true)) ∧
    ∀ h k e g sl, (s.hart h).csr.halt = false →
      ((s.hart h).wait = .swWait k e a → (s.hart h).wake = some g → ∃ t, exec (.syncWaitWake h) s = .next t ∧
        AtHart s t h fun u w => WritesX u w a g 0) ∧
      ((s.hart h).wait = .futGet k a sl → (s.hart h).wake = some g → ∃ t, exec (.futureFillWake h) s = .next t ∧
        AtHart s t h fun u w => WritesX u w a g 0) ∧
      ((s.hart h).wait = .swWait k e a → TimedOut (s.hart h) → ∃ t, exec (.syncWaitTimeout h) s = .next t ∧
        AtHart s t h NoProgress) ∧
      ((s.hart h).wait = .futGet k a sl → TimedOut (s.hart h) → ∃ t, exec (.futureWaitTimeout h) s = .next t ∧
        AtHart s t h NoProgress)

/-- `waitm` and `vwait` (R249, R252): what they compare, when they park, what ends the wait. -/
def Sys2Proof.Claims.MonitoredWaits : Prop :=
  ∀ (s : State) (a b c d : XReg) (ty : ElemTy) (sc : Scope), Quiet s →
    (∀ key, (Instr.waitm a b c d ty sc).wf = true → Z (s.x b) % bytesOf ty = 0 → s.resolveMe (s.x b).toNat .load = .ok key →
      ¬ BeyondSpad s key (bytesOf ty) → s.poisonedAt key (bytesOf ty) = none →
      let v := leValue s key (bytesOf ty)
      (v ≠ Z (s.x c) % 256 ^ bytesOf ty ∨ s.x d = 0 → ∃ t, exec (.waitm a b c d ty sc) s = .next t ∧ WritesX s t a (ofZ v) 0) ∧
      (v = Z (s.x c) % 256 ^ bytesOf ty → s.x d ≠ 0 → s.monitorsUsed (dieOfHart s.cur) key < monitorSlots key →
        ∃ t, exec (.waitm a b c d ty sc) s = .next t ∧ Waits s t (.waitm key (bytesOf ty) a (s.x d) true))) ∧
    (∀ h key n limit slot, (s.hart h).wait = .waitm key n a limit slot → (s.hart h).csr.halt = false →
      (∀ v, (s.hart h).wake = some v → ∃ t, exec (.monitorWake h) s = .next t ∧ AtHart s t h fun u w => WritesX u w a v 0) ∧
      ((s.hart h).wake = none → limit.toNat ≤ (s.hart h).waited → s.poisonedAt key n = none →
        ∃ t, exec (.waitmTimeout h) s = .next t ∧ AtHart s t h fun u w => WritesX u w a (ofZ (leValue s key n)) 0)) ∧
    (∀ (v : VReg) (p : PReg), s.myCtx.cfg.t1 ≠ 1 →
      ∃ t, exec (.vwait a v c p) s = .next t ∧ Trapped s t 1 (s.me.ir.setWidth 64) s.me.csr.vri) ∧
    (∀ (v : VReg) (p : PReg) (key : Nat → Nat), s.myCtx.cfg.t1 = 1 → s.me.csr.vri = 0 → (chosen s p).length ≤ 4 →
      (∀ e ∈ s.harts, ∀ die k, e.2.monitorsIn e.1 die k = 0) →
      (∀ e ∈ chosen s p, let off := (s.me.getV v).elem e % 2 ^ 32
        (s.me.getV v).badElem e = false ∧ off < 0x100000 ∧ off % 8 = 0 ∧ s.resolveMe off .load = .ok (key e) ∧
          ¬ BeyondSpad s (key e) 8 ∧ s.poisonedAt (key e) 8 = none) →
      ((∀ e ∈ chosen s p, leValue s (key e) 8 ≠ Z (s.x c)) →
        ∃ t, exec (.vwait a v c p) s = .next t ∧ WritesX s t a (ofZ s.me.csr.vl.toNat) 0) ∧
      ((∃ e ∈ chosen s p, leValue s (key e) 8 = Z (s.x c)) → ∃ t, exec (.vwait a v c p) s = .next t ∧
        Waits s t (.vwait ((chosen s p).map key) none (s.x c) s.me.csr.vl.toNat a))) ∧
    (∀ h keys own expect l, (s.hart h).wait = .vwait keys own expect l a → (s.hart h).csr.halt = false →
      (∀ k ∈ keys ++ own.toList, leValue s k 8 ≠ expect.toNat) → (s.hart h).csr.vri = 0 →
      ∃ t, exec (.vwaitWake h) s = .next t ∧ AtHart s t h fun u w => WritesX u w a (ofZ l) 0)

/-- Sync words, future words and monitored waits (R221, R222, R249, R250, R252). -/
def Obligations.WordWaits : Prop := Claims.SyncAndFutureWords ∧ Claims.MonitoredWaits

/-- Core queues (R213 to R215). -/
def Sys2Proof.Claims.CoreQueues : Prop :=
  ∀ (s : State) (r : XReg) (n : BitVec 2),
    let q := n.toNat
    let l := queueOf s q
    (l.length < 16 → s.firstWaiter s.myCoreId false q = none → ∃ t, exec (.qpush r n) s = .next t ∧
      WritesNothing (withQueue s q (l ++ [(s.x r, false)])) t) ∧
    (16 ≤ l.length → ∃ t, exec (.qpush r n) s = .next t ∧ Waits s t (.queuePush q (s.x r))) ∧
    (∀ v rest, l = (v, false) :: rest → s.firstWaiter s.myCoreId true q = none → ∃ t, exec (.qpop r n) s = .next t ∧
      WritesX (withQueue s q rest) t r v 0) ∧
    (∀ v rest, l = (v, true) :: rest → s.firstWaiter s.myCoreId true q = none → ∃ t, exec (.qpop r n) s = .next t ∧
      Trapped s t 10 0 s.me.csr.vri) ∧
    (l = [] → ∃ t, exec (.qpop r n) s = .next t ∧ Waits s t (.queuePop q r)) ∧
    ∀ h, let u := s.actAs h
      (∀ v, (s.hart h).wait = .queuePush q v → (s.hart h).csr.halt = false →
        u.firstWaiter u.myCoreId false q = some h → (queueOf u q).length < 16 →
        ∃ t, exec (.queueWaitAdmit h) s = .next t ∧
          AtHart s t h fun u w => WritesNothing (withQueue u q (queueOf u q ++ [(v, false)])) w) ∧
      (∀ v rest, (s.hart h).wait = .queuePop q r → (s.hart h).csr.halt = false →
        u.firstWaiter u.myCoreId true q = some h → queueOf u q = (v, false) :: rest →
        ∃ t, exec (.queueWaitAdmit h) s = .next t ∧ AtHart s t h fun u w => WritesX (withQueue u q rest) w r v 0) ∧
      ((∃ v, (s.hart h).wait = .queuePush q v) ∧ 16 ≤ (queueOf u q).length ∨
          (s.hart h).wait = .queuePop q r ∧ queueOf u q = [] →
        TimedOut (s.hart h) → ∃ t, exec (.queueWaitTimeout h) s = .next t ∧ AtHart s t h NoProgress)

/-- Barriers (R247, R248, R251): arriving, arriving and waiting, waiting, the release, and want of a barrier. -/
def Sys2Proof.Claims.BarrierArrivals : Prop :=
  ∀ (s : State) (l : BitVec 2) (id : BitVec 5) (b : XReg),
    let n := s.x b
    let reason := fun (r : BitVec 8) => (4#8 ++ r ++ 0#16 ++ s.me.ir : Word64)
    (∀ num old, (s.boundBar l.toNat id.toNat = some num ∧ num < barsPerUnit l.toNat ∧ old = barOf s l num ∧
          s.me.pending l.toNat id.toNat ≠ some old.gen) ∨
        (s.boundBar l.toNat id.toNat = none ∧ s.freeBar l.toNat = some num ∧
          old = { barOf s l num with bound := some (s.myCtxId, l.toNat, id.toNat), count := 0 }) →
      (old.count = 0 → n.toNat < 1 ∨ barLimit l.toNat < n.toNat →
        ∃ t, exec (.barArrive id b l) s = .next t ∧ Trapped s t 1 (reason 2) s.me.csr.vri) ∧
      (old.count ≠ 0 → n ≠ old.expect.setWidth 64 →
        ∃ t, exec (.barArrive id b l) s = .next t ∧ Trapped s t 1 (reason 1) s.me.csr.vri) ∧
      ((old.count = 0 ∧ 1 ≤ n.toNat ∧ n.toNat ≤ barLimit l.toNat) ∨ (old.count ≠ 0 ∧ n = old.expect.setWidth 64) →
        ∃ u, barOf u l num = arrived old n ∧ u.me = (withPending s l id (some old.gen)).me ∧
          (∀ m, m ≠ num → barOf u l m = barOf s l m) ∧ (∀ h, h ≠ s.cur → u.hart h = s.hart h) ∧
          (∀ a, u.byte a = s.byte a) ∧ exec (.barArrive id b l) s = .next u.retire ∧
          (s.me.barAt ≠ some s.me.pc → exec (.bar id b l) s = exec (.barWait id l) u))) ∧
    (∀ num, s.boundBar l.toNat id.toNat = some num → num < barsPerUnit l.toNat →
      s.me.pending l.toNat id.toNat = some (barOf s l num).gen →
      ∃ t, exec (.barArrive id b l) s = .next t ∧ Trapped s t 1 (reason 3) s.me.csr.vri) ∧
    (s.me.barAt = some s.me.pc → exec (.bar id b l) s = exec (.barWait id l) s) ∧
    (s.boundBar l.toNat id.toNat = none → s.freeBar l.toNat = none → ∃ t, exec (.barArrive id b l) s = .next t ∧
      Trapped s t 14 (1#8 ++ BitVec.ofNat 8 l.toNat ++ BitVec.ofNat 48 id.toNat) s.me.csr.vri) ∧
    (Passed s l id → ∃ t, exec (.barWait id l) s = .next t ∧ WritesNothing (passedBar s l id) t) ∧
    (¬ Passed s l id → ∃ t, exec (.barWait id l) s = .next t ∧ Waits s t (.bar l.toNat id.toNat)) ∧
    ∀ h, (s.hart h).wait = .bar l.toNat id.toNat → (s.hart h).csr.halt = false → Passed (s.actAs h) l id →
      ∃ t, exec (.barrierRelease h) s = .next t ∧ AtHart s t h fun u w => WritesNothing (passedBar u l id) w

/-- Core queues and barriers (R213 to R215, R247, R248, R251). -/
def Obligations.QueuesAndBarriers : Prop := Claims.CoreQueues ∧ Claims.BarrierArrivals

/-! Engines. -/

/-- Pushes: the descriptor read from the own scratchpad becomes a command with the engine's next SEQ, at once or when its FIFO
has room (R225 to R227). -/
def Sys2Proof.Claims.EnginePushes : Prop :=
  ∀ (i : Instr) (s : State) (a b : XReg) (kinds : List Nat) (key : Nat), pushOf i = some (a, b, kinds) → Quiet s →
    Z (s.x b) % 32 = 0 → s.rangeFailMe (s.x b).toNat 32 .load = none → s.resolveMe (s.x b).toNat .load = .ok key →
    s.ownSpad key = true → s.poisonedAt key 32 = none →
    let d := fun k => leValue s (key + 8 * k) 8
    let n := if d 0 % 256 = 2 then 1 else 0
    let cmd := cmdIn s.cur 0 0 (d 0) (d 1) (d 2) (d 3)
    (DescriptorOk kinds s.me.header.spad (d 0) (d 1) (d 2) (d 3) →
      ((s.myCore.eng n).fifo.length < 16 → ∃ t, exec i s = .next t ∧
        WritesX (withCommand s n cmd) t a ((s.myCore.eng n).seq.setWidth 64) 0) ∧
      (16 ≤ (s.myCore.eng n).fifo.length → ∃ t, exec i s = .next t ∧ Waits s t (.enginePush n cmd a))) ∧
    (d 0 % 256 ∉ kinds → ∃ t, exec i s = .next t ∧ Trapped s t 1 (3#8 ++ 1#8 ++ 0#16 ++ s.me.ir) s.me.csr.vri) ∧
    ∀ h c, (s.hart h).wait = .enginePush n c a → (s.hart h).csr.halt = false → (if c.kind = 2 then 1 else 0) = n →
      (((s.actAs h).myCore).eng n).fifo.length < 16 → ∃ t, exec (.engineFifoAdmit h) s = .next t ∧
        AtHart s t h fun u w => WritesX (withCommand u n c) w a ((u.myCore.eng n).seq.setWidth 64) 0

/-- Completion records taken by `eq.pop`, at once or when one has come (R231, R232). -/
def Sys2Proof.Claims.CompletionRecords : Prop :=
  ∀ (s : State) (a b : XReg) (n : BitVec 1),
    (∀ r rest, s.me.out n.toNat = r :: rest →
      (r.status = 0 ∨ r.trapf = false ∨ s.me.handler = true →
        (∃ t, exec (.eqPop a 0 n) s = .next t ∧ WritesX (withRecords s n.toNat rest) t a (recordWord r) 0) ∧
        ∀ key, b ≠ 0 → Quiet s → Z (s.x b) % 16 = 0 → s.rangeFailMe (s.x b).toNat 16 .store = none →
          s.resolveMe (s.x b).toNat .store = .ok key → s.ownSpad key = true →
          ∃ t, exec (.eqPop a b n) s = .next t ∧ RetiresStoring (withRecords s n.toNat rest) t a (recordWord r) fun x =>
            if key ≤ x ∧ x < key + 8 then BitVec.ofNat 8 (Z (recordWord r) / 256 ^ (x - key))
            else if key + 8 ≤ x ∧ x < key + 16 then BitVec.ofNat 8 (r.detail.toNat / 256 ^ (x - (key + 8)))
            else s.byte x) ∧
      (r.status ≠ 0 → r.trapf = true → s.me.handler = false →
        ∃ t, exec (.eqPop a 0 n) s = .next t ∧ Trapped s t 13 0 s.me.csr.vri)) ∧
    (s.me.out n.toNat = [] → ∃ t, exec (.eqPop a 0 n) s = .next t ∧ Waits s t (.eqPop n.toNat a 0)) ∧
    ∀ h, (s.hart h).wait = .eqPop n.toNat a 0 →
      (∀ r rest, (s.hart h).out n.toNat = r :: rest → (s.hart h).csr.halt = false → r.status = 0 →
        ∃ t, exec (.eqPopRecord h) s = .next t ∧
          AtHart s t h fun u w => WritesX (withRecords u n.toNat rest) w a (recordWord r) 0) ∧
      ((s.hart h).out n.toNat = [] → TimedOut (s.hart h) →
        ∃ t, exec (.eqPopTimeout h) s = .next t ∧ AtHart s t h NoProgress)

/-- Engine pushes and completion records (R225 to R227, R231, R232). -/
def Obligations.EnginePushesAndRecords : Prop := Claims.EnginePushes ∧ Claims.CompletionRecords

/-- A command starts once the earlier ones are done with; a gather's index list is read (R229, R230). -/
def Sys2Proof.Claims.EngineStarts : Prop :=
  ∀ (s : State) (core n : Nat) (c : Cmd) (rest : List Cmd), Quiet s → s.engFrozen core = false →
    let e := (s.core core).eng n
    e.fifo = c :: rest → (∀ x ∈ (s.core core).cmds, c.order ≤ x.order) →
    let k := if c.kind = 1 then c.len.toNat else 0
    let list := 2 ^ 56 + core * 2 ^ 20 + c.idxoff
    s.poisonedAt list (4 * k) = none →
    exec (.engineCommandStart core n c.seq.toNat) s = .next (s.setCore core ((s.core core).setEng n
      { e with
        fifo := rest.filter fun x => x.seq != c.seq,
        running := e.running ++ [
          { cmd := c, index := (List.range k).map fun i => leValue s (list + 4 * i) 4, chunks := 0, outBytes := 0,
            inBytes := 0, plan := none, result := none, recordWait := false }] }))

/-- A copy or gather that has written nothing yet, and room for its record. -/
def Sys2Proof.Claims.Fresh (s : State) (core n : Nat) (r : Running) : Prop :=
  ((((s.core core).eng n).running.find? fun x => x.cmd.seq == r.cmd.seq) = some r) ∧ r.recordWait = false ∧ r.result = none ∧
    r.plan = none ∧ (s.hart r.cmd.hart).flit = false ∧ r.cmd.syncen = false ∧
    (r.cmd.norec = true ∨ ((s.hart r.cmd.hart).out n).length < 16)

/-- A command is complete: no byte but those of `dst` has changed, it is no longer running, and its record is placed (R227, R231). -/
def Sys2Proof.Claims.Completed (s t : State) (core n : Nat) (c : Cmd) (st : BitVec 8) (detail : Nat) (dst : List Nat) : Prop :=
  (∀ a, a ∉ dst → t.byte a = s.byte a) ∧ (t.hart c.hart).x = (s.hart c.hart).x ∧
    ((t.core core).eng n).running = ((s.core core).eng n).running.filter (fun x => x.cmd.seq != c.seq) ∧
    (t.hart c.hart).out n = (s.hart c.hart).out n ++ (if c.norec then [] else
      [{ seq := c.seq, tag := c.tag, status := st, kind := c.kind, detail := BitVec.ofNat 48 detail, trapf := c.trapf }])

/-- A contiguous copy: each destination byte gets its source byte as it was; one that fails reports the lowest failing address, and
which of its bank words it has written is not fixed (R228, R231). -/
def Sys2Proof.Claims.CopyCompletes : Prop :=
  ∀ (s : State) (core n : Nat) (r : Running), Quiet s → s.engFrozen core = false → Fresh s core n r → r.cmd.kind = 0 →
    let c := r.cmd
    let len := c.len.toNat
    let src := segKeys (s.engSegs core c.src len .load)
    let dst := segKeys (s.engSegs core c.dst len .store)
    TablesApart s (s.ctxOfCore core) c.src.toNat len dst → TablesApart s (s.ctxOfCore core) c.dst.toNat len dst →
    (s.sourceFail core c.src len = none → s.engFail core c.dst len .store = none → dst.Nodup →
      ∃ t, exec (.commandComplete core n c.seq.toNat) s = .next t ∧ Completed s t core n c 0 0 dst ∧
        ∀ p ∈ src.zip dst, t.byte p.2 = s.byte p.1) ∧
    ∀ st a, (s.sourceFail core c.src len = some (st, a) ∧ ∀ x, s.engFail core c.dst len .store = some x → a ≤ x.2) ∨
        (s.engFail core c.dst len .store = some (st, a) ∧ ∀ x, s.sourceFail core c.src len = some x → a < x.2) →
      ∃ t, exec (.commandComplete core n c.seq.toNat) s = .next t ∧ Completed s t core n c st a dst

/-- A gather: row i of the destination gets the row its index names (R229). -/
def Sys2Proof.Claims.GatherCompletes : Prop :=
  ∀ (s : State) (core n : Nat) (r : Running), Quiet s → s.engFrozen core = false → Fresh s core n r → r.cmd.kind = 1 →
    let c := r.cmd
    let len := c.rszm1 + 1
    let from_ := fun (i : Nat) => c.src + ofZ (r.index.getD i 0 * len)
    let to_ := fun (i : Nat) => c.dst + ofZ (i * len)
    let src := fun (i : Nat) => segKeys (s.engSegs core (from_ i) len .load)
    let dst := (List.range r.index.length).flatMap fun i => segKeys (s.engSegs core (to_ i) len .store)
    (∀ i, i < r.index.length → s.sourceFail core (from_ i) len = none ∧ s.engFail core (to_ i) len .store = none ∧
      TablesApart s (s.ctxOfCore core) (from_ i).toNat len dst ∧ TablesApart s (s.ctxOfCore core) (to_ i).toNat len dst ∧
      ∀ k ∈ src i, k ∉ dst) →
    dst.Nodup →
    ∃ t, exec (.commandComplete core n c.seq.toNat) s = .next t ∧ Completed s t core n c 0 0 dst ∧
      ∀ i, i < r.index.length → ∀ p ∈ (src i).zip (segKeys (s.engSegs core (to_ i) len .store)), t.byte p.2 = s.byte p.1

/-- The block code of R235: a code up to 0x7F is followed by literals, one more than it says; one from 0x80 on by a byte that is
repeated. -/
inductive Sys2Proof.Claims.Codes : List Byte → List Byte → Prop
  | nil : Codes [] []
  | literals (c : Byte) (lits body out : List Byte) : c.toNat ≤ 0x7F → lits.length = c.toNat + 1 → Codes body out →
      Codes (c :: (lits ++ body)) (lits ++ out)
  | run (c b : Byte) (body out : List Byte) : 0x80 ≤ c.toNat → Codes body out →
      Codes (c :: b :: body) (List.replicate (c.toNat - 0x80 + 3) b ++ out)

/-- Bytes of a range as an engine reads them. -/
def Sys2Proof.Claims.readBy (s : State) (core : Nat) (va : Word64) (n : Nat) : List Byte :=
  (segKeys (s.engSegs core va n .load)).map s.byte

/-- The chunks of a decode (R234 to R236): the first failure in R235's order ends it with its STATUS and DETAIL and nothing written;
else the chunk's output is released. -/
def Sys2Proof.Claims.DecodeChunks : Prop :=
  crc32c [0x31, 0x32, 0x33, 0x34, 0x35, 0x36, 0x37, 0x38, 0x39] = 0xE3069283 ∧
  ∀ (s : State) (core seq : Nat) (r : Running), Quiet s → s.engFrozen core = false →
    (((s.core core).eng 1).running.find? fun x => x.cmd.seq == BitVec.ofNat 32 seq) = some r → r.result = none →
    r.plan = none → (s.hart r.cmd.hart).flit = false →
    let becomes := fun (t : State) (q : Running) => exec (.decodeChunkRelease core seq) s = .next t ∧
      (((t.core core).eng 1).running.find? fun x => x.cmd.seq == BitVec.ofNat 32 seq) = some q
    let ends := fun (st : BitVec 8) (d : Nat) =>
      ∃ t, becomes t { r with result := some (st, BitVec.ofNat 48 d) } ∧ ∀ a, t.byte a = s.byte a
    let len := r.cmd.len.toNat
    let left := len - r.inBytes
    let at_ := r.cmd.src + ofZ r.inBytes
    let header := bytesNat (readBy s core at_ 8)
    let olen := header % 2 ^ 16
    let clen := header / 2 ^ 16 % 2 ^ 16
    let body := readBy s core (at_ + 8) clen
    let legal := olen ≠ 0 ∧ olen ≤ 4096 ∧ clen ≠ 0
    let fits := 8 ≤ left ∧ s.sourceFail core at_ 8 = none ∧ legal ∧ 8 + clen ≤ left ∧ r.outBytes + olen ≤ r.cmd.dstmax
    let outAt := r.cmd.dst + ofZ r.outBytes
    (len ≤ r.inBytes → ends 0 r.chunks) ∧
    (0 < left → left < 8 → ends 8 r.chunks) ∧
    (8 ≤ left → ∀ st a, s.sourceFail core at_ 8 = some (st, a) → ends st a) ∧
    (8 ≤ left → s.sourceFail core at_ 8 = none → ¬ legal → ends 5 r.chunks) ∧
    (8 ≤ left → s.sourceFail core at_ 8 = none → legal → left < 8 + clen → ends 8 r.chunks) ∧
    (8 ≤ left → s.sourceFail core at_ 8 = none → legal → 8 + clen ≤ left → r.cmd.dstmax < r.outBytes + olen → ends 7 r.chunks) ∧
    (fits → ∀ st a, s.sourceFail core (at_ + 8) clen = some (st, a) → ends st a) ∧
    (fits → s.sourceFail core (at_ + 8) clen = none → (¬ ∃ out, Codes body out ∧ out.length = olen) → ends 5 r.chunks) ∧
    ∀ out, fits → s.sourceFail core (at_ + 8) clen = none → Codes body out → out.length = olen →
      (crc32c out ≠ header / 2 ^ 32 → ends 6 r.chunks) ∧
      (crc32c out = header / 2 ^ 32 →
        let dst := segKeys (s.engSegs core outAt olen .store)
        (∀ st a, s.engFail core outAt olen .store = some (st, a) → ends st a) ∧
        (s.engFail core outAt olen .store = none → dst.Nodup → TablesApart s (s.ctxOfCore core) outAt.toNat olen dst →
          ∃ t, becomes t { r with
              chunks := r.chunks + 1, outBytes := r.outBytes + olen, inBytes := r.inBytes + (8 + clen) } ∧
            (∀ p ∈ dst.zip out, t.byte p.1 = p.2) ∧ ∀ a, a ∉ dst → t.byte a = s.byte a))

/-- A record that waited is placed when there is room (R231). -/
def Sys2Proof.Claims.RecordsWait : Prop :=
  ∀ (s : State) (core n : Nat) (r : Running) (st : BitVec 8) (d : BitVec 48), s.engFrozen core = false →
    let e := (s.core core).eng n
    let c := r.cmd
    (e.running.find? fun x => x.cmd.seq == c.seq) = some r → r.recordWait = true → r.result = some (st, d) →
    c.norec = false → ((s.hart c.hart).out n).length < 16 →
    ∃ t, exec (.completionRecordPlace core n c.seq.toNat) s = .next t ∧
      (t.hart c.hart).out n = (s.hart c.hart).out n ++
        [{ seq := c.seq, tag := c.tag, status := st, kind := c.kind, detail := d, trapf := c.trapf }] ∧
      ((t.core core).eng n).running = e.running.filter (fun x => x.cmd.seq != c.seq) ∧ ∀ a, t.byte a = s.byte a

/-- The work of the engines: a start, the completion of a copy and of a gather, the chunks of a decode, a record that waited for room
(R227 to R231, R234 to R236). The interleaving of a command's bank words with what other agents do is log entry 25, the model's. -/
def Obligations.EngineWork : Prop :=
  Claims.EngineStarts ∧ Claims.CopyCompletes ∧ Claims.GatherCompletes ∧ Claims.DecodeChunks ∧ Claims.RecordsWait

/-! The matrix engine. -/

/-- Issue of a matrix command (R171, R172): a failing check traps and does nothing; a core whose queue is held back takes the
command into it; the oldest queued command, whatever it is, starts once nothing holds it, as it would have with the queue
free. One whose checks turn on a tile still under way waits at issue (log entry 24, the model's choice, as is the queue's form). -/
def Obligations.MatrixQueue : Prop :=
  ∀ (i : Instr) (s : State) (cmd : MatCmd), matOf i s = some cmd → s.hub.debugUnlocked = false →
    (Unsure s cmd → exec i s = .next s) ∧
    (∀ cause ev, ¬ Unsure s cmd → s.afterQueue.matFail cmd = some (cause, ev) →
      ∃ t, exec i s = .next t ∧ Trapped s t cause ev 0) ∧
    (¬ Unsure s cmd → s.afterQueue.matFail cmd = none → s.matrixBusy s.myCoreId = true → ∃ t, exec i s = .next t ∧
      t.me.wait = .matrix ∧ t.me.pc = s.me.pc ∧ t.me.x = s.me.x ∧ t.me.csr = s.me.csr ∧
      t.myCore = { s.myCore with mq := s.myCore.mq ++ [(s.cur, cmd)] } ∧ ∀ a, t.byte a = s.byte a) ∧
    (∀ core h c rest, (s.core core).mq = (h, c) :: rest → coreOfHart h = core →
      (s.press (pressOfCore core)).stallMatrix = false →
      (∀ k, coreOfHart k = core → ∀ x p m r c, (s.hart k).wait ≠ .tile x p m r c) →
      ∃ t, exec (.matrixCommandStart core) s = .next t ∧ (t.core core).mq = rest ∧ t.cur = s.cur ∧
        ((t.hart h).wait = .none ∨ ∃ p x m r clr, c = .drainp p x clr m r ∧ (t.hart h).wait = .tile x p m r clr) ∧
        (rest = [] → ∀ j, let u := (s.setCore core { s.core core with mq := [] }).actAs h
          matOf j u = some c → u.matFail c = none → exec j u = .next (t.actAs h))) ∧
    ∀ core h n rest, (s.core core).mq = (h, .zero n) :: rest → coreOfHart h = core →
      (s.press (pressOfCore core)).stallMatrix = false →
      (∀ k, coreOfHart k = core → ∀ x p m r c, (s.hart k).wait ≠ .tile x p m r c) →
      ∃ t, exec (.matrixCommandStart core) s = .next t ∧ (t.core core).mq = rest ∧ t.cur = s.cur ∧
        (t.hart h).csr.instret = (s.hart h).csr.instret + 1 ∧ (t.hart h).wait = .none ∧
        ∀ k ∈ (s.core core).blocks, blkOf (t.actAs h) n k = { Block.zero with shift := (s.core core).shift }

/-- Attaching, detaching, zeroing, resolving, signs and compares, which poison in their own row only stops (R173 to R175, R185 to R187,
R328; log entry 28: the bank words of a row). -/
def Obligations.MatrixStates : Prop :=
  ∀ (s : State), QueueFree s →
    (∀ a b c, Z (s.x b) ∈ [16, 32, 48, 64] → s.myCore.blocks = [] → ∃ t, exec (.mattach a b c) s = .next t ∧
      let l := attachable s (Z (s.x b))
      t.x a = (if a = 0 then 0 else ofZ (16 * l.length)) ∧ (∀ r, r ≠ a → t.x r = s.x r) ∧ t.myCore.blocks = l ∧
        t.myCore.b0 = BBuf.zero ∧ t.myCore.b1 = BBuf.zero ∧ t.myCore.win0 = 0 ∧ t.myCore.win1 = 0 ∧
        (∀ k ∈ l, ∀ plane, plane < 2 → blkOf t plane k = { Block.zero with shift := s.myCore.shift }) ∧
        t.me.csr.instret = s.me.csr.instret + 1 ∧ ∀ x, t.byte x = s.byte x) ∧
    (∃ t, exec .mdetach s = .next t ∧ MatRetires s t ∧ t.myCore.blocks = [] ∧ t.myCore.win0 = 0 ∧ t.myCore.win1 = 0 ∧
      ∀ x, t.byte x = s.byte x) ∧
    (∀ n : BitVec 1, s.myCore.blocks ≠ [] → (∀ k ∈ s.myCore.blocks, k < 4) → ∃ t, exec (.mzero n) s = .next t ∧
      MatRetires s t ∧ (∀ k ∈ s.myCore.blocks, blkOf t n.toNat k = { Block.zero with shift := s.myCore.shift }) ∧
      (∀ k, k < 4 → k ∉ s.myCore.blocks → blkOf t n.toNat k = blkOf s n.toNat k) ∧
      (∀ k, k < 4 → blkOf t (1 - n.toNat) k = blkOf s (1 - n.toNat) k) ∧ ∀ x, t.byte x = s.byte x) ∧
    (∀ (n : BitVec 1) ty rm (rowb : BitVec 2) k, (Instr.mresolve n ty rm 0 rowb).wf = true →
      s.myCore.blocks[rowb.toNat]? = some k → (blkOf s n.toNat k).res = none → CleanBlock (blkOf s n.toNat k) →
      let old := blkOf s n.toNat k
      let r := fun i => resolveCell (modeOf rm s.me.csr.rm) s.me.csr.ftz ty old.shift.toInt (cellAt old i)
      ∃ t, exec (.mresolve n ty rm 0 rowb) s = .next t ∧ MatRetires s t ∧ (blkOf t n.toNat k).res = some ty ∧
        (blkOf t n.toNat k).shift = old.shift ∧ (∀ i, i < 1536 → valAt (blkOf t n.toNat k) i = (r i).1 % 2 ^ 32) ∧
        t.me.csr.fflags = (List.range 1536).foldl (fun f i => f ||| (r i).2) s.me.csr.fflags ∧ ∀ x, t.byte x = s.byte x) ∧
    (∀ pd b (n : BitVec 1), pd ≠ 15 → (s.x b).toNat < 16 * s.myCore.blocks.length →
      let old := blkOf s n.toNat (s.myCore.blocks.getD (Z (s.x b) / 16) 0)
      let cell := fun m => cellAt old (Z (s.x b) % 16 * 96 + m)
      (¬ CleanRow old (Z (s.x b) % 16) → ∃ t, exec (.msign pd b n) s = .next t ∧ Trapped s t 10 0 0) ∧
      (old.res = none → CleanRow old (Z (s.x b) % 16) → ∃ t, exec (.msign pd b n) s = .next t ∧ MatRetires s t ∧
        (∀ m, m < 256 → (t.me.getP pd).getLsbD m = (if pd = 0 then true else decide (m < 96) && match cell m with
          | .fin v => decide (v.toInt < -(2 ^ 49))
          | .ninf => true
          | _ => false)) ∧
        (∀ m, m < 256 → (t.me.getP (pd + 1)).getLsbD m = (decide (m < 96) && match cell m with
          | .fin v => decide (-(2 ^ 49) ≤ v.toInt) && decide (v.toInt < 2 ^ 49)
          | .nan => true
          | _ => false)) ∧
        (∀ r, r ≠ pd → r ≠ pd + 1 → t.me.getP r = s.me.getP r) ∧ ∀ x, t.byte x = s.byte x)) ∧
    ∀ pd b c ty x (n : BitVec 1), (Instr.mcmp pd b c ty x n).wf = true → ty.isInt = false →
      (s.x b).toNat < 16 * s.myCore.blocks.length →
      let old := blkOf s n.toNat (s.myCore.blocks.getD (Z (s.x b) / 16) 0)
      (¬ CleanRow old (Z (s.x b) % 16) → ∃ t, exec (.mcmp pd b c ty x n) s = .next t ∧ Trapped s t 10 0 0) ∧
      (old.res = none → CleanRow old (Z (s.x b) % 16) → ∃ t, exec (.mcmp pd b c ty x n) s = .next t ∧ MatRetires s t ∧
        (∀ m, m < 256 → (t.me.getP pd).getLsbD m = (if pd = 0 then true else decide (m < 96) &&
          (fpCmp x (cellNum old.shift.toInt (cellAt old (Z (s.x b) % 16 * 96 + m)))
            (numIn s.me.csr.ftz ty (Z (s.x c) % 2 ^ ty.width))).1)) ∧
        (∀ r, r ≠ pd → t.me.getP r = s.me.getP r) ∧ ∀ a, t.byte a = s.byte a)

/-- `mldb`, packed or not, with scales or not, from the own scratchpad (R176 to R178). -/
def Sys2Proof.Claims.BLoads : Prop :=
  ∀ (s : State) (b c : XReg) (k pk z : BitVec 1) (key u0 units total scales : Nat) (stream : Nat → Byte), QueueFree s → Quiet s →
    Z (s.x c) = (units - 1) * 2 ^ 8 + u0 → 1 ≤ units → u0 + units ≤ 128 → (z = 1 → u0 % 4 = 0 ∧ units % 4 = 0) →
    (pk = 0 ∧ total = 768 * units + (if z = 1 then 48 * units else 0) ∧ (stream = fun q => s.byte (key + q)) ∧
        scales = key + 768 * units) ∨
      (pk = 1 ∧ ∃ ty, PackedAt s key units (z == 1) ty total stream scales) →
    Z (s.x b) % 8 = 0 → OwnRange s (s.x b) total .load key →
    s.poisonedSegs (s.segmentsMe (Z (s.x b)) total .load) 0 = none →
    ∃ t, exec (.mldb k pk z b c) s = .next t ∧ MatRetires s t ∧
      (∀ m j, m < 96 → j < 1024 → fget 0 (t.myCore.buf k.toNat).bytes (m * 1024 + j) =
        if 8 * u0 ≤ j ∧ j < 8 * (u0 + units) then stream ((j / 8 - u0) * 768 + m * 8 + j % 8)
        else fget 0 (s.myCore.buf k.toNat).bytes (m * 1024 + j)) ∧
      (∀ m j, m < 96 → j < 32 → fget 0 (t.myCore.buf k.toNat).scales (m * 32 + j) =
        if z = 1 ∧ u0 / 4 ≤ j ∧ j < (u0 + units) / 4 then
          BitVec.ofNat 16 (leValue s (scales + 2 * ((j - u0 / 4) * 96 + m)) 2)
        else fget 0 (s.myCore.buf k.toNat).scales (m * 32 + j)) ∧
      t.myCore.buf (1 - k.toNat) = s.myCore.buf (1 - k.toNat) ∧ ∀ a, t.byte a = s.byte a

/-- `mmacc` and `msmacc` on any types and any range of rows: a cell whose factors are all finite, and which no order of the sums can
bring to the limits of its window, gets the `Fix` of every exact product added (R39, R41, R44, R180 to R183); states, SHIFT latches and
the blocks outside the range stay. -/
def Sys2Proof.Claims.Accumulates : Prop :=
  ∀ (s : State) (n k : BitVec 1) (b : XReg) (key : Nat) (ta tb : ElemTy) (boff : BitVec 7) (nblk rowb : BitVec 2) (steps : BitVec 7)
    (i : Instr) (scaled : Bool), QueueFree s → Quiet s →
    i = (if scaled then Instr.msmacc n k b ta tb boff nblk rowb steps else .mmacc n k b ta tb boff nblk rowb steps) →
    i.wf = true → HoldsRange s rowb.toNat nblk.toNat →
    (∀ o ∈ rangeOf s n.toNat rowb.toNat nblk.toNat, o.res = none ∧ CleanBlock o) → Z (s.x b) % 8 = 0 →
    let nr := 16 * (nblk.toNat + 1)
    let depth := (steps.toNat + 1) * kPerStep ta
    let range := (s.myCore.blocks.drop rowb.toNat).take (nblk.toNat + 1)
    OwnRange s (s.x b) ((steps.toNat + 1) * nr * 8) .load key →
    s.poisonedSegs (s.segmentsMe (Z (s.x b)) ((steps.toNat + 1) * nr * 8) .load) 0 = none →
    CleanB (s.myCore.buf k.toNat) scaled ta tb boff.toNat (steps.toNat + 1) →
    (scaled = true → ∀ e, (s.me.getV 31).badRow e 0 = false) →
    ∃ t, exec i s = .next t ∧ MatRetires s t ∧ t.me.p = s.me.p ∧ (∀ a, t.byte a = s.byte a) ∧
      (∀ p j, p < 2 → j < 4 → (blkOf t p j).res = (blkOf s p j).res ∧ (blkOf t p j).shift = (blkOf s p j).shift ∧
        (p ≠ n.toNat ∨ j ∉ range → blkOf t p j = blkOf s p j)) ∧
      ∀ j blk c v, range[j]? = some blk → c < 1536 →
        let old := blkOf s n.toNat blk
        let l := fun q => factors s scaled (s.myCore.buf k.toNat) key nr boff.toNat depth ta tb (16 * j + c / 96) (c % 96) q
        let adds := (List.range depth).map fun q => added old.shift.toInt (l q)
        cellAt old c = .fin v → (∀ q, q < depth → ∀ x ∈ l q, isFinite x = true) →
        |v.toInt| + (adds.map fun x => |x|).sum < 2 ^ 79 →
        cellAt (blkOf t n.toNat blk) c = .fin (BitVec.ofInt 80 (v.toInt + adds.sum))

/-- `mdrain` in any layout, packed or not, with a scale or not, into the own scratchpad (R188 to R191): header, elements, flags, CLR. -/
def Sys2Proof.Claims.TypedDrains : Prop :=
  ∀ (s : State) (n : BitVec 1) (b c : XReg) (key : Nat) (ty : ElemTy) (rm : Rm) (clr sat pack : Bool) (layout nblk rowb : BitVec 2),
    QueueFree s → Quiet s → (Instr.mdrain n b c ty rm clr sat pack layout nblk rowb).wf = true →
    HoldsRange s rowb.toNat nblk.toNat →
    let l := rangeOf s n.toNat rowb.toNat nblk.toNat
    let w := ty.width / 8
    let nr := 16 * (nblk.toNat + 1)
    let value := drained s l rm sat ty (if c = 0 then none else some ((s.x c).setWidth 32))
    let at_ := fun (p : Nat × Nat) => layoutAt layout.toNat w nr p.1 p.2
    let kept := (places nr).filter fun p => decide ((value p.1 p.2).1 ≠ 0)
    let bitmap := (nr * 96 + 63) / 64 * 8
    let flat := 16 + nr * 96 * w
    let size := if pack then 16 + bitmap + (kept.length * w + 7) / 8 * 8 else flat
    (∀ o ∈ l, o.res.isSome = true ∧ CleanBlock o) → (∀ p ∈ places nr, (value p.1 p.2).1 < 256 ^ w) →
    Z (s.x b) % 16 = 0 → OwnRange s (s.x b) (max flat size) .store key →
    ∃ t, exec (.mdrain n b c ty rm clr sat pack layout nblk rowb) s = .next t ∧ MatRetires s t ∧
      leValue t key 8 = 0x5A01 * 2 ^ 48 + ty.toCode.toNat * 2 ^ 44 + layout.toNat * 2 ^ 42 + bitN pack 41 + nr * 2 ^ 32 +
        (if pack then kept.length else 0) ∧
      leValue t (key + 8) 8 = 0 ∧
      (pack = false → ∀ p ∈ places nr, leValue t (key + 16 + at_ p * w) w = (value p.1 p.2).1) ∧
      (pack = true → ∀ p ∈ places nr,
        (t.byte (key + 16 + at_ p / 8)).getLsbD (at_ p % 8) = decide ((value p.1 p.2).1 ≠ 0) ∧
        ((value p.1 p.2).1 ≠ 0 →
          leValue t (key + 16 + bitmap + (kept.filter fun q => decide (at_ q < at_ p)).length * w) w = (value p.1 p.2).1)) ∧
      (∀ j, j < 6 → (t.me.csr.fflags.getLsbD j = true ↔
        s.me.csr.fflags.getLsbD j = true ∨ ∃ p ∈ places nr, (value p.1 p.2).2.getLsbD j = true)) ∧
      (∀ a, a < key ∨ key + size ≤ a → t.byte a = s.byte a) ∧ ClearedBy s t clr n.toNat rowb.toNat nblk.toNat

/-- `mdrain.raw` into the own scratchpad (R188 to R191). -/
def Sys2Proof.Claims.RawDrains : Prop :=
  ∀ (s : State) (n : BitVec 1) (b : XReg) (key : Nat) (clr : Bool) (nblk rowb : BitVec 2) (shift : BitVec 8), QueueFree s → Quiet s →
    HoldsRange s rowb.toNat nblk.toNat →
    (∀ o ∈ rangeOf s n.toNat rowb.toNat nblk.toNat, o.res = none ∧ o.shift = shift ∧ CleanBlock o) →
    let size := 16 + (nblk.toNat + 1) * 30720
    Z (s.x b) % 16 = 0 → OwnRange s (s.x b) size .store key →
    ∃ t, exec (.mdrainRaw n b clr nblk rowb) s = .next t ∧ MatRetires s t ∧
      leValue t key 8 = 0x5A02 * 2 ^ 48 + 16 * (nblk.toNat + 1) * 2 ^ 32 ∧
      leValue t (key + 8) 8 = shift.toNat + stickyOf s.myCore n.toNat * 2 ^ 8 ∧
      (∀ j o, (rangeOf s n.toNat rowb.toNat nblk.toNat)[j]? = some o → HoldsCells t (key + 16 + j * 30720) o) ∧
      (∀ a, a < key ∨ key + size ≤ a → t.byte a = s.byte a) ∧ ClearedBy s t clr n.toNat rowb.toNat nblk.toNat

/-- `msave` of every block the core holds, resolved or not, into the own scratchpad (R195). That the fields of blocks not held are zero
is log entry 43, the model's reading. -/
def Sys2Proof.Claims.Saves : Prop :=
  ∀ (s : State) (n : BitVec 1) (b : XReg) (key : Nat), QueueFree s → Quiet s → s.myCore.blocks ≠ [] → s.myCore.blocks.length ≤ 4 →
    let l := s.myCore.blocks.map (blkOf s n.toNat)
    let states := l.map Block.res
    let size := 32 + (states.map imageBytesOf).sum
    (∀ o ∈ l, CleanBlock o) → Z (s.x b) % 16 = 0 → OwnRange s (s.x b) size .store key →
    ∃ t, exec (.msave n b) s = .next t ∧ MatRetires s t ∧
      leValue t key 8 = 0x5A03 * 2 ^ 48 + 16 * l.length * 2 ^ 32 ∧
      leValue t (key + 8) 8 = (states.zipIdx.map fun e => stateCode e.1 * 16 ^ e.2).sum ∧
      leValue t (key + 16) 8 = (l.zipIdx.map fun e => e.1.shift.toNat * 256 ^ e.2).sum ∧
      leValue t (key + 24) 8 = stickyOf s.myCore n.toNat ∧
      (∀ j o, l[j]? = some o → HoldsCells t (cellsAt key states j) o) ∧
      (∀ a, a < key ∨ key + size ≤ a → t.byte a = s.byte a) ∧ ∀ p j, blkOf t p j = blkOf s p j

/-- `mrest` of an image of the rows the core holds (R196). -/
def Sys2Proof.Claims.Restores : Prop :=
  ∀ (s : State) (n : BitVec 1) (b : XReg) (key : Nat) (states : List (Option ElemTy)), QueueFree s → Quiet s →
    s.myCore.blocks ≠ [] → s.myCore.blocks.length ≤ 4 → s.myCore.blocks.Nodup → (∀ k ∈ s.myCore.blocks, k < 4) →
    states.length = s.myCore.blocks.length → (∀ r ∈ states, ∀ t, r = some t → (Instr.mresolve 0 t .rne 0 0).wf = true) →
    let size := 32 + (states.map imageBytesOf).sum
    Z (s.x b) % 16 = 0 → OwnRange s (s.x b) size .load key →
    s.poisonedSegs (s.segmentsMe (Z (s.x b)) size .load) 0 = none →
    leValue s key 8 / 2 ^ 48 = 0x5A03 → leValue s key 8 / 2 ^ 32 % 256 = 16 * states.length →
    (∀ j r, states[j]? = some r → leValue s (key + 8) 8 / 16 ^ j % 16 = stateCode r) →
    ∃ t, exec (.mrest n b) s = .next t ∧ MatRetires s t ∧
      (∀ j k r, s.myCore.blocks[j]? = some k → states[j]? = some r → ReadCells s (cellsAt key states j) r (blkOf t n.toNat k) ∧
        (blkOf t n.toNat k).shift = BitVec.ofNat 8 (leValue s (key + 16) 8 / 256 ^ j)) ∧
      stickyOf t.myCore n.toNat = stickyOf s.myCore n.toNat ||| leValue s (key + 24) 8 % 4 ∧ t.myCore.window n.toNat = 0 ∧
      (∀ p k, p < 2 → k < 4 → p ≠ n.toNat ∨ k ∉ s.myCore.blocks → blkOf t p k = blkOf s p k) ∧ ∀ a, t.byte a = s.byte a

/-- `mdrainp` sends its tile and waits for what becomes of it (R194). -/
def Sys2Proof.Claims.TileSends : Prop :=
  ∀ (s : State) (n : BitVec 1) (b : XReg) (clr : Bool) (nblk rowb : BitVec 2) (shift : BitVec 8), QueueFree s → Quiet s →
    HoldsRange s rowb.toNat nblk.toNat →
    (∀ o ∈ rangeOf s n.toNat rowb.toNat nblk.toNat, o.res = none ∧ o.shift = shift ∧ CleanBlock o) →
    Z (s.x b) < 2 ^ 11 → Z (s.x b) % 64 < 32 →
    (s.press (dieOfCore s.myCoreId * 32 + Z (s.x b) % 64)).enabled = true →
    s.myCtx.cfg.presses.contains (dieOfCore s.myCoreId * 32 + Z (s.x b) % 64) = true →
    ∃ t, exec (.mdrainp n b clr nblk rowb) s = .next t ∧ Waits s t (.tile (s.x b) n.toNat nblk.toNat rowb.toNat clr)

/-- A tile arrives: an error on the fabric goes to a supervisor core; a receiver that cannot take it refuses it with reason 5; else
every cell is added to the receiving one (R42, R193, R194). -/
def Sys2Proof.Claims.TileArrivals : Prop :=
  ∀ (s : State) (h : Nat) (x : Word64) (plane nblk rowb : Nat) (clr : Bool), (s.hart h).wait = .tile x plane nblk rowb clr →
    (s.hart h).csr.halt = false →
    let u := s.actAs h
    let press := h / 1024 * 32 + x.toNat % 64
    let peer := coreOfPress press + (x.extractLsb 7 6).toNat
    let tp := (x.extractLsb 8 8).toNat
    let slot := (x.extractLsb 10 9).toNat
    let at_ := fun (v : State) (j : Nat) =>
      fget Block.zero (v.press press).blocks (tp * 4 + (s.core peer).blocks.getD (slot + j) 0)
    let src := fun (j : Nat) => blkOf u plane (u.myCore.blocks.getD (rowb + j) 0)
    HoldsRange u rowb nblk → x.toNat % 64 < 32 →
    let accepted := (s.press press).resident = some u.myCtxId ∧ ∀ j, j ≤ nblk →
      ((s.core peer).window tp).getLsbD (slot + j) = true ∧ slot + j < (s.core peer).blocks.length ∧ (at_ s j).res = none ∧
        (at_ s j).shift = (src 0).shift
    ((s.hart h).flit = true → ∃ t, exec (.tileArrival h) s = .next t ∧ AtHart s t h fun u w => Trapped u w 10 0 0) ∧
    ((s.hart h).flit = false → accepted → (s.core peer).blocks.Nodup → (∀ j, j ≤ nblk → (src j).res = none) →
      (∀ j, j ≤ nblk → (src j).shift = (src 0).shift) → ∃ t, exec (.tileArrival h) s = .next t ∧
      (t.hart h).csr.instret = (s.hart h).csr.instret + 1 ∧ (t.hart h).x = (s.hart h).x ∧ t.cur = s.cur ∧
      (clr = false ∨ press ≠ pressOfHart h → ∀ j i v w, j ≤ nblk → i < 1536 → cellAt (at_ s j) i = .fin v →
        cellAt (src j) i = .fin w → -(2 ^ 79) ≤ v.toInt + w.toInt → v.toInt + w.toInt < 2 ^ 79 →
        cellAt (at_ t j) i = .fin (v + w)) ∧
      (clr = true → ∀ j, j ≤ nblk →
        blkOf (t.actAs h) plane (u.myCore.blocks.getD (rowb + j) 0) = { Block.zero with shift := u.myCore.shift })) ∧
    ((s.hart h).flit = false → ¬ accepted → ∃ t, exec (.tileArrival h) s = .next t ∧
      AtHart s t h fun u w => Trapped u w 1 (2#8 ++ 5#8 ++ 0#16 ++ u.me.ir) 0)

/-- Loading B, accumulating, draining, saving, restoring, and tiles sent to a peer (R176 to R184, R188 to R196), with the model's choices
of log entries 43, 64 and 65. -/
def Obligations.MatrixData : Prop :=
  Claims.BLoads ∧ Claims.Accumulates ∧ Claims.TypedDrains ∧ Claims.RawDrains ∧ Claims.Saves ∧ Claims.Restores ∧
    Claims.TileSends ∧ Claims.TileArrivals

/-! Worklists. -/

/-- `wpush` (R272, R283, R284): on chip, into the ring, or refused. -/
def Sys2Proof.Claims.WorklistPush : Prop :=
  ∀ (s : State) (a b c : XReg),
    let d0 := s.x b
    let d1 := s.x c
    let old := myBin s (binIn d0)
    let size := 2 ^ s.myCtx.spilllog
    let reason := fun (r : BitVec 8) => (5#8 ++ r ++ 0#16 ++ s.me.ir : Word64)
    let onChip := old.ring = [] ∧ old.chip.length < 1024 ∧ s.storeFree s.myCtxId (myDie s) ≠ 0
    let room := s.myCtx.spill ≠ 0 ∧ old.ring.length < size
    (2 ^ 12 ≤ Z d1 → ∃ t, exec (.wpush a b c) s = .next t ∧ Trapped s t 1 (reason 1) s.me.csr.vri) ∧
    (Z d1 < 2 ^ 12 → ¬ RecordOk d0 d1 → ∃ t, exec (.wpush a b c) s = .next t ∧ Trapped s t 1 (reason 2) s.me.csr.vri) ∧
    (RecordOk d0 d1 → onChip →
      ∃ t, exec (.wpush a b c) s = .next t ∧ RetiresX s t a 0 ∧
        myBin t (binIn d0) = { old with chip := old.chip ++ [record d0 d1 s.seqNo] } ∧
        (∀ n, n < 256 → n ≠ binIn d0 → myBin t n = myBin s n) ∧ t.myCtx.pushed = true) ∧
    (RecordOk d0 d1 → ¬ onChip → room →
      ∃ t slot, exec (.wpush a b c) s = .next t ∧ t.x a = (if a = 0 then 0 else 1) ∧ (∀ r, r ≠ a → t.x r = s.x r) ∧
        t.me.pc = s.me.retire.pc ∧ t.me.csr.instret = s.me.csr.instret + 1 ∧ slot < size ∧
        slot ∉ old.ring.map Prod.fst ∧
        myBin t (binIn d0) =
          { old with ring := old.ring ++ [(slot, record d0 d1 s.seqNo)], tail := (slot + 1) % size } ∧
        (∀ n, n < 256 → n ≠ binIn d0 → myBin t n = myBin s n) ∧ t.myCtx.pushed = true) ∧
    (RecordOk d0 d1 → ¬ onChip → ¬ room →
      ∃ t, exec (.wpush a b c) s = .next t ∧ RetiresX s t a 2 ∧ ∀ n, n < 256 → myBin t n = myBin s n)

/-- What `wpop` and its waits select (R273 to R275, R315, R316): nothing on a drained core; else of the lowest eligible bin that
holds an allowed record the on-chip one with the least ORDER, and of those the one that came first. -/
def Sys2Proof.Claims.Selection : Prop :=
  ∀ (s : State) (h : Nat),
    let ctx := (s.actAs h).myCtxId
    let die := h / 1024
    (Drained s (h / 8) → s.pick h = none) ∧
    (∀ r, s.pick h = some r → Chosen s ctx die (Allowed s h) r) ∧
    (¬ Drained s (h / 8) → s.pick h = none → ∀ r, ¬ Chosen s ctx die (Allowed s h) r) ∧
    (s.actAs h).heldOrEmpty =
      if (s.wearOf (s.physCore (h / 8))).life = .drained ∨ (s.wearOf (s.physCore (h / 8))).life = .retired ∨
          (s.press (pressOfHart h)).repair = true then 2
      else if (s.ctx ctx).bins.any (fun e => e.1 / 256 == die && (e.2.chip != [] || e.2.ring != [])) then 1 else 2

/-- The frame entry reads (R271, R280): ENTRY, or RESUME and the registers XMASK names; SP; nothing where a word of the header
cannot be read. -/
def Sys2Proof.Claims.FrameAtEntry : Prop :=
  ∀ (s : State) (core ctx : Nat) (fr : Word64), s.hub.debugUnlocked = false → s.flaws = [] →
    (∀ entry resume m sp vals, FrameWord s core ctx fr entry → FrameWord s core ctx (fr + 8) resume →
      FrameWord s core ctx (fr + 16) m → FrameWord s core ctx (fr + 32) sp →
      let again := Z resume % 2 ^ 48 ≠ 0
      let names := if again then savedNames m else []
      vals.length = names.length → (∀ e ∈ names.zip vals, FrameWord s core ctx (fr + 64 + ofZ (8 * e.1)) e.2) →
      s.frameOf core ctx fr = (s, some
        { pc := ofS (BitVec.ofNat 48 (Z (if again then resume else entry))).toInt, sp := sp,
          xmask := BitVec.ofNat 32 (Z m) &&& ~~~9#32, regs := names.zip vals })) ∧
    ((∃ va ∈ [fr, fr + 8, fr + 16, fr + 32], ¬ ∃ v, FrameWord s core ctx va v) →
      s.frameOf core ctx fr = (s, none))

/-- `wpop` and its waits (R280, R283, R285): the task entered, what is answered where nothing is selected. -/
def Sys2Proof.Claims.WorklistPop : Prop :=
  ∀ (s : State) (a b : XReg),
    let reads := fun (u : State) (r : Rec) (f : Frame) => ∃ w,
      (u.takeRec u.myCtxId (myDie u) r).frameOf u.myCoreId u.myCtxId r.frame = (w, some f)
    (s.me.task.isSome = true →
      ∃ t, exec (.wpop a b) s = .next t ∧ Trapped s t 1 (5#8 ++ 5#8 ++ 0#16 ++ s.me.ir) s.me.csr.vri) ∧
    (s.me.task = none → s.pick s.cur = none → s.x b = 0 → ∃ t, exec (.wpop a b) s = .next t ∧ RetiresX s t a s.heldOrEmpty) ∧
    (s.me.task = none → s.pick s.cur = none → s.x b ≠ 0 → ∃ t, exec (.wpop a b) s = .next t ∧ Waits s t (.wpop a (s.x b))) ∧
    (∀ r f, s.me.task = none → s.pick s.cur = some r → reads s r f →
      ∃ t, exec (.wpop a b) s = .next t ∧ Entered s t r f ∧ ∀ x, t.byte x = s.byte x) ∧
    ∀ h limit, (s.hart h).wait = .wpop a limit → (s.hart h).csr.halt = false →
      (∀ r f, s.pick h = some r → reads (s.actAs h) r f →
        ∃ t, exec (.wpopWaitSelect h) s = .next t ∧ AtHart s t h fun u w => Entered u w r f) ∧
      (s.pick h = none → limit.toNat ≤ (s.hart h).waited →
        ∃ t, exec (.wpopWaitExpiry h) s = .next t ∧ AtHart s t h fun u w => RetiresX u w a u.heldOrEmpty)

/-- `wprio` (R283, R286): what it answers, the record moved, and what travels with a batch in flight. -/
def Sys2Proof.Claims.WorklistPriority : Prop :=
  ∀ (s : State) (a b c : XReg),
    let d0 := s.x b
    let hit := fun (r : Rec) => Z r.d0 % 2 ^ 48 == Z d0 % 2 ^ 48
    let queued := s.myCtx.bins.flatMap fun e => (e.2.chip ++ e.2.ring.map Prod.snd).filter hit
    (2 ^ 16 ≤ Z (s.x c) →
      ∃ t, exec (.wprio a b c) s = .next t ∧ Trapped s t 1 (5#8 ++ 3#8 ++ 0#16 ++ s.me.ir) s.me.csr.vri) ∧
    (Z (s.x c) < 2 ^ 16 →
      (queued = [] → (∀ w ∈ s.myCtx.flight, ∀ r ∈ w.recs, hit r = false) →
        ∃ t, exec (.wprio a b c) s = .next t ∧
          RetiresX s t a (if (s.tasks s.myCtxId).any fun k => hit k.2.record then 1 else 2)) ∧
      (queued = [] → (∃ w ∈ s.myCtx.flight, ∃ r ∈ w.recs, hit r = true) →
        ∃ t, exec (.wprio a b c) s = .next t ∧ RetiresX s t a 0 ∧
          t.myCtx.flight = s.myCtx.flight.map fun w =>
            if w.recs.any hit then { w with moves := w.moves ++ [(BitVec.ofNat 48 (Z d0), BitVec.ofNat 16 (Z (s.x c)))] }
            else w) ∧
      (∀ die n w r, queued = [r] → (die * 256 + n, w) ∈ s.myCtx.bins → s.bin s.myCtxId die n = w → r ∈ w.chip → n < 256 →
        binIn r.d0 = n →
        let new := withPriority r ((s.x c).setWidth 16)
        let target := s.bin s.myCtxId die (binIn new.d0)
        (binIn new.d0 ≠ n → target.ring = [] → target.chip.length < 1024 → s.storeFree s.myCtxId die ≠ 0 →
          ∃ t, exec (.wprio a b c) s = .next t ∧ RetiresX s t a 0 ∧
            (t.bin s.myCtxId die (binIn new.d0)).chip =
              target.chip ++ [{ new with arrival := s.seqNo, headerRead := false }] ∧
            (t.bin s.myCtxId die n).chip = w.chip.filter fun q => q.arrival != r.arrival) ∧
        (binIn new.d0 ≠ n → target.ring ≠ [] ∨ 1024 ≤ target.chip.length → s.myCtx.spill = 0 →
          ∃ t, exec (.wprio a b c) s = .next t ∧ RetiresX s t a 3 ∧ (t.bin s.myCtxId die n).chip = w.chip ∧
            (t.bin s.myCtxId die (binIn new.d0)).chip = target.chip)))

/-- `wterm` and its waits (R290). -/
def Sys2Proof.Claims.WorklistTermination : Prop :=
  ∀ (s : State) (a b : XReg),
    (s.myCtx.terminated = true → s.me.task = none → ∃ t, exec (.wterm a b) s = .next t ∧ WritesX s t a 1 0) ∧
    (s.myCtx.terminated = false ∨ s.me.task.isSome = true →
      (s.x b = 0 → ∃ t, exec (.wterm a b) s = .next t ∧ WritesX s t a 0 0) ∧
      (s.x b ≠ 0 → ∃ t, exec (.wterm a b) s = .next t ∧ Waits s t (.wterm a (s.x b)))) ∧
    ∀ h limit, (s.hart h).wait = .wterm a limit → (s.hart h).csr.halt = false →
      ((s.actAs h).myCtx.terminated = true → (s.hart h).task = none → ∃ t, exec (.wtermConfirm h) s = .next t ∧
        AtHart s t h fun u w => WritesX u w a 1 0) ∧
      (limit.toNat ≤ (s.hart h).waited → ∃ t, exec (.wtermWaitExpiry h) s = .next t ∧
        AtHart s t h fun u w => WritesX u w a 0 0)

/-- `wpush`, `wpop`, `wprio`, `wterm` and their waits, and what is selected (R271 to R275, R280, R283 to R286, R290). That `wpush`
refuses a frame with bit 47 set as out of range (R283 against R301) is the model's reading, log entry 48. -/
def Obligations.WorklistInstructions : Prop :=
  Claims.WorklistPush ∧ Claims.Selection ∧ Claims.FrameAtEntry ∧ Claims.WorklistPop ∧ Claims.WorklistPriority ∧
    Claims.WorklistTermination

/-- `yield`, `commit`, `tend`: the frame's words, leaving the task, re-queueing it; a hart whose engine commands are still under
way has done all of that and waits to leave (R281, R287 to R289, R409). Outside a task R288 says that a hart takes the baseline state
and stops issuing; that it first waits for its engine commands there too, and that its completion records stay where they are, is the
model's choice, log entry 81. -/
def Obligations.TaskEnds : Prop :=
  ∀ (s u : State) (b : XReg),
    let reason := fun (r : BitVec 8) => (5#8 ++ r ++ 0#16 ++ s.me.ir : Word64)
    let y := s.x b
    let counted := fun (t : State) => t.me.csr.instret = s.me.csr.instret + 1
    (2 ^ 18 ≤ Z y → ∃ t, exec (.yield b) s = .next t ∧ Trapped s t 1 (reason 3) s.me.csr.vri) ∧
    (s.me.task = none → (Z y < 2 ^ 18 → ∃ t, exec (.yield b) s = .next t ∧ Trapped s t 1 (reason 4) s.me.csr.vri) ∧
      (∃ t, exec .commit s = .next t ∧ Trapped s t 1 (reason 4) s.me.csr.vri) ∧
      (s.engineBusy s.cur = false → ∃ t, exec .tend s = .next t ∧ t.me.life = .ended ∧ t.me.out0 = s.me.out0 ∧
        t.me.out1 = s.me.out1 ∧ t.myCore.eng0 = s.myCore.eng0 ∧ t.myCore.eng1 = s.myCore.eng1 ∧
        counted t ∧ Baseline t.me s.myCtx.globals s.me.csr ∧ ∀ a, t.byte a = s.byte a) ∧
      (s.engineBusy s.cur = true → ∃ t, exec .tend s = .next t ∧ t.me.wait = .leave true ∧ t.me.life = s.me.life ∧
        counted t ∧ t.me.x = s.me.x ∧ t.me.out0 = s.me.out0 ∧ t.me.out1 = s.me.out1 ∧ ∀ a, t.byte a = s.byte a)) ∧
    ∀ k, s.me.task = some k →
      (Z y < 2 ^ 18 → s.frameStores (yieldStores s k) = .ok u →
        let r := if y.getLsbD 16 then k.record else withPriority k.record (y.setWidth 16)
        let queued := fun (t : State) =>
          (y.getLsbD 17 = false → (myBin t (binIn r.d0)).chip =
            (myBin s (binIn r.d0)).chip ++ [{ r with arrival := s.seqNo, headerRead := false }]) ∧
          (y.getLsbD 17 = true → ∀ n, n < 256 → myBin t n = myBin s n)
        (s.engineBusy s.cur = false → ∃ t, exec (.yield b) s = .next t ∧ Baseline t.me s.myCtx.globals u.me.csr ∧
          t.me.out0 = [] ∧ t.me.out1 = [] ∧ t.me.pc = s.me.dispatchPc ∧ counted t ∧ (∀ a, t.byte a = u.byte a) ∧ queued t) ∧
        (s.engineBusy s.cur = true → ∃ t, exec (.yield b) s = .next t ∧ t.me.wait = .leave false ∧ t.me.task = none ∧
          t.me.x = s.me.x ∧ counted t ∧ (∀ a, t.byte a = u.byte a) ∧ queued t)) ∧
      (s.me.window.isSome = true → ∃ t, exec .commit s = .next t ∧ WritesNothing s t) ∧
      ∀ key, s.hub.debugUnlocked = false → s.rangeFailMe (Z (k.record.frame + 24)) 8 .store = none →
        s.segmentsMe (Z (k.record.frame + 24)) 8 .store = [(key, 8)] →
        let stored := fun (t : State) (v : Nat) => leValue t key 8 = v ∧ ∀ a, a < key ∨ key + 8 ≤ a → t.byte a = s.byte a
        (s.me.window = none → ∃ t, exec .commit s = .next t ∧ t.me.task = some { k with committed := true } ∧
          t.me.window = some (0, 0) ∧ stored t 1 ∧ (∀ r, t.x r = s.x r) ∧ t.me.pc = s.me.retire.pc ∧
          t.me.csr = { s.me.csr with instret := s.me.csr.instret + 1 }) ∧
        (s.engineBusy s.cur = false → ∃ t, exec .tend s = .next t ∧ Left s t ∧ counted t ∧ stored t 3 ∧
          ∀ n, n < 256 → myBin t n = myBin s n) ∧
        (s.engineBusy s.cur = true → ∃ t, exec .tend s = .next t ∧ t.me.wait = .leave false ∧ t.me.task = none ∧
          t.me.x = s.me.x ∧ counted t ∧ stored t 3 ∧ ∀ n, n < 256 → myBin t n = myBin s n)

/-- The unit's reads and refills (R271 to R273): a frame's header, a record that comes on chip with what its ring slot holds now, be
the ring in a window or in global memory (R216, R301), a parked task that stops counting. -/
def Sys2Proof.Claims.BinService : Prop :=
  ∀ (s : State) (ctx die n h : Nat),
    let c := s.ctx ctx
    let old := s.bin ctx die n
    (∀ idx, s.hub.debugUnlocked = false → s.flaws = [] → ∃ t, exec (.frameHeaderRead ctx die n idx) s = .next t ∧
      (t.bin ctx die n).chip.length = old.chip.length ∧
      (∀ j r, old.chip[j]? = some r → (t.bin ctx die n).chip[j]? = some (if j = idx then { r with headerRead := true } else r)) ∧
      { t with ctxs := s.ctxs } = s) ∧
    (∀ slot r rest, old.ring = (slot, r) :: rest → old.chip.length < 1024 → s.storeFree ctx die ≠ 0 →
      let va := Z c.spill + die * 2 ^ (c.spilllog + 12) + (n * 2 ^ c.spilllog + slot) * 16
      let at_ := if inWindow (va % 2 ^ 48) then s.resolve (die * 128) ctx (2 ^ 20) (va % 2 ^ 64) .load
        else s.translate ctx (va % 2 ^ 48) .load (decide (c.st = .resident))
      (∀ e, at_ = .error e → ∃ t, exec (.spillRefill ctx die n) s = .next t ∧ { t with ctxs := s.ctxs } = s ∧
        t.bin ctx die n = { old with ring := rest, chip := old.chip ++ [r] }) ∧
      (∀ key, at_ = .ok key → n < 256 → s.flaws = [] → s.hub.debugUnlocked = false → ∃ t q, exec (.spillRefill ctx die n) s = .next t ∧
        { t with ctxs := s.ctxs, freeNo := s.freeNo } = s ∧
        t.bin ctx die n = { old with ring := rest, chip := old.chip ++ [q] } ∧ q.arrival = r.arrival ∧ binIn q.d0 = n ∧
        (s.poisonedAt key 16 = none → Z q.d0 % 2 ^ 56 = leValue s key 8 % 2 ^ 56 ∧ Z q.d1 = leValue s (key + 8) 8))) ∧
    ((s.hart h).parked = 257 → ∃ t, exec (.parkFloorTimeout h) s = .next t ∧
      t.hart h = { s.hart h with parked := 258 } ∧ { t with harts := s.harts } = s ∧ ∀ k, k ≠ h → t.hart k = s.hart k)

/-- Racking between the dies of a device and between devices (R277, R278). -/
def Sys2Proof.Claims.Racking : Prop :=
  ∀ (s : State) (ctx die : Nat),
    let c := s.ctx ctx
    let peers := ((s.vf (ctx / 4)).remote.map Prod.fst).eraseDups
    (s.wpopWaits ctx die = true → s.hasEligible ctx die = false → s.roomFor ctx die ≠ 0 →
      (∀ w ∈ c.flight, w.dst ≠ die) → ∀ d, (c.dies.find? fun d => d != die && !(s.movable ctx d fun _ => true).isEmpty) = some d →
      ∃ t l m, exec (.rackRequest ctx die) s = .next t ∧ l ≠ [] ∧ l.length ≤ 32 ∧
        (t.ctx ctx).flight = c.flight ++ [{ src := d, dst := die, bin := m, recs := l, moves := [] }] ∧
        (∀ r ∈ l, r.pinned = false ∧ ∃ e ∈ c.bins, e.1 / 256 = d ∧ r ∈ e.2.chip) ∧
        fget 0 (t.ctx ctx).sent d = fget 0 c.sent d + l.length ∧ ∀ a, t.byte a = s.byte a) ∧
    (∀ w rest, c.st = .resident → c.flight = w :: rest → w.dst = die → ∃ t, exec (.rackArrival ctx die) s = .next t ∧
      (t.ctx ctx).flight = rest ∧ fget 0 (t.ctx ctx).received die = fget 0 c.received die + w.recs.length ∧
      ∀ r q p, w.recs = [r] → (w.moves = [] ∧ q = r ∨ w.moves = [(BitVec.ofNat 48 (Z r.d0), p)] ∧ q = withPriority r p) →
        let b := s.bin ctx die (binIn q.d0)
        b.ring = [] → b.chip.length < 1024 → s.storeFree ctx die ≠ 0 →
        (t.bin ctx die (binIn q.d0)).chip = b.chip ++ [{ q with arrival := s.seqNo, headerRead := false }]) ∧
    (c.st ≠ .resident → ∀ recs n, exec (.deviceRack ctx none recs) s = .next s ∧
      exec (.deviceRack ctx (some (n + 1)) []) s = .next s) ∧
    (c.st = .resident → peers ≠ [] → (∃ d ∈ c.dies, s.wpopWaits ctx d = true) → (∀ d ∈ c.dies, s.hasEligible ctx d = false) →
      ∃ t, exec (.deviceRack ctx none []) s = .next t ∧ { t with ctxs := s.ctxs } = s ∧
        t.ctx ctx = { c with asked := peers.length }) ∧
    (∀ n d, c.st = .resident → (c.dies.find? fun d => !(s.movable ctx d Rec.xdev).isEmpty) = some d →
      ∃ t l, exec (.deviceRack ctx (some (n + 1)) []) s = .next t ∧ l ≠ [] ∧ l.length ≤ min 32 (n + 1) ∧
        (t.ctx ctx).xflight = c.xflight ++ [(d, l)] ∧ (t.ctx ctx).xsent = c.xsent + l.length ∧
        (∀ r ∈ l, r.pinned = false ∧ r.d1.getLsbD 10 = true ∧ ∃ e ∈ c.bins, e.1 / 256 = d ∧ r ∈ e.2.chip) ∧
        ∀ a, t.byte a = s.byte a) ∧
    (∃ t, exec (.deviceRack ctx (some 0) []) s = .next t ∧ { t with ctxs := s.ctxs } = s ∧
      t.ctx ctx = { c with xflight := c.xflight.tail }) ∧
    ∀ d0 d1 d, c.st = .resident → c.asked ≠ 0 → (c.dies.find? fun d => s.wpopWaits ctx d) = some d → d1.getLsbD 10 = true →
      let b := s.bin ctx d (binIn d0)
      b.ring = [] → b.chip.length < 1024 → s.storeFree ctx d ≠ 0 →
      ∃ t, exec (.deviceRack ctx none [(d0, d1)]) s = .next t ∧ (t.ctx ctx).asked = c.asked - 1 ∧
        (t.ctx ctx).xreceived = c.xreceived + 1 ∧
        (t.bin ctx d (binIn d0)).chip = b.chip ++ [record d0 d1 s.seqNo] ∧ ∀ a, t.byte a = s.byte a

/-- Pre-emption and the commit window (R281, R291, R292, R294). -/
def Sys2Proof.Claims.Preemption : Prop :=
  ∀ (s : State) (h : Nat) (k : Task), (s.hart h).task = some k →
    (s.canPreempt h = true → s.engineBusy h = false → ∃ t, exec (.preemption h) s = .next t ∧
      AtHart s t h fun u w => Left u w ∧ w.me.csr.instret = u.me.csr.instret ∧
        (myBin w (binIn k.record.d0)).chip =
          (myBin u (binIn k.record.d0)).chip ++ [{ k.record with arrival := u.seqNo, headerRead := false }]) ∧
    (s.canPreempt h = true → s.engineBusy h = true → ∃ t, exec (.preemption h) s = .next t ∧
      AtHart s t h fun u w => w.me.wait = .leave false ∧ w.me.task = some k ∧ w.me.x = u.me.x ∧ w.me.csr = u.me.csr ∧
        w.me.pc = u.me.pc ∧ ∀ n, n < 256 → myBin w n = myBin u n) ∧
    (s.canPreempt h = false → ∃ t, exec (.preemption h) s = .next t ∧ { t with harts := s.harts } = s ∧
      t.hart h = { s.hart h with preempt := true } ∧ ∀ x, x ≠ h → t.hart x = s.hart x) ∧
    ∀ t0 m, (s.hart h).window = some (t0, m) → (s.hart h).sup = none →
      (if (s.actAs h).myCtx.cwin = 0 then 20 else (s.actAs h).myCtx.cwin) * 1800 ≤ t0 →
      ∃ t, exec (.commitWindowExpiry h) s = .next t ∧ (t.hart h).window = some (0, m + 1) ∧ (t.hart h).pc = (s.hart h).pc ∧
        (t.hart h).x = (s.hart h).x ∧ ∃ q, (t.hart h).sup = some q ∧ q.cause = 15 ∧ q.eval = k.record.frame

/-- Termination and the end of a launch (R269, R295). -/
def Sys2Proof.Claims.Termination : Prop :=
  ∀ (s : State) (ctx : Nat),
    let c := s.ctx ctx
    let here := c.st = .resident ∧ c.dies ≠ [] ∧ (∀ d ∈ c.dies, s.dieIdle ctx d = true) ∧ c.pushed = false
    let totals := ((c.sent.map Prod.snd).sum, (c.received.map Prod.snd).sum)
    let remote := (s.vf (ctx / 4)).remote
    (here → totals.1 = totals.2 → c.waveClean = true → c.waveTotals = totals → (remote = [] ∨ c.alone = false) →
      ∃ t, exec (.terminationWave ctx) s = .next t ∧ (t.ctx ctx).alone = true ∧
        ((t.ctx ctx).terminated = true ↔ c.terminated = true ∨ remote = [])) ∧
    (here → totals.1 = totals.2 → c.waveClean = false ∨ c.waveTotals ≠ totals → (remote = [] ∨ c.alone = false) →
      ∃ t, exec (.terminationWave ctx) s = .next t ∧ (t.ctx ctx).terminated = c.terminated ∧ (t.ctx ctx).waveClean = true ∧
        (t.ctx ctx).waveTotals = totals) ∧
    (∀ sent received, here → remote ≠ [] → c.alone = true → c.peer = some (true, sent, received) →
      c.xsent + sent = c.xreceived + received →
      ∃ t, exec (.terminationWave ctx) s = .next t ∧ (t.ctx ctx).xwave = some (c.xsent + sent, c.xreceived + received) ∧
        ((t.ctx ctx).terminated = true ↔
          c.terminated = true ∨ c.xwave = some (c.xsent + sent, c.xreceived + received))) ∧
    (c.st = .resident → s.dieIdle ctx (c.dies.headD 0) = false → exec (.terminationWave ctx) s = .next s) ∧
    (c.st = .resident → c.terminated = true → (∀ k ∈ c.hartList, (s.hart k).life ≠ .running) →
      ∃ t, exec (.launchComplete ctx) s = .next t ∧ (t.ctx ctx).st = .idle ∧
        (∀ p ∈ c.cfg.presses, (t.press p).resident = none) ∧
        t.hub.resps = s.hub.resps ++ [{ op := 1, tag := c.tag, vf := ctx / 4, mgmt := c.mgmt, status := 0, detail := 0,
                                        body := .empty }])

/-- What the worklist units do of themselves (R271 to R273, R277, R278, R292, R294, R295, R269). The model's choices in it: a ring slot
that cannot be read gives its record back as pushed, and a refilled record stays in its ring's bin (log entry 27); where another
device's records arrive, and how a wave runs across devices (log entry 53); a chosen task's record is queued again once its engine
commands are complete (log entry 17). -/
def Obligations.WorklistUnits : Prop :=
  Claims.BinService ∧ Claims.Racking ∧ Claims.Preemption ∧ Claims.Termination

/-! The host. -/

/-- Context commands (R268, R269, R297 to R300, R305, R355), where no data command of the session for the context is under way. -/
def Obligations.ContextCommands : Prop :=
  ∀ (s : State) (h : GyskoHdr) (ctx : Nat), KernelRight s h → ctx < 64 → ctx / 4 = h.vf → NoneBefore s h ctx →
    let c := s.ctx ctx
    (∀ cfg, s.cfgOk h.vf cfg = true → c.st = .free ∨ c.st = .idle → ∃ t, exec (.ctxcfg h ctx cfg) s = .next t ∧
      (t.ctx ctx).st = .idle ∧ (t.ctx ctx).cfg = cfg ∧ (t.ctx ctx).wear = 0 ∧ (t.ctx ctx).missing = false ∧
      (∀ k, k ≠ ctx → t.ctx k = s.ctx k) ∧ Answers s t h 0x0002 .empty ∧ ∀ a, t.byte a = s.byte a) ∧
    (∀ cfg, s.cfgOk h.vf cfg = true → c.st = .resident ∨ c.st = .saved →
      exec (.ctxcfg h ctx cfg) s = .next (answered s h 0x0002 3 0 .empty)) ∧
    (c.st = .idle → ∃ t, exec (.ctxrel h ctx) s = .next t ∧ (t.ctx ctx).st = .free ∧ (t.ctx ctx).cfg = CtxCfg.zero ∧
      (∀ k, k ≠ ctx → t.ctx k = s.ctx k) ∧ Answers s t h 0x0003 .empty ∧ ∀ a, t.byte a = s.byte a) ∧
    (c.st = .resident → s.hasRival ctx = true → ∃ t, exec (.switch h ctx) s = .next t ∧ (t.ctx ctx).leaving = true ∧
      (∀ k, k ≠ ctx → t.ctx k = s.ctx k) ∧ Answers s t h 0x0004 .empty) ∧
    (∀ lo hi, Z lo ≤ Z hi → Z hi < 2 ^ 47 → c.st ≠ .free → ∃ t, exec (.inval h ctx lo hi) s = .next t ∧
      (∀ e, e ∈ t.tlb ↔ e ∈ s.tlb ∧ ¬ (e.ctx = ctx ∧ Z lo < e.va + e.size ∧ e.va ≤ Z hi)) ∧
      Answers s t h 0x0005 .empty ∧ ∀ a, t.byte a = s.byte a) ∧
    exec (.query h ctx) s = .next (answered s h 0x0006 0 0 (.ctxInfo c.st c.wear)) ∧
    ∀ r key k u, r.ctx = ctx → launchFieldsOk r = true → c.st = .idle → c.terminated = true → c.missing = false →
      (∀ p ∈ c.cfg.presses, (s.press p).enabled = true ∧ (s.press p).vf = some h.vf ∧ (s.press p).resident = none ∧ ¬ Due s p) →
      inWindow r.krec.toNat = false → s.translate ctx (r.krec.toNat % 2 ^ 48) .load false = .ok key → s.flaws = [] →
      s.poisonedAt key 32 = none →
      headerOf (leValue s key 8) (leValue s (key + 8) 8) (leValue s (key + 16) 8) (leValue s (key + 24) 8) = some k →
      s.acceptLaunch h r k = some u →
      ∃ t, exec (.launch h r) s = .next t ∧ (t.ctx ctx).st = .resident ∧ (t.ctx ctx).krec = r.krec ∧
        (t.ctx ctx).wbound = BitVec.ofNat 8 r.bound ∧ (t.ctx ctx).header = k ∧ (t.ctx ctx).tag = h.tag ∧
        (∀ p ∈ c.cfg.presses, (t.press p).resident = some ctx) ∧
        ∀ n ∈ c.hartList, (t.hart n).header = k ∧ (t.hart n).pc = r.krec + 32 ∧ (t.hart n).getX 4 = r.globals ∧
          ((t.hart n).life = .running ↔ r.hartmask.getLsbD (n % 8) = true)

/-- Data commands (R357, R358, R312): host accesses to global memory, the host window, the cellar; a WRITE under way is performed to its
end before a later command of its session for its context. -/
def Obligations.DataCommands : Prop :=
  ∀ (s : State) (h : GyskoHdr) (ctx : Nat),
    (KernelRight s h → ctx < 64 → ctx / 4 = h.vf → (s.ctx ctx).st ≠ .free → NoneBefore s h ctx →
      (∀ va bytes segs, s.hostSegs ctx va.toNat bytes.length true = .ok segs → (segKeys segs).Nodup →
        bytes.length ≤ h.len.toNat →
        ∃ t, exec (.write h ctx va bytes) s = .next t ∧ BytesAt s t (segKeys segs) bytes ∧ t.harts = s.harts ∧
          Answers s t h 0x0010 .empty) ∧
      (∀ va bytes, h.len.toNat < bytes.length →
        exec (.write h ctx va bytes) s = .next (answered s h 0x0010 1 0 .empty)) ∧
      (∀ va len, 2 ^ 24 ≤ len → exec (.read h ctx va len) s = .next (answered s h 0x0011 1 0 .empty)) ∧
      (∀ va len segs, len < 2 ^ 24 → s.hostSegs ctx va.toNat len false = .ok segs → s.flaws = [] → s.poisonedSegs segs 0 = none →
        exec (.read h ctx va len) s = .next (answered s h 0x0011 0 0 (.bytes ((segKeys segs).map s.byte)))) ∧
      (∀ va bytes a, bytes.length ≤ h.len.toNat → s.hostSegs ctx va.toNat bytes.length true = .error a →
        exec (.write h ctx va bytes) s = .next (answered s h 0x0010 7 a .empty)) ∧
      ∀ pidx off bytes p, (s.ctx ctx).st = .idle → (s.ctx ctx).cfg.presses[pidx]? = some p →
        bytes.length ≤ h.len.toNat → off + bytes.length ≤ 20971520 → (s.ctx ctx).cfg.cellarimg = 0 → (s.press p).resident = none →
        (s.press p).cellarCtx = some ctx → ∃ t, exec (.cellarld h ctx pidx off bytes) s = .next t ∧
          BytesAt s t ((List.range bytes.length).map fun i => 2 ^ 57 + p * 2 ^ 25 + off + i) bytes ∧
          Answers s t h 0x0012 .empty) ∧
    (KernelRight s h → ctx < 64 → ctx / 4 = h.vf → ∀ d, s.hub.data = [d] → d.op = 0x0010 → d.hdr.session = h.session →
      d.ctx = ctx → d.todo ≠ [] → ∃ t r q, exec (.query h ctx) s = .next t ∧ t.hub.data = [] ∧
        t.hub.resps = s.hub.resps ++ [r, q] ∧ r.op = 0x0010 ∧ r.tag = d.hdr.tag ∧ q.op = 0x0006 ∧ q.tag = h.tag ∧
        q.body = .ctxInfo (s.ctx ctx).st (s.ctx ctx).wear) ∧
    (FromVf s h → ∀ off bytes len, off % 8 = 0 → bytes.length % 8 = 0 → len % 8 = 0 → off + bytes.length ≤ 65536 →
      off + len ≤ 65536 → bytes.length ≤ h.len.toNat → (∃ t, exec (.hwrite h off bytes) s = .next t ∧
        BytesAt s t ((List.range bytes.length).map fun i => 2 ^ 58 + h.vf * 2 ^ 16 + off + i) bytes ∧
        Answers s t h 0x0013 .empty) ∧
      (s.flaws = [] → s.poisonedAt (2 ^ 58 + h.vf * 2 ^ 16 + off) len = none → exec (.hread h off len) s = .next
        (answered s h 0x0014 0 0 (.bytes ((List.range len).map fun i => s.byte (2 ^ 58 + h.vf * 2 ^ 16 + off + i))))))

/-- Management commands (R297, R337 to R339, R346 to R349, R355, R360, R363, R387), refusals before a payload is looked at, and
the form of a response (R354). That FLR is carried out in every TDISP state, ERROR among them (R365), and that its steps are one, is the
model's reading, log entry 31; what a reset measures again is log entry 40. -/
def Obligations.ManagementCommands : Prop :=
  ∀ (s : State) (h : GyskoHdr),
    (∀ i op, gyskoOf i = some (h, op) →
      (s.hub.power = .off → exec i s = .next s) ∧
      (s.hub.power = .reset → exec i s = .next (answered s h op 4 0 .empty)) ∧
      (Answering s → h.zero ≠ 0 ∨ 16 ≤ h.vf → exec i s = .next (answered s h op 1 0 .empty)) ∧
      (Answering s → h.zero = 0 → h.vf < 16 → h.session = .none → op ≠ 0x0030 →
        exec i s = .next (answered s h op 2 0 .empty))) ∧
    (FromMgmt s h → (s.vf h.vf).tdisp = .unlocked → (s.vf h.vf).resetting = false → ∀ op,
      exec (.unknownOp h op) s = .next (answered s h op 1 0 .empty)) ∧
    (FromVf s h → ∃ b, exec (.summary h) s = .next (answered s h 0x0020 0 0 (.summary b)) ∧ b.magic = 0xCD5A0517 ∧
      b.evgen0 = s.hub.seq ∧ b.evgen1 = s.hub.seq ∧ b.time = s.hub.time ∧ b.torn = false ∧
      (RespBody.payload (.summary b)).length = 10480 ∧
      ∀ k, k < 64 → k / 4 ≠ h.vf → b.ctxs[k]? = some (0, false, 0, 0, 0)) ∧
    (FromMgmt s h → ∃ t, exec (.flr h) s = .next t ∧ (t.vf h.vf).tdisp = .unlocked ∧ (t.vf h.vf).nonce = 0 ∧
      (t.vf h.vf).resetting = false ∧ (∀ k, k / 4 = h.vf → (t.ctx k).st = .free) ∧ (∀ e ∈ t.tlb, e.ctx / 4 ≠ h.vf) ∧
      (∀ p, p < 128 → (s.press p).vf = some h.vf → (t.press p).resident = none) ∧ (∀ d ∈ t.hub.data, d.hdr.vf ≠ h.vf) ∧
      (∀ d ∈ s.hub.data, d.hdr.vf = h.vf → ∀ e ∈ d.todo, (∀ x ∈ d.todo, sectorAt s d e.1 ≤ sectorAt s d x.1) →
        ∃ r ∈ t.hub.resps, r.op = d.op ∧ r.tag = d.hdr.tag ∧ r.status = 2 ∧ r.detail = sectorAt s d e.1 % 2 ^ 56) ∧
      t.hub.mlog = s.hub.mlog ++ [1, 2, 3, 4, 5, 6, 7, 8].map fun i => (i, t.measurement i)) ∧
    (∀ presses ranges, FromMgmt s h → (∀ v, v < 16 → (s.vf v).tdisp = .unlocked ∨ (s.vf v).tdisp = .error) →
      (s.vf h.vf).tdisp = .unlocked → (s.vf h.vf).resetting = false →
      (∀ p ∈ presses, p < 128 ∧ (s.press p).enabled = true) → presses.Nodup →
      (∀ r ∈ ranges, s.memExists (r * 2 ^ 30) = true) → ranges.Nodup → (∀ p, p < 128 → (s.press p).resident = none) →
      ∃ t, exec (.assign h presses ranges) s = .next t ∧
        (∀ p, p < 128 → (t.press p).vf =
          if p ∈ presses then some h.vf else if (s.press p).vf = some h.vf then none else (s.press p).vf) ∧
        (t.vf h.vf).ranges = ranges ∧
        (∀ v, v < 16 → v ≠ h.vf → (t.vf v).ranges = (s.vf v).ranges.filter fun r => !ranges.contains r) ∧
        t.hub.assigns = s.hub.assigns + 1 ∧ t.hub.mlog = s.hub.mlog ++ [(5, t.measurement 5)] ∧ Answers s t h 0x0022 .empty) ∧
    (FromMgmt s h → (∀ w, 600 ≤ w → w ≤ 1800 →
        exec (.power h (some w) none) s = .next (answered { s with hub := { s.hub with plim := w } } h 0x0023 0 0 .empty)) ∧
      exec (.power h none (some true)) s =
        .next (answered { s with hub := { s.hub with power := .run } } h 0x0023 0 0 .empty) ∧
      (∀ w, w < 600 ∨ 1800 < w → exec (.power h (some w) none) s = .next (answered s h 0x0023 1 0 .empty)) ∧
      ((∃ c, c < 64 ∧ ((s.ctx c).st = .resident ∨ (s.ctx c).st = .saved)) →
        exec (.power h none (some false)) s = .next (answered s h 0x0023 3 0 .empty)) ∧
      ((∀ c, c < 64 → (s.ctx c).st ≠ .resident ∧ (s.ctx c).st ≠ .saved) → exec (.power h none (some false)) s =
        .next (answered { s with hub := { s.hub with power := .standby } } h 0x0023 0 0 .empty)) ∧
      ∀ magic version size image digest sig, digest.length = 64 → sig.length = 2820 → 2908 + image.length ≤ h.len.toNat →
        let f : Slot := { magic := magic, version := version, size := size, digest := digest, sig := sig, image := image }
        ∃ t, exec (.fwupdate h { magic := magic, version := version } size image digest sig) s = .next t ∧ Answers s t h 0x0024 .empty ∧
          t.hub.fw0 = (if s.hub.fwSlot then f else s.hub.fw0) ∧ t.hub.fw1 = (if s.hub.fwSlot then s.hub.fw1 else f) ∧
          t.hub.fwSlot = s.hub.fwSlot) ∧
    (Answering s → h.zero = 0 → h.vf < 16 → h.session = .none → ∀ msg,
      (h.mgmt = false → (s.vf h.vf).resetting = false → ∃ b, exec (.spdm h msg) s = .next (answered s h 0x0030 0 0 (.bytes b))) ∧
      (h.mgmt = true → exec (.spdm h msg) s = .next (answered s h 0x0030 2 0 .empty))) ∧
    ∀ r : Resp, r.vf < 16 → r.status < 256 → r.detail < 2 ^ 56 → r.body.payload.length < 2 ^ 24 →
      r.wire.length = 16 + r.body.payload.length ∧ r.wire.drop 16 = r.body.payload ∧
      bytesNat (r.wire.take 8) = r.op.toNat * 2 ^ 48 + r.tag.toNat * 2 ^ 32 + r.vf * 2 ^ 28 + bitN r.mgmt 27 +
        r.body.payload.length ∧
      bytesNat ((r.wire.drop 8).take 8) = r.status * 2 ^ 56 + r.detail

/-- SPDM requests in order (R347, R349, R356, R359 to R362). The order and the sizes of a nonce and a key share are SPDM 1.3's, log entry
33; that the event of a nearly exhausted key is sent from 2^20 - 4096 used indices on, once a key, is the model's reading, log entry
73. -/
def Obligations.SessionMessages : Prop :=
  ∀ (s : State) (q : SpdmReq),
    let k := s.session q.ses
    (∀ i, spdmOf i = some q → (s.hub.power = .off → exec i s = .next s) ∧
      (s.hub.power = .reset → exec i s = .next (replied s q 4 .empty)) ∧
      (Answering s → q.ses < 16 → (s.vf q.ses).resetting = true → exec i s = .next (replied s q 2 .empty))) ∧
    (Answering s → (q.ses < 16 → (s.vf q.ses).resetting = false) →
      exec (.getVersion q) s =
        .next (replied (withSession s q.ses { SpdmSession.reset with versioned := true }) q 0 (.ints [0x13])) ∧
      (k.versioned = true →
        exec (.getCapabilities q) s = .next (replied (withSession s q.ses { k with capable := true }) q 0 .empty)) ∧
      (k.versioned = false → exec (.getCapabilities q) s = .next (replied s q 1 .empty)) ∧
      (k.capable = true → exec (.negotiateAlgorithms q true true true true) s =
        .next (replied (withSession s q.ses { k with negotiated := true }) q 0 .empty)) ∧
      (∀ a b c d, (a && b && c && d) = false →
        exec (.negotiateAlgorithms q a b c d) s = .next (replied s q 1 .empty)) ∧
      (k.negotiated = true →
        (∃ b, exec (.getDigests q) s = .next (replied s q 0 (.bytes b))) ∧
        (∀ off len, ∃ b, exec (.getCertificate q off len) s = .next (replied s q 0 (.bytes b))) ∧
        (∀ index nonce, index ≤ 8 ∨ index = 255 → exec (.getMeasurements q index false nonce) s =
          .next (replied s q 0 (.bytes (if index = 0 then [8]
            else blocksOf64 (if index = 255 then s.measurements else [s.measurement index]))))) ∧
        (s.hub.xmss < 2 ^ 20 → ∀ x,
          (∃ t sig, exec (.challenge q x) s = .next t ∧ Signs s t ∧
            Replies s t q (.signed (leOf 32 x ++ blocksOf64 s.measurements) sig)) ∧
          (∀ index, 1 ≤ index → index ≤ 8 → ∃ t sig, exec (.getMeasurements q index true x) s = .next t ∧ Signs s t ∧
            Replies s t q (.signed (blocksOf64 [s.measurement index] ++ leOf 32 x) sig)) ∧
          (∃ t y sig, exec (.keyExchange q x) s = .next t ∧ Signs s t ∧ Replies s t q (.signed (leOf 96 x ++ leOf 96 y) sig) ∧
            t.session q.ses = { k with exchanged := some y }) ∧
          (2 ^ 20 - 4096 ≤ s.hub.xmss + 1 → s.hub.xmssWarned = false → ∃ t, exec (.challenge q x) s = .next t ∧
            t.hub.xmssWarned = true ∧ t.hub.events.length = s.hub.events.length + 1)) ∧
        (2 ^ 20 ≤ s.hub.xmss → ∀ x, exec (.challenge q x) s = .next (replied s q 8 .empty))) ∧
      (∀ x mac, k.exchanged = some x → ∃ t, exec (.finish q mac) s = .next t ∧
        t = if Config.finishOk x mac then
            replied (withSession s q.ses { k with exchanged := none, secured := true, keyGen := 0 }) q 0 .empty
          else replied (withSession s q.ses { k with exchanged := none }) q 1 .empty) ∧
      (k.exchanged = none → ∀ mac, exec (.finish q mac) s = .next (replied s q 1 .empty)) ∧
      (k.secured = true → exec (.heartbeat q) s = .next (replied s q 0 .empty) ∧
        exec (.keyUpdate q) s = .next (replied (withSession s q.ses { k with keyGen := k.keyGen + 1 }) q 0 .empty) ∧
        exec (.endSession q) s = .next (replied (withSession s q.ses { k with secured := false }) q 0 .empty)))

/-- TDISP and memory-key messages (R349, R364, R365, R367): states, the lock nonce, refusals, what an error does. That a VF's messages
are taken in its own session and in the management session is the model's reading, log entry 33; log entry 38 for what protects an
installed key. -/
def Obligations.InterfaceStates : Prop :=
  ∀ (s : State) (q : SpdmReq) (vf : Nat), Answering s →
    let v := s.vf vf
    let k := s.session q.ses
    let open_ := q.ses < 16 → (s.vf q.ses).resetting = false
    (∀ i m, vendorForm i = some (q, m) → exec (.vendorDefinedRequest q m) s = exec i s) ∧
    (open_ → k.secured = false → ∀ i m, vendorForm i = some (q, m) → exec i s = .next (replied s q 1 .empty)) ∧
    (open_ → ∀ code, exec (.tdispUnsupportedMessage q vf code) s = .next (replied s q
      (if k.secured = true ∧ (q.ses ≠ vf ∧ q.ses ≠ 16 ∨ v.resetting = true) then 2 else 1) .empty)) ∧
    (k.secured = true → q.ses = vf ∨ q.ses = 16 → v.resetting = true → ∀ i, ForVf q vf i →
      exec i s = .next (replied s q 2 .empty)) ∧
    (k.secured = true → q.ses = vf ∨ q.ses = 16 → open_ → v.resetting = false →
      exec (.getTdispVersion q vf) s = .next (replied s q 0 (.ints [0x10])) ∧
      exec (.getTdispCapabilities q vf) s = .next (replied s q 0 .empty) ∧
      (v.tdisp = .unlocked → ∃ t n, exec (.lockInterfaceRequest q vf) s = .next t ∧
        t.vf vf = { v with tdisp := .locked, nonce := n } ∧ Replies s t q (.ints [n]) ∧
        ∀ k, k ≠ vf → t.vf k = s.vf k) ∧
      (v.tdisp ≠ .unlocked → exec (.lockInterfaceRequest q vf) s = .next (replied s q 2 .empty)) ∧
      (∃ l, exec (.getDeviceInterfaceReport q vf) s = .next (replied s q 0 (.ints l)) ∧
        l.getLast? = some v.nonce) ∧
      exec (.getDeviceInterfaceState q vf) s = .next (replied s q 0 (.ints [tdispNumber v.tdisp])) ∧
      (v.tdisp = .locked → ∃ t, exec (.startInterfaceRequest q vf v.nonce) s = .next t ∧
        t.vf vf = { v with tdisp := .run } ∧ Replies s t q .empty) ∧
      (∀ nonce, v.tdisp ≠ .locked ∨ nonce ≠ v.nonce →
        exec (.startInterfaceRequest q vf nonce) s = .next (replied s q 2 .empty)) ∧
      (∃ t, exec (.stopInterfaceRequest q vf) s = .next t ∧ (t.vf vf).tdisp = .unlocked ∧ (t.vf vf).nonce = 0 ∧
        ∀ k, k / 4 = vf → (t.ctx k).st = .free) ∧
      (∀ key, v.tdisp = .unlocked → q.ses = vf → key = none ∨ k.keyGen ≠ 0 → ∃ t x, exec (.memoryKeyInstall q vf key) s = .next t ∧
        t.vf vf = { v with keyed := true, key := some x, keyGen := v.keyGen + 1, lostKey := false } ∧
        (∀ y, key = some y → x = y) ∧ Replies s t q .empty) ∧
      ∀ key, v.tdisp ≠ .unlocked ∨ q.ses ≠ vf ∨ key.isSome = true ∧ k.keyGen = 0 →
        exec (.memoryKeyInstall q vf key) s = .next (replied s q 2 .empty)) ∧
    (∃ t, exec (.sessionFault vf) s = .next t ∧
      t.vf vf = (if v.tdisp = .locked ∨ v.tdisp = .run then { v with tdisp := .error } else v) ∧
      (∀ k, k ≠ vf → t.vf k = s.vf k) ∧ ∀ a, t.byte a = s.byte a) ∧
    ∃ t, exec (.memoryKeyLoss vf) s = .next t ∧ (t.vf vf).keyed = false ∧ (t.vf vf).lostKey = true ∧
      (v.tdisp = .locked ∨ v.tdisp = .run → (t.vf vf).tdisp = .error) ∧ ∀ k, k ≠ vf → t.vf k = s.vf k

/-- Context switches, slices, and the walks that fill the TLBs (R299 to R304, R307 to R312, R345). That a saved context has to come after
earlier saved ones only where they share a press is the model's reading of R300, log entry 39. -/
def Obligations.ContextSwitches : Prop :=
  ∀ (s : State) (ctx : Nat),
    let c := s.ctx ctx
    (s.canSwitchOut ctx = true → ∃ t, exec (.contextSwitchOut ctx) s = .next t ∧ (t.ctx ctx).st = .saved ∧
      (t.ctx ctx).leaving = false ∧ (t.ctx ctx).saved.isSome = true ∧
      (∀ p ∈ c.cfg.presses, (t.press p).resident = none) ∧ ∀ h ∈ c.hartList, (t.hart h).life = .off) ∧
    (s.canSwitchOut ctx = false → exec (.contextSwitchOut ctx) s = .next s) ∧
    (c.st = .saved → (∃ p ∈ c.cfg.presses, (s.press p).enabled = false ∨ (s.press p).resident.isSome = true ∨ Due s p) →
      exec (.contextSwitchIn ctx) s = .next s) ∧
    (c.st = .saved → (∀ p ∈ c.cfg.presses, (s.press p).enabled = true ∧ (s.press p).resident = none ∧ ¬ Due s p) →
      (∀ k, k < 64 → (s.ctx k).st = .saved → (s.ctx k).savedOrder < c.savedOrder → s.sharePress ctx k = false) →
      ∃ t, exec (.contextSwitchIn ctx) s = .next t ∧ (t.ctx ctx).st = .resident ∧ (t.ctx ctx).slice = 0 ∧
        ∀ p ∈ c.cfg.presses, (t.press p).resident = some ctx) ∧
    (c.st = .resident → c.leaving = false → c.cfg.tslice ≠ 0 → c.cfg.tslice * 1800000 ≤ c.slice → s.hasRival ctx = true →
      ∃ t, exec (.sliceExpiry ctx) s = .next t ∧ t.ctx ctx = { c with leaving := true } ∧ { t with ctxs := s.ctxs } = s) ∧
    ∀ core (va : Word64) e size, (s.press (pressOfCore core)).resident = some ctx →
      (Z va / 2 ^ 47 = 0 ∨ Z va / 2 ^ 47 = 2 ^ 17 - 1) →
      (∀ t ∈ s.tlb, t.ctx = ctx → ¬ (t.va ≤ Z va % 2 ^ 48 ∧ Z va % 2 ^ 48 < t.va + t.size)) →
      s.walkFrom (ctx / 4) (Z va % 2 ^ 48) (fun _ => true) 4 1 c.cfg.tbase = .ok (e, size) → s.flaws = [] →
      exec (.pageWalk core va) s = .next { s with tlb := s.tlb ++
        [{ ctx := ctx, va := Z va % 2 ^ 48 / size * size, size := size, leaf := e }] }

/-! Links, errors, power, wear, debug, resets. -/

/-- Links and CXL ports (R323, R324, R353, R368 to R370). That a packet whose PSN has come before under its key is dropped, that a key the
link has used is not taken again, and which key and salt the sender's own rotation has, is the model's choice, log entry 86. -/
def Obligations.LinksAndPorts : Prop :=
  ∀ (s : State) (port : Nat),
    let l := s.link port
    let others := fun (t : State) => ∀ p, p ≠ port → t.link p = s.link p
    (∀ mode slot psn packet tag, mode = .unreliable ∨ mode = .idempotent →
      ∃ t, exec (.linkPacketReceive port mode slot psn { bytes := packet, tag := tag }) s = .next t ∧
        t.link port = { l with dropped := l.dropped + 1 } ∧ others t ∧ { t with links := s.links } = s) ∧
    (∀ mode slot psn packet tag, mode = .rud ∨ mode = .rod →
      (Verified l slot psn packet tag → (slot, psn) ∈ l.seen →
        ∃ t, exec (.linkPacketReceive port mode slot psn { bytes := packet, tag := tag }) s = .next t ∧ (t.link port).dropped = l.dropped + 1 ∧
          (t.link port).counted = l.counted ∧ psnOf (t.link port) slot = psnOf l slot ∧
          psnOf (t.link port) (!slot) = psnOf l (!slot) ∧ others t ∧ { t with links := s.links } = s) ∧
      (Verified l slot psn packet tag → (slot, psn) ∉ l.seen →
        ∃ t, exec (.linkPacketReceive port mode slot psn { bytes := packet, tag := tag }) s = .next t ∧ (t.link port).dropped = l.dropped ∧
          (t.link port).fails = 0 ∧ (t.link port).counted = l.counted + 1 ∧ (slot, psn) ∈ (t.link port).seen ∧
          psnOf (t.link port) slot = max (psnOf l slot) (psn + 1) ∧ psnOf (t.link port) (!slot) = psnOf l (!slot) ∧
          others t ∧ { t with links := s.links } = s) ∧
      (¬ Verified l slot psn packet tag →
        ∃ t, exec (.linkPacketReceive port mode slot psn { bytes := packet, tag := tag }) s = .next t ∧ others t ∧
          psnOf (t.link port) slot = psnOf l slot ∧ psnOf (t.link port) (!slot) = psnOf l (!slot) ∧
          counterOf t 4 4 = bumped (counterOf s 4 4) ∧ (∀ a, t.byte a = s.byte a) ∧
          (l.fails + 1 < 8 → (t.link port).fails = l.fails + 1 ∧ (t.link port).dropped = l.dropped + 1 ∧
            (t.link port).poisoned = l.poisoned ∧ counterOf t 4 5 = counterOf s 4 5) ∧
          (8 ≤ l.fails + 1 → (t.link port).fails = 0 ∧ (t.link port).dropped = l.dropped ∧
            (t.link port).poisoned = l.poisoned + 1 ∧ counterOf t 4 5 = bumped (counterOf s 4 5) ∧
            ∃ e rest, (t.die 4).log = e :: rest ∧ e.kind = 6))) ∧
    (∀ key salt, key ∈ l.used → ∃ t, exec (.linkKeyRotation port key salt) s = .next t ∧ (∀ p, t.link p = s.link p) ∧
      { t with links := s.links } = s) ∧
    (∀ key salt, key ∉ l.used → rxOf l l.active = none → ∃ t, exec (.linkKeyRotation port key salt) s = .next t ∧ others t ∧
      (t.link port).active = l.active ∧ psnOf (t.link port) l.active = 0 ∧ rxOf (t.link port) l.active = some (key, salt) ∧
      key ∈ (t.link port).used) ∧
    (∀ key salt, key ∉ l.used → (rxOf l l.active).isSome = true → rxOf l (!l.active) = none →
      ∃ t, exec (.linkKeyRotation port key salt) s = .next t ∧ others t ∧ (t.link port).active = !l.active ∧
        psnOf (t.link port) (!l.active) = 0 ∧ (t.link port).gen = l.gen + 1 ∧ key ∈ (t.link port).used ∧
        (∀ n, (!l.active, n) ∉ (t.link port).seen) ∧
        rxOf (t.link port) (!l.active) = some (key, salt) ∧ rxOf (t.link port) l.active = rxOf l l.active ∧
        (if l.active then (t.link port).tx0 else (t.link port).tx1) = some (key, salt)) ∧
    (rxOf l (!l.active) ≠ none → l.newSeen = true → 7200 ≤ l.quiet → ∃ t, exec (.linkSlotRetire port) s = .next t ∧ others t ∧
      rxOf (t.link port) (!l.active) = none ∧ rxOf (t.link port) l.active = rxOf l l.active) ∧
    (l.newSeen = false ∨ l.quiet < 7200 → exec (.linkSlotRetire port) s = .next s) ∧
    (2 ^ 62 ≤ psnOf l l.active → rxOf l (!l.active) = none → 2 ^ 256 + s.freeNo ∉ l.used → ∃ t, exec (.psnLimit port) s = .next t ∧
      psnOf (t.link port) (t.link port).active = 0 ∧ others t) ∧
    (psnOf l l.active < 2 ^ 62 → exec (.psnLimit port) s = .next s) ∧
    (∃ t, exec (.cxlPortDown port) s = .next t ∧ (if port = 0 then t.hub.cxlDown0 = true ∧ t.hub.cxlDown1 = s.hub.cxlDown1
      else t.hub.cxlDown1 = true ∧ t.hub.cxlDown0 = s.hub.cxlDown0) ∧ { t with hub := s.hub } = s) ∧
    ∃ t, exec (.cxlPortRetrain port) s = .next t ∧ (if port = 0 then t.hub.cxlDown0 = false ∧ t.hub.cxlDown1 = s.hub.cxlDown1
      else t.hub.cxlDown1 = false ∧ t.hub.cxlDown0 = s.hub.cxlDown0) ∧ { t with hub := s.hub } = s

/-- Errors: scrubbing, poisoned flits, quarantine, self-tests, the supervisor (R322 to R333). The model's choices in it: a matrix
engine's self-test may be started from outside whenever the engine is not under test (log entry 30), a flit that a retry brings
through is a corrected error that is logged and tested (log entry 71), and its KIND is some listed one (R334; log entry 22). -/
def Obligations.ErrorHandling : Prop :=
  ∀ (s : State),
    (∀ key, let u := poisonUnit key
      (fget 0 s.flaws u = 0 → exec (.patrolScrub key) s = .next s) ∧
      (fget 0 s.flaws u = 1 → ∃ t, exec (.patrolScrub key) s = .next t ∧ fget 0 t.flaws u = 0 ∧ t.poison = s.poison ∧
        (∀ a, t.byte a = s.byte a) ∧ t.harts = s.harts) ∧
      (2 ≤ fget 0 s.flaws u → ∃ t, exec (.patrolScrub key) s = .next t ∧ fget 0 t.flaws u = 0 ∧ fget false t.poison u = true ∧
        (∀ v, v ≠ u → fget false t.poison v = fget false s.poison v) ∧ (∀ a, t.byte a = s.byte a) ∧ t.harts = s.harts)) ∧
    (∀ die fails key n,
      (fails ≤ 8 → ∃ t, exec (.flitReceive die fails key n) s = .next t ∧
        counterOf t die 4 = bumps fails (counterOf s die 4) ∧ counterOf t die 5 = counterOf s die 5 ∧ t.poison = s.poison ∧
        (∀ a, t.byte a = s.byte a) ∧ t.harts = s.harts ∧ (fails = 0 → t = s) ∧
        (0 < fails → s.recent = [] → ∃ e rest, (t.die die).log = e :: rest ∧ e.kind = Config.flitKind % 17 + 1)) ∧
      (8 < fails → ∃ t, exec (.flitReceive die fails key n) s = .next t ∧ counterOf t die 5 = bumped (counterOf s die 5) ∧
        counterOf t die 4 = bumps 8 (counterOf s die 4) ∧
        (∀ i, i < n → fget false t.poison (poisonUnit (key + i)) = true) ∧ (∀ a, t.byte a = s.byte a) ∧ t.harts = s.harts)) ∧
    (∀ c, (s.recorded c).length ≤ 512 → exec (.pageQuarantine c) s = .next s) ∧
    (∀ c page, 512 < (s.recorded c).length → MostRecorded s c page →
      ∃ t, exec (.pageQuarantine c) s = .next t ∧ (∀ a, t.byte a = s.byte a) ∧ t.harts = s.harts ∧
        (∀ k ∈ s.entries c, k / 65536 = page → fget false t.poison (poisonUnit k) = false ∧ fget false t.inband (poisonUnit k) = true) ∧
        ((s.ctrl c).sparesUsed < 32 → (t.ctrl c).sparesUsed = (s.ctrl c).sparesUsed + 1 ∧
          (t.ctrl c).remap = (s.ctrl c).remap ++ [(page, (s.ctrl c).sparesUsed)]) ∧
        (32 ≤ (s.ctrl c).sparesUsed → (t.ctrl c).withdrawn = (s.ctrl c).withdrawn ++ [page]) ∧
        t.hub.events.length = s.hub.events.length + 1) ∧
    (∀ u, u ∈ s.selfTests → (∀ e ∈ s.tests, e.1 = u → e.2.2 = false) → ∃ t, exec (.selfTestStart u) s = .next t ∧
      u ∉ t.selfTests ∧ (u, s.hub.time, true) ∈ t.tests ∧ t.mem = s.mem ∧ t.poison = s.poison ∧ t.harts = s.harts) ∧
    (∀ u, u ∉ s.selfTests → (∀ p, u ≠ .matrix p) → exec (.selfTestStart u) s = .next s) ∧
    (∀ p, s.unitBusy (.matrix p) = false → (∀ e ∈ s.tests, e.1 = .matrix p → e.2.2 = false) →
      ∃ t, exec (.selfTestStart (.matrix p)) s = .next t ∧ (t.press p).stallMatrix = true ∧
        (.matrix p, s.hub.time, true) ∈ t.tests ∧ t.harts = s.harts) ∧
    (∀ u pass, (∀ e ∈ s.tests, e.1 = u → e.2.2 = false) → exec (.selfTestResult u pass) s = .next s) ∧
    (∀ u, (∃ e ∈ s.tests, e.1 = u ∧ e.2.2 = true) → ∃ t, exec (.selfTestResult u true) s = .next t ∧
      (∀ e ∈ t.tests, e.1 = u → e.2.2 = false) ∧ counterOf t (placeOf u).1 8 = bumped (counterOf s (placeOf u).1 8) ∧
      t.mem = s.mem ∧ t.poison = s.poison ∧ t.harts = s.harts ∧
      ∃ e rest, (t.die (placeOf u).1).log = e :: rest ∧ e.kind = 9 ∧ e.result = 1) ∧
    (∀ row, (∃ e ∈ s.tests, e.1 = .sramRow row ∧ e.2.2 = true) → fget 0 s.rowSpares (bankOfRow row) < 4 →
      ∃ t, exec (.selfTestResult (.sramRow row) false) s = .next t ∧
        fget 0 t.rowSpares (bankOfRow row) = fget 0 s.rowSpares (bankOfRow row) + 1 ∧ t.mem = s.mem ∧ t.poison = s.poison) ∧
    ∀ h, let u := s.actAs h
      (u.me.sup = none → u.me.supNext = [] → exec (.supervisorCause h) s = .next s) ∧
      (∀ k, u.me.sup = some k → k.cause = 15 → u.me.supNext = [] → (∀ w, u.me.window = some w → w.2 ≤ 1) →
        ∃ t, exec (.supervisorCause h) s = .next t ∧ t.hart h = { s.hart h with sup := none } ∧
          (∀ x, x ≠ h → t.hart x = s.hart x) ∧ ∀ a, t.byte a = s.byte a) ∧
      (∀ k n rest, u.me.sup = some k → k.cause = 15 → u.me.supNext = n :: rest → (∀ w, u.me.window = some w → w.2 ≤ 1) →
        ∃ t, exec (.supervisorCause h) s = .next t ∧
          t.hart h = { s.hart h with sup := some { n with epc := (s.hart h).pc.setWidth 48 }, supNext := rest }) ∧
      (∀ k, u.me.sup = some k → k.cause = 10 → u.me.supNext = [] →
        (s.flaws = [] → (u.cleanCopy k.source).2 = none → u.me.csr.etvec ≠ 0 → u.me.handler = false →
          ∃ t, exec (.supervisorCause h) s = .next t ∧ AtHart s t h fun _ w =>
            w.me.sup = none ∧ w.me.handler = true ∧ w.me.pc = (s.hart h).csr.etvec.signExtend 64 ∧
            w.me.csr.ecause = 10 ∧ w.me.csr.eval = k.eval ∧ w.me.csr.vri = k.vri ∧
            w.me.csr.epc = (s.hart h).pc.setWidth 48 &&& ~~~3#48 ∧ w.me.x = (s.hart h).x ∧ ∀ a, w.byte a = s.byte a) ∧
        (∀ img key, s.flaws = [] → (u.cleanCopy k.source).2 = some (img, key) → s.poisonedAt img 32 = none ∧
          ∃ t, exec (.supervisorCause h) s = .next t ∧ AtHart s t h fun u w =>
            w.me.sup = none ∧ w.me.handler = false ∧ w.me.pc = u.me.pc ∧ w.me.x = u.me.x ∧ w.me.csr.vri = k.vri ∧
            (∀ i, i < 32 → w.byte (key + i) = u.byte (img + i)) ∧
            ∀ a, a < key ∨ key + 32 ≤ a → w.byte a = u.byte a)) ∧
      (∀ k, u.me.sup = some k → k.cause.toNat ≠ 10 → k.cause.toNat ≠ 14 → k.cause.toNat ≠ 15 → u.myCtx.st = .resident →
        h ∈ u.myCtx.hartList →
        ∃ t r, exec (.supervisorCause h) s = .next t ∧ (t.ctx u.myCtxId).st = .idle ∧ (t.ctx u.myCtxId).terminated = true ∧
          (t.ctx u.myCtxId).failSeq = BitVec.ofNat 32 s.hub.seq ∧ (t.hart h).life = .off ∧
          t.hub.resps = s.hub.resps ++ [r] ∧ r.status = 6 ∧ r.op = 1 ∧ r.tag = u.myCtx.tag ∧ r.detail = s.hub.seq)

/-- Power states, HIPRESS and the permitted set, budgets, throttling (R313 to R315, R346), in mW and tenths of a degree. -/
def Obligations.DiePower : Prop :=
  ∀ (s : State) (die : Nat),
    let d := s.die die
    let rest := fun (t : State) => { t with dies := s.dies } = s ∧ ∀ k, k ≠ die → t.die k = s.die k
    (∀ mw tj ph pl, ∃ t, exec (.powerStateUpdate die mw tj ph pl) s = .next t ∧ rest t ∧
      let n := t.die die
      let live := s.livePresses die
      let hot := ph.getD 11000
      let cool := pl.getD 3000
      (n.power = .critical ↔ d.budget < mw ∨ 1050 ≤ tj) ∧
      (n.power = .normal ↔ 10 * mw < 9 * d.budget ∧ tj < 950) ∧
      (n.power = .normal ∨ hot ≤ cool → n.hipress = live.length) ∧
      (n.power ≠ .normal → cool < hot → (n.hipress : Int) = min (live.length : Int) (max 1
        (((if n.power = .critical then 80 else 90) * (d.budget : Int) - 100 * live.length * cool) / (100 * ((hot : Int) - cool))))) ∧
      (n.power ≠ .normal → n.permitted.length = n.hipress ∧ (∀ p ∈ n.permitted, p ∈ live ∧ ∀ q ∈ live, q ∉ n.permitted →
        s.pressWear p < s.pressWear q ∨ s.pressWear p = s.pressWear q ∧ p % 32 < q % 32))) ∧
    (∀ other, ∃ t, exec (.powerBudgetUpdate other) s = .next t ∧ { t with dies := s.dies } = s ∧
      ∀ k, k < 4 → t.die k = { s.die k with budget := (s.hub.plim * 1000 - other) / 4 }) ∧
    (d.power = .critical → 10 < d.criticalMs → ∃ t, exec (.criticalThrottle die) s = .next t ∧ rest t ∧
      t.die die = { d with throttle := d.throttle + 1 }) ∧
    (d.power ≠ .critical ∨ d.criticalMs ≤ 10 → exec (.criticalThrottle die) s = .next s) ∧
    (d.power = .critical → 100 ≤ d.criticalMs → d.stopped = false → ∃ t, exec (.criticalStop die) s = .next t ∧
      (t.die die).stopped = true ∧ t.hub.events.length = s.hub.events.length + 1 ∧ (t.die 4).logged = (s.die 4).logged + 1 ∧
      (die ≠ 4 → (t.die die).logged = d.logged) ∧ (∀ k, k ≠ die → k ≠ 4 → t.die k = s.die k) ∧ ∀ a, t.byte a = s.byte a) ∧
    (d.power ≠ .critical ∨ d.criticalMs < 100 → exec (.criticalStop die) s = .next s)

/-- Wear, its record, clocks, a press reset and the repair point (R317, R340 to R345, R347, R348). W counts 2^-32 wear unit, and the
remainders of a core's wear and of each context's charge are kept whole in units of 2^-96 wear unit over 3600000, and over 1800000 clocks
more for a charge. The precision of the rate (log entry 29; exact where its exponent is whole, as here), the lowest spare, the record's
layout and the shares by the tenure of a press (log entry 54), and a scratchpad that reads 0 after a press reset (log entry 1) are the
model's choices. -/
def Obligations.WearAndRepair : Prop :=
  ∀ (s : State) (press : Nat),
    (s.hub.power = .off → (∀ pc m, exec (.wearUpdate pc m) s = .next s) ∧ exec .wearRecordWrite s = .next s ∧
      exec (.repairPoint press) s = .next s) ∧
    (∀ pc m, s.hub.power ≠ .off → (m.tj - 850 + 4 * m.dv) % 100 = 0 → 0 ≤ m.tj - 850 + 4 * m.dv →
      let w := s.wearOf pc
      let inc := m.act * 2 ^ 96 * 2 ^ ((m.tj - 850 + 4 * m.dv) / 100).toNat / m.of
      ∃ t, exec (.wearUpdate pc m) s = .next t ∧ (t.wearOf pc).w = w.w + (w.frac + inc) / (2 ^ 64 * 3600000) ∧
        (t.wearOf pc).frac = (w.frac + inc) % (2 ^ 64 * 3600000) ∧
        ((t.wearOf pc).life.rank = max w.life.rank (rankFor (t.wearOf pc).w m)) ∧ (∀ k, k ≠ pc → t.wearOf k = s.wearOf k) ∧
        (∀ a, t.byte a = s.byte a) ∧ (s.sharesOf pc = [] → ∀ k, t.ctx k = s.ctx k) ∧
        ∀ c t0, s.tenureOf (pc / 136) (pc % 136 / 4) = [(t0, some c)] → t0 + 1800000 ≤ s.clk →
          let unit := 2 ^ 64 * 3600000 * 1800000
          (t.ctx c).wear = (s.ctx c).wear + BitVec.ofNat 64 ((fget 0 w.charge c + inc * 1800000) / unit) ∧
            fget 0 (t.wearOf pc).charge c = (fget 0 w.charge c + inc * 1800000) % unit) ∧
    (s.hub.power ≠ .off → ∃ t, exec .wearRecordWrite s = .next t ∧ NewCopy s t.hub.wearCopy ∧ { t with hub := s.hub } = s ∧
      t.hub.wearTurn = (!s.hub.wearTurn) ∧
      if s.hub.wearTurn then t.hub.wearCopy0 = s.hub.wearCopy0 else t.hub.wearCopy1 = s.hub.wearCopy1) ∧
    ((s.press press).stallClock = true → ∃ t, exec (.clockChange press) s = .next t ∧
      t.press press = { s.press press with mhz := slowest s press, stallClock := false } ∧
      (∀ j, j < 4 → t.cycle (coreOfPress press + j) = s.cycle (coreOfPress press + j)) ∧
      (∀ p, p ≠ press → t.press p = s.press p) ∧ t.harts = s.harts ∧ ∀ a, t.byte a = s.byte a) ∧
    ((s.press press).stallClock = false → exec (.clockChange press) s = .next s) ∧
    ((s.press press).resident.isSome = true → exec (.repairPoint press) s = .next s ∧ exec (.pressReset press) s = .next s) ∧
    (s.hub.power ≠ .off → (s.press press).enabled = true → (s.press press).resident = none → (s.press press).repair = true →
      (∀ q rest, (s.die (press / 32)).spares = q :: rest → ∃ t, exec (.repairPoint press) s = .next t ∧
        (t.press press).phys = q ∧ (t.press press).enabled = true ∧ (t.press press).repair = false ∧
        (t.die (press / 32)).spares = rest ∧ (t.press press).tenure = [(s.clk, none)] ∧
        (t.press press).former = ((s.press press).phys, (s.press press).tenure) :: (s.press press).former ∧
        ∀ j, j < 4 → (t.wearOf (press / 32 * 136 + q * 4 + j)).life = .nominal) ∧
      ((s.die (press / 32)).spares = [] → ∃ t, exec (.repairPoint press) s = .next t ∧ (t.press press).enabled = false ∧
        ∀ c, c < 64 → (t.ctx c).missing = ((s.ctx c).missing || (s.ctx c).cfg.presses.contains press))) ∧
    ((s.press press).resident = none → ∃ t, exec (.pressReset press) s = .next t ∧
      (∀ h, h / 32 = press → t.hart h = Hart.reset) ∧ (∀ h, h / 32 ≠ press → t.hart h = s.hart h) ∧
      (∀ j off, j < 4 → off < 2 ^ 20 → t.byte (2 ^ 56 + (coreOfPress press + j) * 2 ^ 20 + off) = 0) ∧ t.wear = s.wear ∧
      t.hub.mlog = s.hub.mlog ++ [1, 2, 3, 4, 5, 6, 7, 8].map fun i => (i, t.measurement i))

/-- Commands that halt, resume, step and stop harts (R372, R374, R376, R377), and writes of the debug registers (R372). -/
def Sys2Proof.Claims.DebugCommands : Prop :=
  ∀ (s : State) (core : Nat), s.hub.debugUnlocked = true →
    (∀ mask, ∃ t, exec (.dcmdHalt core mask) s = .next t ∧ { t with harts := s.harts } = s ∧ ∀ h, t.hart h =
      if h / 8 = core ∧ mask.getLsbD (h % 8) = true then haltedBy 3 (s.hart h) else s.hart h) ∧
    (∀ mask, ∃ t, exec (.dcmdHaltRole core mask) s = .next t ∧ { t with harts := s.harts } = s ∧ ∀ h, t.hart h =
      if h / 8 = core ∧ mask.getLsbD (s.hart h).csr.role.toNat = true then haltedBy 3 (s.hart h) else s.hart h) ∧
    (∀ mask, ∃ t, exec (.dcmdResume core mask) s = .next t ∧ { t with harts := s.harts } = s ∧
      let resumed := fun (h : Nat) =>
        if h / 8 = core ∧ mask.getLsbD (h % 8) = true ∧ (s.hart h).csr.halt = true then
          { s.hart h with csr := { (s.hart h).csr with halt := false, stop := 0 } } else s.hart h
      (∀ h, (t.hart h).csr = (resumed h).csr ∧ (t.hart h).pc = (s.hart h).pc ∧ (t.hart h).x = (s.hart h).x) ∧
      ((∀ j, j < 8 → ¬ Asks (s.hart (core * 8 + j))) → ∀ h, t.hart h = resumed h)) ∧
    (∀ mask j, j < 8 → (∀ i, i < 8 → (mask.getLsbD i = true ↔ i = j)) → (s.hart (core * 8 + j)).csr.halt = true →
      ∃ t, exec (.dcmdStep core mask) s = .next t ∧ (t.hart (core * 8 + j)).stepping = true ∧
        (t.hart (core * 8 + j)).csr = { (s.hart (core * 8 + j)).csr with halt := false, stop := 0 } ∧
        ((∀ i, i < 8 → ¬ Asks (s.hart (core * 8 + i))) → ∀ h, h ≠ core * 8 + j → t.hart h = s.hart h)) ∧
    (∀ mask, (∀ j, j < 8 → (∀ i, i < 8 → (mask.getLsbD i = true ↔ i = j)) → (s.hart (core * 8 + j)).csr.halt = false) →
      ∃ t, exec (.dcmdStep core mask) s = .next t ∧ (t.core core).cmderr = true ∧ t.harts = s.harts) ∧
    (∃ t, exec (.dcmdStopPress core) s = .next t ∧ ∀ h, t.hart h =
      if pressOfHart h = pressOfCore core ∧ (s.press (pressOfHart h)).resident ≠ none then stopping (s.hart h) 3
      else s.hart h) ∧
    (∃ t, exec (.dcmdStopDie core) s = .next t ∧ ∀ h, t.hart h =
      if pressOfHart h / 32 = pressOfCore core / 32 ∧ (s.press (pressOfCore core)).resident ≠ none ∧
        (s.press (pressOfHart h)).resident = (s.press (pressOfCore core)).resident then stopping (s.hart h) 3
      else s.hart h) ∧
    ∀ die pp j, s.debugCore die pp j = some core →
      (∀ v, ∃ t, exec (.registerWrite (.dbg die pp j 0) .write v) s = .next t ∧
        (t.core core).brken = v.getLsbD 8 ∧ (t.core core).frzeng = v.getLsbD 5 ∧
        (t.core core).bscope = (if v.extractLsb 7 6 = 3 then (s.core core).bscope else v.extractLsb 7 6) ∧
        t.harts = s.harts) ∧
      ∀ n off v, n < 8 →
        let wp := fun (u : State) => fget WatchPoint.reset (u.core core).wps n
        (off.toNat = 0x40 + 16 * n → ∃ t, exec (.registerWrite (.dbg die pp j off) .write v) s = .next t ∧
          wp t = { wp s with word := v.extractLsb 19 5 } ∧ t.harts = s.harts) ∧
        (off.toNat = 0x48 + 16 * n → ∃ t, exec (.registerWrite (.dbg die pp j off) .write v) s = .next t ∧
          wp t = { wp s with
            bytes := v.extractLsb 39 8, scope := v.getLsbD 4, mtch := v.extractLsb 3 2,
            act := if v.extractLsb 1 0 = 3 then (wp s).act else v.extractLsb 1 0 } ∧ t.harts = s.harts)

/-- A stop or a held-back halt command arrives (R374): while the hart's issued instruction is still to complete it changes nothing;
else it halts a hart that runs and is not halted, a command without a change of DSKID, a stop with the oldest one's source and skid; the
stops that have arrived are gone. (Log entry 16, the model's reading: which of them halts the hart, and that a stop which finds the
hart halted has no effect.) -/
def Sys2Proof.Claims.StopsArrive : Prop :=
  ∀ (s : State) (h : Nat),
    let H := s.hart h
    (inEngine H = true → exec (.stopHalt h) s = .next s) ∧
    (inEngine H = false → ∃ t, exec (.stopHalt h) s = .next t ∧
      (t.hart h).stopPend = H.stopPend.filter (fun p => decide (p.clk < 6)) ∧ (t.hart h).haltPend = false ∧
      (t.hart h).pc = H.pc ∧ (t.hart h).x = H.x ∧ (t.hart h).wait = H.wait ∧ (∀ k, k ≠ h → t.hart k = s.hart k) ∧
      (H.life = .running ∧ H.csr.halt = false →
        (H.haltPend = true → (t.hart h).csr = { H.csr with halt := true, stop := 3 }) ∧
        (∀ p, H.haltPend = false → (H.stopPend.find? fun p => decide (6 ≤ p.clk)) = some p →
          (t.hart h).csr = { H.csr with halt := true, stop := p.source, dskid := BitVec.ofNat 16 p.skid }) ∧
        (H.haltPend = false → (∀ p ∈ H.stopPend, p.clk < 6) → (t.hart h).csr = H.csr)) ∧
      (¬ (H.life = .running ∧ H.csr.halt = false) → (t.hart h).csr = H.csr))

/-- A single step is over (R377): its instruction has retired or trapped, or is parked, and the hart is not on its way out of its task
(log entry 16, the model's reading of which waits end no step; log entry 82: STOP 4 after a stepped `brk` or `halt` too). -/
def Sys2Proof.Claims.StepsEnd : Prop :=
  ∀ (s : State) (h : Nat), (s.hart h).stepping = true → (s.hart h).sup = none →
    (inEngine (s.hart h) = true ∨ (∃ e, (s.hart h).wait = .leave e) → exec (.stepHalt h) s = .next s) ∧
    (inEngine (s.hart h) = false → (∀ e, (s.hart h).wait ≠ .leave e) → (s.hart h).life = .running →
      (s.hart h).stepDone = true ∨ (s.hart h).wait ≠ .none →
      ∃ t, exec (.stepHalt h) s = .next t ∧ (t.hart h).csr = { (s.hart h).csr with halt := true, stop := 4 } ∧
        (t.hart h).stepping = false ∧ (t.hart h).pc = (s.hart h).pc ∧ ∀ k, k ≠ h → t.hart k = s.hart k)

/-- Watchpoints on scalar loads and stores of a scratchpad, debug unlocked (R373): WPHIT, stop triggers, and, where a watchpoint with
ACT 2 matches, cause 12 with the first such byte's address in EVAL and the access not performed. -/
def Sys2Proof.Claims.Watchpoints : Prop :=
  ∀ (i : Instr) (s : State) (r : XReg) (va : Word64) (ty : ElemTy) (n key : Nat) (write : Bool), i.wf = true →
    (write = false ∧ loadOf i s = some (r, va, ty) ∧ n = bytesOf ty) ∨ (write = true ∧ storeOf i s = some (r, va, n)) →
    s.hub.debugUnlocked = true → s.flaws = [] → s.me.flit = false → va.toNat % n = 0 → 2 ^ 56 ≤ key → key < 2 ^ 57 →
    s.resolveMe va.toNat (if write then .store else .load) = .ok key → ¬ BeyondSpad s key n → s.poisonedAt key n = none →
    let refused := fun (a : Nat) => ∃ j w, Hits s key n write j w a ∧ w.act = 2
    ∃ u t, exec i s = .next t ∧ Marked s u key n write ∧
      ((∀ a, ¬ refused a) → (∀ x, x ≠ r ∨ write = true → t.x x = s.x x) ∧
        (write = false → WritesX u t r (inX ty (leValue s key n)) 0) ∧
        (write = true → Stored u t key (leOf n (s.x r).toNat) ∧ Next u t 0)) ∧
      ∀ a, refused a → (∀ b, b < a → ¬ refused b) →
        Trapped u t 12 (va + ofZ (a - key)) u.me.csr.vri ∧ ∀ b, t.byte b = s.byte b

/-- Unlocking debug is measured; it is refused while an interface is locked or runs (R360, R371). -/
def Sys2Proof.Claims.Unlocking : Prop :=
  ∀ (s : State),
    ((∀ v, v < 16 → (s.vf v).tdisp = .unlocked ∨ (s.vf v).tdisp = .error) →
      ∃ t, exec .debugUnlock s = .next t ∧
        t = { s with hub := { s.hub with debugUnlocked := true, mlog := s.hub.mlog ++ [(7, t.measurement 7)] } }) ∧
    ∀ v, v < 16 → (s.vf v).tdisp = .locked ∨ (s.vf v).tdisp = .run → exec .debugUnlock s = .next s

/-- The debug unit (R371 to R377): while debug is locked its commands and registers do nothing; unlocked, its commands, its registers,
stops, steps and watchpoints. What a halt command does to an instruction under way and to stops on their way, and which waits end no
step, is log entry 16, the model's reading. -/
def Obligations.DebugUnit : Prop :=
  (∀ (s : State) (i : Instr), s.hub.debugUnlocked = false → DebugWrite i → exec i s = .next s) ∧
    Claims.DebugCommands ∧ Claims.StopsArrive ∧ Claims.StepsEnd ∧ Claims.Watchpoints ∧ Claims.Unlocking

/-- Resets of the device, loss of its supply, the boot (R341, R347, R348, R361 to R363). What a warm reset keeps beyond R348's list, and
that it does nothing in Off, is the model's reading (log entry 40); so is the index that a new identity key restarts (log entry 73);
memory that reads 0 after a cold reset is log entry 1. -/
def Obligations.DeviceResets : Prop :=
  ∀ (s : State),
    (∃ t, exec .coldReset s = .next t ∧ t.hub.power = .reset ∧ AllReset s t ∧ (∀ a, t.byte a = 0) ∧ NewCopy s t.hub.wearCopy ∧
      (∀ k, k < 5 → (t.die k).counters = [] ∧ (t.die k).log = []) ∧ t.hub.xmss = max s.hub.flash0 s.hub.flash1) ∧
    (s.hub.power = .off → exec .warmReset s = .next s) ∧
    (s.hub.power ≠ .off → ∃ t, exec .warmReset s = .next t ∧ t.hub.power = .reset ∧ AllReset s t ∧ t.links = s.links ∧ NewCopy s t.hub.wearCopy ∧
      t.wear = s.wear ∧ (∀ a, a < 2 ^ 56 → t.byte a = s.byte a) ∧ t.hub.assigns = s.hub.assigns ∧ t.hub.mlog = s.hub.mlog ∧
      ∀ k, (t.die k).log = (s.die k).log ∧ (t.die k).counters = (s.die k).counters) ∧
    (∃ t, exec (.powerLoss false) s = .next t ∧ t.hub.power = .off ∧ AllReset s t ∧ (∀ a, t.byte a = 0) ∧
      t.hub.xmss = max s.hub.flash0 s.hub.flash1) ∧
    (∃ t, exec (.powerLoss true) s = .next t ∧ t.hub.power = .off ∧ AllReset s t ∧ s.hub.xmss + 1 ≤ t.hub.xmss) ∧
    (s.hub.power ≠ .reset → exec .resetComplete s = .next s) ∧
    (s.hub.power = .reset → ∃ t, exec .resetComplete s = .next t ∧ { t with hub := s.hub } = s ∧ t.hub.power = .standby ∧
      let ok := fun (f : Slot) => Bootable f s.hub.fwMin
      (ok s.hub.fw0 ∨ ok s.hub.fw1 → ok t.hub.slot) ∧
      (ok s.hub.fw0 → ok s.hub.fw1 → Z s.hub.fw0.version ≤ Z t.hub.slot.version ∧ Z s.hub.fw1.version ≤ Z t.hub.slot.version) ∧
      t.hub.mlog = s.hub.mlog ++ [1, 2, 3, 4, 5, 6, 7, 8].map (fun i => (i, t.measurement i)) ∧
      t.hub.cxl0 = s.hub.cxlPop0 ∧ t.hub.cxl1 = s.hub.cxlPop1 ∧
      ∀ k, Config.imageKey t.hub.slot.image = some k → k ≠ s.hub.identity → t.hub.identity = k ∧ t.hub.xmss = 0)

/-! Rounding. -/

/-- What the bits of an operand stand for (R29 to R31, R35). -/
def Sys2Proof.Claims.Operands : Prop :=
  ∀ (t : ElemTy) (mb eb b : Nat), format t = some (mb, eb) → b < 2 ^ (mb + eb + 1) →
    let neg := decide (2 ^ (mb + eb) ≤ b)
    let e := b / 2 ^ mb % 2 ^ eb
    (e ≠ 2 ^ eb - 1 → ∃ m k, numOf t b = .fin neg m k ∧ real neg m k = patternValue mb eb b) ∧
    (e = 2 ^ eb - 1 → numOf t b = if b % 2 ^ mb = 0 then .inf neg else .nan (decide (b % 2 ^ mb < 2 ^ (mb - 1)))) ∧
    numIn false t b = numOf t b ∧ (e ≠ 0 → numIn true t b = numOf t b) ∧
    (e = 0 → numIn true t b = numOf t (zeroOf mb eb neg))

/-- The results of the arithmetic on finite operands: exact, then `Round` once (R33, R34, R75, R109). -/
def Sys2Proof.Claims.FiniteResults : Prop :=
  ∀ (t : ElemTy) (mb eb : Nat) (mode : Rm) (ftz : Bool) (n1 n2 n3 : Bool) (m1 m2 m3 : Nat) (e1 e2 e3 : Int),
    format t = some (mb, eb) →
    let a : Machine.Num := .fin n1 m1 e1
    let b : Machine.Num := .fin n2 m2 e2
    let x1 := real n1 m1 e1
    let x2 := real n2 m2 e2
    let minus := n1 != n2
    (m1 ≠ 0 → Rounds mode ftz mb eb x1 (roundNum mode ftz t a)) ∧
    (m1 = 0 → roundNum mode ftz t a = (zeroOf mb eb n1, 0)) ∧
    Sums mode ftz mb eb n1 x1 n2 x2 (fpAdd mode ftz t a b) ∧
    Sums mode ftz mb eb n1 x1 (!n2) (-x2) (fpSub mode ftz t a b) ∧
    (m1 * m2 ≠ 0 → Rounds mode ftz mb eb (x1 * x2) (fpMul mode ftz t a b)) ∧
    (m1 * m2 = 0 → fpMul mode ftz t a b = (zeroOf mb eb minus, 0)) ∧
    Sums mode ftz mb eb minus (x1 * x2) n3 (real n3 m3 e3) (fpFma mode ftz t a b (.fin n3 m3 e3)) ∧
    (m1 ≠ 0 → m2 ≠ 0 → Rounds mode ftz mb eb (x1 / x2) (fpDiv mode ftz t a b)) ∧
    (m1 = 0 → m2 ≠ 0 → fpDiv mode ftz t a b = (zeroOf mb eb minus, 0)) ∧
    (m1 ≠ 0 → m2 = 0 → fpDiv mode ftz t a b = (infOf mb eb minus, 0b1000)) ∧
    (m1 = 0 → m2 = 0 → fpDiv mode ftz t a b = (canonOf mb eb, 0b10000)) ∧
    (m1 ≠ 0 → n1 = false → Rounds mode ftz mb eb (Real.sqrt x1) (fpSqrt mode ftz t a) ∧
      Rounds mode ftz mb eb (1 / Real.sqrt x1) (fpRsqrt mode ftz t a)) ∧
    (m1 ≠ 0 → n1 = true → fpSqrt mode ftz t a = (canonOf mb eb, 0b10000)) ∧
    (m1 = 0 → fpSqrt mode ftz t a = (zeroOf mb eb n1, 0))

/-- NaN operands give the canonical NaN, and NV where one signals; infinities (R31, R33, R34, R75). -/
def Sys2Proof.Claims.SpecialResults : Prop :=
  ∀ (t : ElemTy) (mb eb : Nat) (mode : Rm) (ftz : Bool) (a b c : Machine.Num) (n1 n2 n3 : Bool) (m : Nat) (e : Int),
    format t = some (mb, eb) →
    let nan := fun (l : List Machine.Num) => ∃ s, Machine.Num.nan s ∈ l
    let quietly := fun (l : List Machine.Num) (r : FpRes) => r.1 = canonOf mb eb ∧
      (Machine.Num.nan true ∈ l → r.2 = 0b10000) ∧ (Machine.Num.nan true ∉ l → r.2 = 0)
    let invalid : FpRes := (canonOf mb eb, 0b10000)
    let x : Machine.Num := .fin n2 m e
    (nan [a, b] → quietly [a, b] (fpAdd mode ftz t a b) ∧ quietly [a, b] (fpSub mode ftz t a b) ∧
      quietly [a, b] (fpMul mode ftz t a b) ∧ quietly [a, b] (fpDiv mode ftz t a b)) ∧
    (nan [a, b] → quietly [a, b, c] (fpFma mode ftz t a b c)) ∧
    (nan [a] → quietly [a] (fpSqrt mode ftz t a) ∧ quietly [a] (roundNum mode ftz t a)) ∧
    (fpAdd mode ftz t (.inf n1) (.inf n2) = if n1 = n2 then (infOf mb eb n1, 0) else invalid) ∧
    fpAdd mode ftz t (.inf n1) x = (infOf mb eb n1, 0) ∧ fpAdd mode ftz t x (.inf n1) = (infOf mb eb n1, 0) ∧
    fpMul mode ftz t (.inf n1) (.inf n2) = (infOf mb eb (n1 != n2), 0) ∧
    (fpMul mode ftz t (.inf n1) x = if m = 0 then invalid else (infOf mb eb (n1 != n2), 0)) ∧
    (fpMul mode ftz t x (.inf n1) = if m = 0 then invalid else (infOf mb eb (n1 != n2), 0)) ∧
    (m = 0 → fpFma mode ftz t (.inf n1) x c = invalid) ∧
    (fpFma mode ftz t (.inf n1) (.inf n2) (.inf n3) = if (n1 != n2) = n3 then (infOf mb eb n3, 0) else invalid) ∧
    fpDiv mode ftz t (.inf n1) (.inf n2) = invalid ∧ fpDiv mode ftz t (.inf n1) x = (infOf mb eb (n1 != n2), 0) ∧
    fpDiv mode ftz t x (.inf n1) = (zeroOf mb eb (n1 != n2), 0) ∧
    fpSqrt mode ftz t (.inf false) = (infOf mb eb false, 0) ∧ fpSqrt mode ftz t (.inf true) = invalid ∧
    roundNum mode ftz t (.inf n1) = (infOf mb eb n1, 0)

/-- Conversions (R27, R28, R36). -/
def Sys2Proof.Claims.Conversions : Prop :=
  ∀ (mode : Rm) (ftz : Bool) (t src k : ElemTy) (mb eb b : Nat), format t = some (mb, eb) → format src ≠ none →
    k.isInt = true →
    let int := fun (i : Int) => zBits k i
    (match numIn ftz src b with
      | .nan _ => convert mode ftz k src b = (0, 0b10000)
      | .inf neg => convert mode ftz k src b = (int (saturate k (if neg then -(2 ^ 64) else 2 ^ 64)), 0b10000)
      | .fin neg m e => ∃ i : ℤ, Rounded (fun z => ∃ j : ℤ, z = j) mode (real neg m e) i ∧
          (saturate k i ≠ i → convert mode ftz k src b = (int (saturate k i), 0b10000)) ∧
          (saturate k i = i → (i : ℝ) ≠ real neg m e → convert mode ftz k src b = (int i, 1)) ∧
          (saturate k i = i → (i : ℝ) = real neg m e → convert mode ftz k src b = (int i, 0))) ∧
    convert mode ftz t src b = roundNum mode ftz t (numIn ftz src b) ∧
    (intVal k b ≠ 0 → Rounds mode ftz mb eb (intVal k b : ℝ) (convert mode ftz t k b)) ∧
    (intVal k b = 0 → convert mode ftz t k b = (0, 0)) ∧
    (∀ j : ElemTy, j.isInt = true → convert mode ftz j k b = (zBits j (saturate j (intVal k b)), 0)) ∧
    (b % 4 = 2 → convert mode ftz k .t2 b = (0, 0b100000) ∧ convert mode ftz t .t2 b = (0, 0b100000)) ∧
    (b % 4 = 0 → convert mode ftz k .t2 b = (0, 0) ∧ convert mode ftz t .t2 b = (0, 0)) ∧
    (b % 4 = 1 → convert mode ftz k .t2 b = (1, 0) ∧ Rounds mode ftz mb eb 1 (convert mode ftz t .t2 b)) ∧
    (b % 4 = 3 → (saturate k (-1) = -1 → convert mode ftz k .t2 b = (int (-1), 0)) ∧
      Rounds mode ftz mb eb (-1) (convert mode ftz t .t2 b))

/-- What floating-point operands stand for and what `Round`, the arithmetic and the conversions give of them (R27 to R36). -/
def Obligations.Rounding : Prop :=
  Claims.Operands ∧ Claims.FiniteResults ∧ Claims.SpecialResults ∧ Claims.Conversions

/-! The machine as a whole. -/

/-- A step of a hart whose words at its PC decode runs the decoded instruction, unless its loop flags skip it (R55, R88) or it
goes beyond its kernel header (R200): the clock notes what has issued and in which turn, and the debug unit's account of the step
is added by `finish` (R66, R211, R392). What has to come before it in this clock does; what this clock cannot take any more
waits for the next. -/
def Obligations.StepRunsDecoded : Prop :=
  ∀ (s : State) (h : Nat) (rest : List Action) (w : Word32) (more : List Word32) (key : Nat → Nat) (d : Decoded),
    s.agenda = .hart h :: rest →
    let b := { s with agenda := rest }
    let u := b.turnTo h
    b.ready h = true → u.me.wait = .none → u.me.flit = false → b.flaws = [] → u.me.pc.toNat % 4 = 0 → moreWords w = more.length →
    (∀ j, j ≤ more.length → u.resolveMe (u.me.pc + ofZ (4 * j)).toNat .fetch = .ok (key j) ∧ u.poisonedAt (key j) 4 = none ∧
      leValue u (key j) 4 = ((w :: more).getD j 0).toNat) →
    decodeWords (w :: more) = .ok d → u.notT1 (W0.ofWord w) = false →
    let a := u.atWord w d.size
    let runs := a.me.runs d.first d.last
    (runs = true → a.overrun d.instr = none →
      (∀ j, a.before d.instr = some j → step s = finish s (exec j (s.takeTurn j))) ∧
      (a.before d.instr = none → a.mayIssue (some d.instr) = true → a.turnNow d.instr = true →
        step s = finish b (exec d.instr ((a.noteIssue (Machine.Instr.isTrap d.instr)).takeTurn d.instr))) ∧
      (a.before d.instr = none → a.mayIssue (some d.instr) = false ∨ a.turnNow d.instr = false → step s = .next (s.pass 1))) ∧
    (runs = false → a.retire.mayIssue none = true → step s = finish b (.next (a.retire.noteIssue true))) ∧
    (∀ v, runs = true → a.overrun d.instr = some v → (∀ k ∈ s.issued, k.hart / 8 ≠ h / 8) →
      ∃ t, step s = finish b (.next (t.noteIssue true)) ∧ Trapped a.bumpFree t 2 v (if vectorMajor w then 0 else a.me.csr.vri))

/-- The state after reset (R12 to R21, R247, R299, R347, R364). That every press is enabled is the model's choice of product (log entry
6), and memory that reads 0 is its choice too (log entry 1). -/
def Obligations.ResetState : Prop :=
  let s := State.reset
  s.hub.power = .standby ∧ Memory.wf s = true ∧ (∀ a, s.byte a = 0) ∧ (∀ h, (s.hart h).life = .off ∧ (s.hart h).csr.etvec = 0 ∧
    (s.hart h).csr.vpolTd = true ∧ (s.hart h).csr.vpolPm = false ∧ (s.hart h).csr.vl = 0 ∧ (s.hart h).csr.halt = false ∧
    (s.hart h).handler = false ∧ (s.hart h).grant = 0) ∧
    (∀ c, (s.ctx c).st = .free) ∧ (∀ v, (s.vf v).tdisp = .unlocked) ∧ (∀ p, p < 128 → (s.press p).enabled = true ∧ (s.press p).resident = none) ∧
    s.hub.debugUnlocked = false ∧ ∀ c, (s.core c).brken = false ∧ (s.core c).frzeng = false

/-- Every instruction and every event completes in every state: none faults, none is refused. -/
def Obligations.EveryInstructionCompletes : Prop :=
  ∀ (i : Instr) (s : State), ∃ t, exec i s = .next t

/-- Memory keeps its canonical form in every step. -/
def Obligations.MemoryInvariant : Prop :=
  ∀ (s t : State), Memory.wf s = true → step s = .next t → Memory.wf t = true
end

