-- ==== Sys2Proof/Laws/Sparse.lean ====
section
/-!
SUPPORT. Sparse arrays: what a lookup gives after a write, an erasure or a filter, and that every operation keeps the
canonical form.
-/
namespace Sys2Proof.Machine

variable {α : Type}

@[simp] theorem fget_nil (d : α) (k : Nat) : fget d [] k = d := rfl

theorem fget_cons (d : α) (j : Nat) (v : α) (t : FMap α) (k : Nat) :
    fget d ((j, v) :: t) k = if j = k then v else fget d t k := rfl

theorem fget_ferase (d : α) (m : FMap α) (k i : Nat) :
    fget d (ferase m k) i = if i = k then d else fget d m i := by
  induction m with
  | nil => simp [ferase]
  | cons e t ih =>
    obtain ⟨j, v⟩ := e
    by_cases hjk : j = k
    · simp only [ferase, hjk, if_pos, ih, fget_cons]
      by_cases hik : i = k
      · simp [hik]
      · simp [hik, Ne.symm hik]
    · simp only [ferase, if_neg hjk, fget_cons, ih]
      by_cases hji : j = i
      · subst hji; simp [hjk]
      · simp [hji]

/-- A read after a write gives the value written there, and what was there elsewhere. -/
theorem fget_fset [DecidableEq α] (d : α) (m : FMap α) (k : Nat) (v : α) (i : Nat) :
    fget d (fset d m k v) i = if i = k then v else fget d m i := by
  induction m with
  | nil =>
    by_cases hv : v = d
    · simp [fset, hv]
    · simp only [fset, if_neg hv, fget_cons, fget_nil]
      by_cases hik : i = k
      · simp [hik]
      · simp [hik, Ne.symm hik]
  | cons e t ih =>
    obtain ⟨j, w⟩ := e
    simp only [fset]
    by_cases hlt : j < k
    · simp only [if_pos hlt, fget_cons, ih]
      by_cases hji : j = i
      · subst hji; simp [Nat.ne_of_lt hlt]
      · simp [hji]
    · rw [if_neg hlt]
      by_cases hv : v = d
      · rw [if_pos hv, fget_ferase, hv]
      · rw [if_neg hv]
        by_cases hjk : j = k
        · subst hjk
          simp only [if_pos, fget_cons, fget_ferase]
          by_cases hji : j = i
          · simp [hji]
          · simp [hji, Ne.symm hji]
        · simp only [if_neg hjk, fget_cons, fget_ferase]
          by_cases hik : i = k
          · simp [hik]
          · simp [hik, Ne.symm hik]

@[simp] theorem fget_fset_same [DecidableEq α] (d : α) (m : FMap α) (k : Nat) (v : α) :
    fget d (fset d m k v) k = v := by simp [fget_fset]

theorem fget_fset_ne [DecidableEq α] (d : α) (m : FMap α) {k i : Nat} (v : α) (h : i ≠ k) :
    fget d (fset d m k v) i = fget d m i := by simp [fget_fset, h]

theorem fget_ferase_ne (d : α) (m : FMap α) {k i : Nat} (h : i ≠ k) : fget d (ferase m k) i = fget d m i := by
  rw [fget_ferase, if_neg h]

/-- A write elsewhere leaves what a read finds, whatever its default. -/
theorem fget_fset_other [DecidableEq α] (d e : α) (m : FMap α) {k i : Nat} (v : α) (h : i ≠ k) :
    fget e (fset d m k v) i = fget e m i := by
  induction m with
  | nil =>
    by_cases hv : v = d
    · simp [fset, hv]
    · simp [fset, hv, fget_cons, Ne.symm h]
  | cons a t ih =>
    obtain ⟨j, w⟩ := a
    rw [fset]
    by_cases hlt : j < k
    · rw [if_pos hlt, fget_cons, fget_cons, ih]
    · rw [if_neg hlt]
      by_cases hv : v = d
      · rw [if_pos hv, fget_ferase_ne e _ h]
      · rw [if_neg hv]
        by_cases hjk : j = k
        · subst hjk
          rw [if_pos rfl, fget_cons, fget_cons, if_neg (Ne.symm h), if_neg (Ne.symm h), fget_ferase_ne e _ h]
        · rw [if_neg hjk, fget_cons, if_neg (Ne.symm h), fget_ferase_ne e _ h]

theorem fget_ffilter (d : α) (p : Nat → Bool) (m : FMap α) (i : Nat) :
    fget d (ffilter p m) i = if p i then fget d m i else d := by
  induction m with
  | nil => simp [ffilter]
  | cons e t ih =>
    obtain ⟨j, v⟩ := e
    simp only [ffilter] at ih ⊢
    by_cases hp : p j
    · rw [List.filter_cons_of_pos (by simpa using hp), fget_cons, fget_cons, ih]
      by_cases hji : j = i
      · subst hji; simp [hp]
      · simp [hji]
    · rw [List.filter_cons_of_neg (by simpa using hp), ih, fget_cons]
      by_cases hji : j = i
      · subst hji; simp [hp]
      · simp [hji]

theorem fget_unlisted (d : α) (m : FMap α) (i : Nat) (h : (m.any fun e => e.1 == i) = false) : fget d m i = d := by
  induction m with
  | nil => rfl
  | cons e t ih =>
    obtain ⟨j, v⟩ := e
    simp only [List.any_cons, Bool.or_eq_false_iff, beq_eq_false_iff_ne] at h
    rw [fget_cons, if_neg h.1]
    exact ih h.2

/-! The canonical form. -/

variable [DecidableEq α]

theorem fwfFrom_cons (d : α) (lo j : Nat) (v : α) (t : FMap α) :
    fwfFrom d lo ((j, v) :: t) = true ↔ lo ≤ j ∧ v ≠ d ∧ fwfFrom d (j + 1) t = true := by
  simp [fwfFrom, and_assoc]

theorem fwfFrom_mono (d : α) {lo lo' : Nat} {m : FMap α} (hlo : lo' ≤ lo) (h : fwfFrom d lo m = true) :
    fwfFrom d lo' m = true := by
  cases m with
  | nil => rfl
  | cons e t =>
    obtain ⟨j, v⟩ := e
    rw [fwfFrom_cons] at h ⊢
    exact ⟨Nat.le_trans hlo h.1, h.2⟩

/-- Below its lower bound a canonical array reads as the default. -/
theorem fget_below (d : α) {lo : Nat} {m : FMap α} (h : fwfFrom d lo m = true) {i : Nat} (hi : i < lo) :
    fget d m i = d := by
  induction m generalizing lo with
  | nil => rfl
  | cons e t ih =>
    obtain ⟨j, v⟩ := e
    rw [fwfFrom_cons] at h
    have hji : j ≠ i := by omega
    rw [fget_cons, if_neg hji]
    exact ih h.2.2 (by omega)

theorem ferase_of_fwfFrom (d : α) {lo : Nat} {m : FMap α} (h : fwfFrom d lo m = true) {k : Nat} (hk : k < lo) :
    ferase m k = m := by
  induction m generalizing lo with
  | nil => rfl
  | cons e t ih =>
    obtain ⟨j, v⟩ := e
    rw [fwfFrom_cons] at h
    have hjk : j ≠ k := by omega
    rw [ferase, if_neg hjk, ih h.2.2 (by omega)]

theorem fwfFrom_ferase (d : α) {lo : Nat} {m : FMap α} (h : fwfFrom d lo m = true) (k : Nat) :
    fwfFrom d lo (ferase m k) = true := by
  induction m generalizing lo with
  | nil => rfl
  | cons e t ih =>
    obtain ⟨j, v⟩ := e
    rw [fwfFrom_cons] at h
    by_cases hjk : j = k
    · rw [ferase, if_pos hjk]
      exact fwfFrom_mono d (by omega) (ih h.2.2)
    · rw [ferase, if_neg hjk, fwfFrom_cons]
      exact ⟨h.1, h.2.1, ih h.2.2⟩

theorem fwfFrom_fset (d : α) {lo : Nat} {m : FMap α} (h : fwfFrom d lo m = true) {k : Nat} (hk : lo ≤ k) (v : α) :
    fwfFrom d lo (fset d m k v) = true := by
  induction m generalizing lo with
  | nil =>
    by_cases hv : v = d
    · simp [fset, hv, fwfFrom]
    · simp [fset, hv, fwfFrom, hk]
  | cons e t ih =>
    obtain ⟨j, w⟩ := e
    have hc := (fwfFrom_cons d lo j w t).1 h
    rw [fset]
    by_cases hlt : j < k
    · rw [if_pos hlt, fwfFrom_cons]
      exact ⟨hc.1, hc.2.1, ih hc.2.2 (by omega)⟩
    · rw [if_neg hlt]
      by_cases hv : v = d
      · rw [if_pos hv]
        exact fwfFrom_ferase d h k
      · rw [if_neg hv]
        by_cases hjk : j = k
        · subst hjk
          rw [if_pos rfl, fwfFrom_cons]
          exact ⟨hk, hv, fwfFrom_ferase d hc.2.2 j⟩
        · rw [if_neg hjk, fwfFrom_cons]
          have hkj : k < j := by omega
          have hm : fwfFrom d (k + 1) ((j, w) :: t) = true :=
            (fwfFrom_cons d (k + 1) j w t).2 ⟨hkj, hc.2⟩
          exact ⟨hk, hv, fwfFrom_ferase d hm k⟩

theorem fwfFrom_filter (d : α) (p : Nat × α → Bool) {lo : Nat} {m : FMap α} (h : fwfFrom d lo m = true) :
    fwfFrom d lo (m.filter p) = true := by
  induction m generalizing lo with
  | nil => rfl
  | cons e t ih =>
    obtain ⟨j, v⟩ := e
    rw [fwfFrom_cons] at h
    by_cases hp : p (j, v)
    · rw [List.filter_cons_of_pos hp, fwfFrom_cons]
      exact ⟨h.1, h.2.1, ih h.2.2⟩
    · rw [List.filter_cons_of_neg hp]
      exact fwfFrom_mono d (by omega) (ih h.2.2)

/-- A write keeps the canonical form. -/
theorem fwf_fset (d : α) {m : FMap α} (h : fwf d m = true) (k : Nat) (v : α) : fwf d (fset d m k v) = true :=
  fwfFrom_fset d h (Nat.zero_le k) v

theorem fwf_ferase (d : α) {m : FMap α} (h : fwf d m = true) (k : Nat) : fwf d (ferase m k) = true :=
  fwfFrom_ferase d h k

theorem fwf_filter (d : α) (p : Nat × α → Bool) {m : FMap α} (h : fwf d m = true) : fwf d (m.filter p) = true :=
  fwfFrom_filter d p h

/-- Writes one after another keep the canonical form. -/
theorem fwf_foldl_fset {β : Type} (d : α) (l : List β) (k : β → Nat) (v : FMap α → β → α) {m : FMap α}
    (h : fwf d m = true) : fwf d (l.foldl (fun acc e => fset d acc (k e) (v acc e)) m) = true := by
  induction l generalizing m with
  | nil => exact h
  | cons e t ih => exact ih (fwf_fset d h _ _)

theorem fwf_fmapValues (d : α) (f : Nat → α → α) {m : FMap α} (h : fwf d m = true) :
    fwf d (fmapValues d f m) = true :=
  fwf_foldl_fset d m Prod.fst (fun _ e => f e.1 (fget d m e.1)) h

/-- Writes of one value each, at indexes that may repeat, read at an index. -/
theorem fget_foldl_fset (d : α) (g : Nat → α) (l : List (Nat × α)) (m : FMap α) (i : Nat) :
    fget d (l.foldl (fun acc e => fset d acc e.1 (g e.1)) m) i =
      if (l.any fun e => e.1 == i) then g i else fget d m i := by
  induction l generalizing m with
  | nil => simp
  | cons e t ih =>
    rw [List.foldl_cons, ih, List.any_cons]
    by_cases hei : e.1 = i
    · subst hei; simp
    · have h2 : (e.1 == i) = false := by simpa using hei
      rw [h2, Bool.false_or, fget_fset_ne d m _ (Ne.symm hei)]

/-- A lookup after a change of every listed value by a function that keeps the default. -/
theorem fget_fmapValues (d : α) (f : Nat → α → α) (m : FMap α) (i : Nat) (hd : f i d = d) :
    fget d (fmapValues d f m) i = f i (fget d m i) := by
  unfold fmapValues
  rw [fget_foldl_fset d (fun j => f j (fget d m j)) m m i]
  by_cases h : (m.any fun e => e.1 == i) = true
  · simp [h]
  · rw [Bool.not_eq_true] at h
    simp [h, fget_unlisted d m i h, hd]

/-- Two canonical arrays that read alike are the same list. -/
theorem fwfFrom_ext (d : α) {lo : Nat} {m n : FMap α} (hm : fwfFrom d lo m = true) (hn : fwfFrom d lo n = true)
    (h : ∀ i, fget d m i = fget d n i) : m = n := by
  induction m generalizing lo n with
  | nil =>
    cases n with
    | nil => rfl
    | cons e t =>
      obtain ⟨j, v⟩ := e
      rw [fwfFrom_cons] at hn
      have := h j
      rw [fget_cons, if_pos rfl, fget_nil] at this
      exact absurd this.symm hn.2.1
  | cons e t ih =>
    obtain ⟨j, v⟩ := e
    rw [fwfFrom_cons] at hm
    cases n with
    | nil =>
      have := h j
      rw [fget_cons, if_pos rfl, fget_nil] at this
      exact absurd this hm.2.1
    | cons e' t' =>
      obtain ⟨j', v'⟩ := e'
      rw [fwfFrom_cons] at hn
      have hjj : j = j' := by
        rcases Nat.lt_trichotomy j j' with hlt | heq | hgt
        · exfalso
          have := h j
          rw [fget_cons, if_pos rfl, fget_cons, if_neg (by omega), fget_below d hn.2.2 (by omega)] at this
          exact hm.2.1 this
        · exact heq
        · exfalso
          have := h j'
          rw [fget_cons, if_neg (by omega), fget_cons, if_pos rfl, fget_below d hm.2.2 (by omega)] at this
          exact hn.2.1 this.symm
      subst hjj
      have hv : v = v' := by
        have := h j
        rwa [fget_cons, if_pos rfl, fget_cons, if_pos rfl] at this
      subst hv
      rw [ih hm.2.2 hn.2.2 (fun i => by
        by_cases hi : i < j + 1
        · rw [fget_below d hm.2.2 hi, fget_below d hn.2.2 hi]
        · have := h i
          rwa [fget_cons, if_neg (by omega), fget_cons, if_neg (by omega)] at this)]

end Sys2Proof.Machine
end

