-- ==== Sys2Proof/Laws/State.lean ====
section
/-!
SUPPORT. One lemma per field per update of the state: what each named write leaves as it was, by definition, and what the
named read of the unit gives after it.
-/
namespace Sys2Proof.Machine

/-! `setHart`. -/

@[simp] theorem State.setHart_hart_same (s : State) (i : Nat) (v : Hart) : (s.setHart i v).hart i = v :=
  fget_fset_same _ _ _ _

theorem State.setHart_hart_ne (s : State) {i j : Nat} (v : Hart) (h : j ≠ i) : (s.setHart i v).hart j = s.hart j :=
  fget_fset_other _ _ _ _ h

theorem State.setHart_hart_eq (s : State) (i : Nat) (v : Hart) (j : Nat) :
    (s.setHart i v).hart j = if j = i then v else s.hart j := by
  by_cases h : j = i
  · rw [if_pos h, h, State.setHart_hart_same]
  · rw [if_neg h, State.setHart_hart_ne s v h]

@[simp] theorem State.setHart_cur (s : State) (i : Nat) (v : Hart) : (s.setHart i v).cur = s.cur := rfl
@[simp] theorem State.setHart_agenda (s : State) (i : Nat) (v : Hart) : (s.setHart i v).agenda = s.agenda := rfl
@[simp] theorem State.setHart_clk (s : State) (i : Nat) (v : Hart) : (s.setHart i v).clk = s.clk := rfl
@[simp] theorem State.setHart_coreClk (s : State) (i : Nat) (v : Hart) : (s.setHart i v).coreClk = s.coreClk := rfl
@[simp] theorem State.setHart_cores (s : State) (i : Nat) (v : Hart) : (s.setHart i v).cores = s.cores := rfl
@[simp] theorem State.setHart_presses (s : State) (i : Nat) (v : Hart) : (s.setHart i v).presses = s.presses := rfl
@[simp] theorem State.setHart_dies (s : State) (i : Nat) (v : Hart) : (s.setHart i v).dies = s.dies := rfl
@[simp] theorem State.setHart_ctxs (s : State) (i : Nat) (v : Hart) : (s.setHart i v).ctxs = s.ctxs := rfl
@[simp] theorem State.setHart_vfs (s : State) (i : Nat) (v : Hart) : (s.setHart i v).vfs = s.vfs := rfl
@[simp] theorem State.setHart_hub (s : State) (i : Nat) (v : Hart) : (s.setHart i v).hub = s.hub := rfl
@[simp] theorem State.setHart_links (s : State) (i : Nat) (v : Hart) : (s.setHart i v).links = s.links := rfl
@[simp] theorem State.setHart_wear (s : State) (i : Nat) (v : Hart) : (s.setHart i v).wear = s.wear := rfl
@[simp] theorem State.setHart_ctrls (s : State) (i : Nat) (v : Hart) : (s.setHart i v).ctrls = s.ctrls := rfl
@[simp] theorem State.setHart_mem (s : State) (i : Nat) (v : Hart) : (s.setHart i v).mem = s.mem := rfl
@[simp] theorem State.setHart_tlb (s : State) (i : Nat) (v : Hart) : (s.setHart i v).tlb = s.tlb := rfl
@[simp] theorem State.setHart_flaws (s : State) (i : Nat) (v : Hart) : (s.setHart i v).flaws = s.flaws := rfl
@[simp] theorem State.setHart_flawClk (s : State) (i : Nat) (v : Hart) : (s.setHart i v).flawClk = s.flawClk := rfl
@[simp] theorem State.setHart_poison (s : State) (i : Nat) (v : Hart) : (s.setHart i v).poison = s.poison := rfl
@[simp] theorem State.setHart_recordOrder (s : State) (i : Nat) (v : Hart) : (s.setHart i v).recordOrder = s.recordOrder := rfl
@[simp] theorem State.setHart_inband (s : State) (i : Nat) (v : Hart) : (s.setHart i v).inband = s.inband := rfl
@[simp] theorem State.setHart_stale (s : State) (i : Nat) (v : Hart) : (s.setHart i v).stale = s.stale := rfl
@[simp] theorem State.setHart_marks (s : State) (i : Nat) (v : Hart) : (s.setHart i v).marks = s.marks := rfl
@[simp] theorem State.setHart_issued (s : State) (i : Nat) (v : Hart) : (s.setHart i v).issued = s.issued := rfl
@[simp] theorem State.setHart_selfTests (s : State) (i : Nat) (v : Hart) : (s.setHart i v).selfTests = s.selfTests := rfl
@[simp] theorem State.setHart_tests (s : State) (i : Nat) (v : Hart) : (s.setHart i v).tests = s.tests := rfl
@[simp] theorem State.setHart_recent (s : State) (i : Nat) (v : Hart) : (s.setHart i v).recent = s.recent := rfl
@[simp] theorem State.setHart_rowSpares (s : State) (i : Nat) (v : Hart) : (s.setHart i v).rowSpares = s.rowSpares := rfl
@[simp] theorem State.setHart_seqNo (s : State) (i : Nat) (v : Hart) : (s.setHart i v).seqNo = s.seqNo := rfl
@[simp] theorem State.setHart_freeNo (s : State) (i : Nat) (v : Hart) : (s.setHart i v).freeNo = s.freeNo := rfl
@[simp] theorem State.setHart_core_j (s : State) (i : Nat) (v : Hart) (j : Nat) : (s.setHart i v).core j = s.core j := rfl
@[simp] theorem State.setHart_press_j (s : State) (i : Nat) (v : Hart) (j : Nat) : (s.setHart i v).press j = s.press j := rfl
@[simp] theorem State.setHart_die_j (s : State) (i : Nat) (v : Hart) (j : Nat) : (s.setHart i v).die j = s.die j := rfl
@[simp] theorem State.setHart_ctx_j (s : State) (i : Nat) (v : Hart) (j : Nat) : (s.setHart i v).ctx j = s.ctx j := rfl
@[simp] theorem State.setHart_vf_j (s : State) (i : Nat) (v : Hart) (j : Nat) : (s.setHart i v).vf j = s.vf j := rfl
@[simp] theorem State.setHart_link_j (s : State) (i : Nat) (v : Hart) (j : Nat) : (s.setHart i v).link j = s.link j := rfl
@[simp] theorem State.setHart_wearOf_j (s : State) (i : Nat) (v : Hart) (j : Nat) : (s.setHart i v).wearOf j = s.wearOf j := rfl
@[simp] theorem State.setHart_ctrl_j (s : State) (i : Nat) (v : Hart) (j : Nat) : (s.setHart i v).ctrl j = s.ctrl j := rfl

/-! `setCore`. -/

@[simp] theorem State.setCore_core_same (s : State) (i : Nat) (v : Core) : (s.setCore i v).core i = v :=
  fget_fset_same _ _ _ _

theorem State.setCore_core_ne (s : State) {i j : Nat} (v : Core) (h : j ≠ i) : (s.setCore i v).core j = s.core j :=
  fget_fset_other _ _ _ _ h

theorem State.setCore_core_eq (s : State) (i : Nat) (v : Core) (j : Nat) :
    (s.setCore i v).core j = if j = i then v else s.core j := by
  by_cases h : j = i
  · rw [if_pos h, h, State.setCore_core_same]
  · rw [if_neg h, State.setCore_core_ne s v h]

@[simp] theorem State.setCore_cur (s : State) (i : Nat) (v : Core) : (s.setCore i v).cur = s.cur := rfl
@[simp] theorem State.setCore_agenda (s : State) (i : Nat) (v : Core) : (s.setCore i v).agenda = s.agenda := rfl
@[simp] theorem State.setCore_clk (s : State) (i : Nat) (v : Core) : (s.setCore i v).clk = s.clk := rfl
@[simp] theorem State.setCore_coreClk (s : State) (i : Nat) (v : Core) : (s.setCore i v).coreClk = s.coreClk := rfl
@[simp] theorem State.setCore_harts (s : State) (i : Nat) (v : Core) : (s.setCore i v).harts = s.harts := rfl
@[simp] theorem State.setCore_presses (s : State) (i : Nat) (v : Core) : (s.setCore i v).presses = s.presses := rfl
@[simp] theorem State.setCore_dies (s : State) (i : Nat) (v : Core) : (s.setCore i v).dies = s.dies := rfl
@[simp] theorem State.setCore_ctxs (s : State) (i : Nat) (v : Core) : (s.setCore i v).ctxs = s.ctxs := rfl
@[simp] theorem State.setCore_vfs (s : State) (i : Nat) (v : Core) : (s.setCore i v).vfs = s.vfs := rfl
@[simp] theorem State.setCore_hub (s : State) (i : Nat) (v : Core) : (s.setCore i v).hub = s.hub := rfl
@[simp] theorem State.setCore_links (s : State) (i : Nat) (v : Core) : (s.setCore i v).links = s.links := rfl
@[simp] theorem State.setCore_wear (s : State) (i : Nat) (v : Core) : (s.setCore i v).wear = s.wear := rfl
@[simp] theorem State.setCore_ctrls (s : State) (i : Nat) (v : Core) : (s.setCore i v).ctrls = s.ctrls := rfl
@[simp] theorem State.setCore_mem (s : State) (i : Nat) (v : Core) : (s.setCore i v).mem = s.mem := rfl
@[simp] theorem State.setCore_tlb (s : State) (i : Nat) (v : Core) : (s.setCore i v).tlb = s.tlb := rfl
@[simp] theorem State.setCore_flaws (s : State) (i : Nat) (v : Core) : (s.setCore i v).flaws = s.flaws := rfl
@[simp] theorem State.setCore_flawClk (s : State) (i : Nat) (v : Core) : (s.setCore i v).flawClk = s.flawClk := rfl
@[simp] theorem State.setCore_poison (s : State) (i : Nat) (v : Core) : (s.setCore i v).poison = s.poison := rfl
@[simp] theorem State.setCore_recordOrder (s : State) (i : Nat) (v : Core) : (s.setCore i v).recordOrder = s.recordOrder := rfl
@[simp] theorem State.setCore_inband (s : State) (i : Nat) (v : Core) : (s.setCore i v).inband = s.inband := rfl
@[simp] theorem State.setCore_stale (s : State) (i : Nat) (v : Core) : (s.setCore i v).stale = s.stale := rfl
@[simp] theorem State.setCore_marks (s : State) (i : Nat) (v : Core) : (s.setCore i v).marks = s.marks := rfl
@[simp] theorem State.setCore_issued (s : State) (i : Nat) (v : Core) : (s.setCore i v).issued = s.issued := rfl
@[simp] theorem State.setCore_selfTests (s : State) (i : Nat) (v : Core) : (s.setCore i v).selfTests = s.selfTests := rfl
@[simp] theorem State.setCore_tests (s : State) (i : Nat) (v : Core) : (s.setCore i v).tests = s.tests := rfl
@[simp] theorem State.setCore_recent (s : State) (i : Nat) (v : Core) : (s.setCore i v).recent = s.recent := rfl
@[simp] theorem State.setCore_rowSpares (s : State) (i : Nat) (v : Core) : (s.setCore i v).rowSpares = s.rowSpares := rfl
@[simp] theorem State.setCore_seqNo (s : State) (i : Nat) (v : Core) : (s.setCore i v).seqNo = s.seqNo := rfl
@[simp] theorem State.setCore_freeNo (s : State) (i : Nat) (v : Core) : (s.setCore i v).freeNo = s.freeNo := rfl
@[simp] theorem State.setCore_hart_j (s : State) (i : Nat) (v : Core) (j : Nat) : (s.setCore i v).hart j = s.hart j := rfl
@[simp] theorem State.setCore_press_j (s : State) (i : Nat) (v : Core) (j : Nat) : (s.setCore i v).press j = s.press j := rfl
@[simp] theorem State.setCore_die_j (s : State) (i : Nat) (v : Core) (j : Nat) : (s.setCore i v).die j = s.die j := rfl
@[simp] theorem State.setCore_ctx_j (s : State) (i : Nat) (v : Core) (j : Nat) : (s.setCore i v).ctx j = s.ctx j := rfl
@[simp] theorem State.setCore_vf_j (s : State) (i : Nat) (v : Core) (j : Nat) : (s.setCore i v).vf j = s.vf j := rfl
@[simp] theorem State.setCore_link_j (s : State) (i : Nat) (v : Core) (j : Nat) : (s.setCore i v).link j = s.link j := rfl
@[simp] theorem State.setCore_wearOf_j (s : State) (i : Nat) (v : Core) (j : Nat) : (s.setCore i v).wearOf j = s.wearOf j := rfl
@[simp] theorem State.setCore_ctrl_j (s : State) (i : Nat) (v : Core) (j : Nat) : (s.setCore i v).ctrl j = s.ctrl j := rfl

/-! `setPress`. -/

@[simp] theorem State.setPress_press_same (s : State) (i : Nat) (v : Press) : (s.setPress i v).press i = v :=
  fget_fset_same _ _ _ _

theorem State.setPress_press_ne (s : State) {i j : Nat} (v : Press) (h : j ≠ i) : (s.setPress i v).press j = s.press j :=
  fget_fset_other _ _ _ _ h

theorem State.setPress_press_eq (s : State) (i : Nat) (v : Press) (j : Nat) :
    (s.setPress i v).press j = if j = i then v else s.press j := by
  by_cases h : j = i
  · rw [if_pos h, h, State.setPress_press_same]
  · rw [if_neg h, State.setPress_press_ne s v h]

@[simp] theorem State.setPress_cur (s : State) (i : Nat) (v : Press) : (s.setPress i v).cur = s.cur := rfl
@[simp] theorem State.setPress_agenda (s : State) (i : Nat) (v : Press) : (s.setPress i v).agenda = s.agenda := rfl
@[simp] theorem State.setPress_clk (s : State) (i : Nat) (v : Press) : (s.setPress i v).clk = s.clk := rfl
@[simp] theorem State.setPress_coreClk (s : State) (i : Nat) (v : Press) : (s.setPress i v).coreClk = s.coreClk := rfl
@[simp] theorem State.setPress_harts (s : State) (i : Nat) (v : Press) : (s.setPress i v).harts = s.harts := rfl
@[simp] theorem State.setPress_cores (s : State) (i : Nat) (v : Press) : (s.setPress i v).cores = s.cores := rfl
@[simp] theorem State.setPress_dies (s : State) (i : Nat) (v : Press) : (s.setPress i v).dies = s.dies := rfl
@[simp] theorem State.setPress_ctxs (s : State) (i : Nat) (v : Press) : (s.setPress i v).ctxs = s.ctxs := rfl
@[simp] theorem State.setPress_vfs (s : State) (i : Nat) (v : Press) : (s.setPress i v).vfs = s.vfs := rfl
@[simp] theorem State.setPress_hub (s : State) (i : Nat) (v : Press) : (s.setPress i v).hub = s.hub := rfl
@[simp] theorem State.setPress_links (s : State) (i : Nat) (v : Press) : (s.setPress i v).links = s.links := rfl
@[simp] theorem State.setPress_wear (s : State) (i : Nat) (v : Press) : (s.setPress i v).wear = s.wear := rfl
@[simp] theorem State.setPress_ctrls (s : State) (i : Nat) (v : Press) : (s.setPress i v).ctrls = s.ctrls := rfl
@[simp] theorem State.setPress_mem (s : State) (i : Nat) (v : Press) : (s.setPress i v).mem = s.mem := rfl
@[simp] theorem State.setPress_tlb (s : State) (i : Nat) (v : Press) : (s.setPress i v).tlb = s.tlb := rfl
@[simp] theorem State.setPress_flaws (s : State) (i : Nat) (v : Press) : (s.setPress i v).flaws = s.flaws := rfl
@[simp] theorem State.setPress_flawClk (s : State) (i : Nat) (v : Press) : (s.setPress i v).flawClk = s.flawClk := rfl
@[simp] theorem State.setPress_poison (s : State) (i : Nat) (v : Press) : (s.setPress i v).poison = s.poison := rfl
@[simp] theorem State.setPress_recordOrder (s : State) (i : Nat) (v : Press) : (s.setPress i v).recordOrder = s.recordOrder := rfl
@[simp] theorem State.setPress_inband (s : State) (i : Nat) (v : Press) : (s.setPress i v).inband = s.inband := rfl
@[simp] theorem State.setPress_stale (s : State) (i : Nat) (v : Press) : (s.setPress i v).stale = s.stale := rfl
@[simp] theorem State.setPress_marks (s : State) (i : Nat) (v : Press) : (s.setPress i v).marks = s.marks := rfl
@[simp] theorem State.setPress_issued (s : State) (i : Nat) (v : Press) : (s.setPress i v).issued = s.issued := rfl
@[simp] theorem State.setPress_selfTests (s : State) (i : Nat) (v : Press) : (s.setPress i v).selfTests = s.selfTests := rfl
@[simp] theorem State.setPress_tests (s : State) (i : Nat) (v : Press) : (s.setPress i v).tests = s.tests := rfl
@[simp] theorem State.setPress_recent (s : State) (i : Nat) (v : Press) : (s.setPress i v).recent = s.recent := rfl
@[simp] theorem State.setPress_rowSpares (s : State) (i : Nat) (v : Press) : (s.setPress i v).rowSpares = s.rowSpares := rfl
@[simp] theorem State.setPress_seqNo (s : State) (i : Nat) (v : Press) : (s.setPress i v).seqNo = s.seqNo := rfl
@[simp] theorem State.setPress_freeNo (s : State) (i : Nat) (v : Press) : (s.setPress i v).freeNo = s.freeNo := rfl
@[simp] theorem State.setPress_hart_j (s : State) (i : Nat) (v : Press) (j : Nat) : (s.setPress i v).hart j = s.hart j := rfl
@[simp] theorem State.setPress_core_j (s : State) (i : Nat) (v : Press) (j : Nat) : (s.setPress i v).core j = s.core j := rfl
@[simp] theorem State.setPress_die_j (s : State) (i : Nat) (v : Press) (j : Nat) : (s.setPress i v).die j = s.die j := rfl
@[simp] theorem State.setPress_ctx_j (s : State) (i : Nat) (v : Press) (j : Nat) : (s.setPress i v).ctx j = s.ctx j := rfl
@[simp] theorem State.setPress_vf_j (s : State) (i : Nat) (v : Press) (j : Nat) : (s.setPress i v).vf j = s.vf j := rfl
@[simp] theorem State.setPress_link_j (s : State) (i : Nat) (v : Press) (j : Nat) : (s.setPress i v).link j = s.link j := rfl
@[simp] theorem State.setPress_wearOf_j (s : State) (i : Nat) (v : Press) (j : Nat) : (s.setPress i v).wearOf j = s.wearOf j := rfl
@[simp] theorem State.setPress_ctrl_j (s : State) (i : Nat) (v : Press) (j : Nat) : (s.setPress i v).ctrl j = s.ctrl j := rfl

/-! `setDie`. -/

@[simp] theorem State.setDie_die_same (s : State) (i : Nat) (v : Die) : (s.setDie i v).die i = v :=
  fget_fset_same _ _ _ _

theorem State.setDie_die_ne (s : State) {i j : Nat} (v : Die) (h : j ≠ i) : (s.setDie i v).die j = s.die j :=
  fget_fset_other _ _ _ _ h

theorem State.setDie_die_eq (s : State) (i : Nat) (v : Die) (j : Nat) :
    (s.setDie i v).die j = if j = i then v else s.die j := by
  by_cases h : j = i
  · rw [if_pos h, h, State.setDie_die_same]
  · rw [if_neg h, State.setDie_die_ne s v h]

@[simp] theorem State.setDie_cur (s : State) (i : Nat) (v : Die) : (s.setDie i v).cur = s.cur := rfl
@[simp] theorem State.setDie_agenda (s : State) (i : Nat) (v : Die) : (s.setDie i v).agenda = s.agenda := rfl
@[simp] theorem State.setDie_clk (s : State) (i : Nat) (v : Die) : (s.setDie i v).clk = s.clk := rfl
@[simp] theorem State.setDie_coreClk (s : State) (i : Nat) (v : Die) : (s.setDie i v).coreClk = s.coreClk := rfl
@[simp] theorem State.setDie_harts (s : State) (i : Nat) (v : Die) : (s.setDie i v).harts = s.harts := rfl
@[simp] theorem State.setDie_cores (s : State) (i : Nat) (v : Die) : (s.setDie i v).cores = s.cores := rfl
@[simp] theorem State.setDie_presses (s : State) (i : Nat) (v : Die) : (s.setDie i v).presses = s.presses := rfl
@[simp] theorem State.setDie_ctxs (s : State) (i : Nat) (v : Die) : (s.setDie i v).ctxs = s.ctxs := rfl
@[simp] theorem State.setDie_vfs (s : State) (i : Nat) (v : Die) : (s.setDie i v).vfs = s.vfs := rfl
@[simp] theorem State.setDie_hub (s : State) (i : Nat) (v : Die) : (s.setDie i v).hub = s.hub := rfl
@[simp] theorem State.setDie_links (s : State) (i : Nat) (v : Die) : (s.setDie i v).links = s.links := rfl
@[simp] theorem State.setDie_wear (s : State) (i : Nat) (v : Die) : (s.setDie i v).wear = s.wear := rfl
@[simp] theorem State.setDie_ctrls (s : State) (i : Nat) (v : Die) : (s.setDie i v).ctrls = s.ctrls := rfl
@[simp] theorem State.setDie_mem (s : State) (i : Nat) (v : Die) : (s.setDie i v).mem = s.mem := rfl
@[simp] theorem State.setDie_tlb (s : State) (i : Nat) (v : Die) : (s.setDie i v).tlb = s.tlb := rfl
@[simp] theorem State.setDie_flaws (s : State) (i : Nat) (v : Die) : (s.setDie i v).flaws = s.flaws := rfl
@[simp] theorem State.setDie_flawClk (s : State) (i : Nat) (v : Die) : (s.setDie i v).flawClk = s.flawClk := rfl
@[simp] theorem State.setDie_poison (s : State) (i : Nat) (v : Die) : (s.setDie i v).poison = s.poison := rfl
@[simp] theorem State.setDie_recordOrder (s : State) (i : Nat) (v : Die) : (s.setDie i v).recordOrder = s.recordOrder := rfl
@[simp] theorem State.setDie_inband (s : State) (i : Nat) (v : Die) : (s.setDie i v).inband = s.inband := rfl
@[simp] theorem State.setDie_stale (s : State) (i : Nat) (v : Die) : (s.setDie i v).stale = s.stale := rfl
@[simp] theorem State.setDie_marks (s : State) (i : Nat) (v : Die) : (s.setDie i v).marks = s.marks := rfl
@[simp] theorem State.setDie_issued (s : State) (i : Nat) (v : Die) : (s.setDie i v).issued = s.issued := rfl
@[simp] theorem State.setDie_selfTests (s : State) (i : Nat) (v : Die) : (s.setDie i v).selfTests = s.selfTests := rfl
@[simp] theorem State.setDie_tests (s : State) (i : Nat) (v : Die) : (s.setDie i v).tests = s.tests := rfl
@[simp] theorem State.setDie_recent (s : State) (i : Nat) (v : Die) : (s.setDie i v).recent = s.recent := rfl
@[simp] theorem State.setDie_rowSpares (s : State) (i : Nat) (v : Die) : (s.setDie i v).rowSpares = s.rowSpares := rfl
@[simp] theorem State.setDie_seqNo (s : State) (i : Nat) (v : Die) : (s.setDie i v).seqNo = s.seqNo := rfl
@[simp] theorem State.setDie_freeNo (s : State) (i : Nat) (v : Die) : (s.setDie i v).freeNo = s.freeNo := rfl
@[simp] theorem State.setDie_hart_j (s : State) (i : Nat) (v : Die) (j : Nat) : (s.setDie i v).hart j = s.hart j := rfl
@[simp] theorem State.setDie_core_j (s : State) (i : Nat) (v : Die) (j : Nat) : (s.setDie i v).core j = s.core j := rfl
@[simp] theorem State.setDie_press_j (s : State) (i : Nat) (v : Die) (j : Nat) : (s.setDie i v).press j = s.press j := rfl
@[simp] theorem State.setDie_ctx_j (s : State) (i : Nat) (v : Die) (j : Nat) : (s.setDie i v).ctx j = s.ctx j := rfl
@[simp] theorem State.setDie_vf_j (s : State) (i : Nat) (v : Die) (j : Nat) : (s.setDie i v).vf j = s.vf j := rfl
@[simp] theorem State.setDie_link_j (s : State) (i : Nat) (v : Die) (j : Nat) : (s.setDie i v).link j = s.link j := rfl
@[simp] theorem State.setDie_wearOf_j (s : State) (i : Nat) (v : Die) (j : Nat) : (s.setDie i v).wearOf j = s.wearOf j := rfl
@[simp] theorem State.setDie_ctrl_j (s : State) (i : Nat) (v : Die) (j : Nat) : (s.setDie i v).ctrl j = s.ctrl j := rfl

/-! `setCtx`. -/

@[simp] theorem State.setCtx_ctx_same (s : State) (i : Nat) (v : Ctx) : (s.setCtx i v).ctx i = v :=
  fget_fset_same _ _ _ _

theorem State.setCtx_ctx_ne (s : State) {i j : Nat} (v : Ctx) (h : j ≠ i) : (s.setCtx i v).ctx j = s.ctx j :=
  fget_fset_other _ _ _ _ h

theorem State.setCtx_ctx_eq (s : State) (i : Nat) (v : Ctx) (j : Nat) :
    (s.setCtx i v).ctx j = if j = i then v else s.ctx j := by
  by_cases h : j = i
  · rw [if_pos h, h, State.setCtx_ctx_same]
  · rw [if_neg h, State.setCtx_ctx_ne s v h]

@[simp] theorem State.setCtx_cur (s : State) (i : Nat) (v : Ctx) : (s.setCtx i v).cur = s.cur := rfl
@[simp] theorem State.setCtx_agenda (s : State) (i : Nat) (v : Ctx) : (s.setCtx i v).agenda = s.agenda := rfl
@[simp] theorem State.setCtx_clk (s : State) (i : Nat) (v : Ctx) : (s.setCtx i v).clk = s.clk := rfl
@[simp] theorem State.setCtx_coreClk (s : State) (i : Nat) (v : Ctx) : (s.setCtx i v).coreClk = s.coreClk := rfl
@[simp] theorem State.setCtx_harts (s : State) (i : Nat) (v : Ctx) : (s.setCtx i v).harts = s.harts := rfl
@[simp] theorem State.setCtx_cores (s : State) (i : Nat) (v : Ctx) : (s.setCtx i v).cores = s.cores := rfl
@[simp] theorem State.setCtx_presses (s : State) (i : Nat) (v : Ctx) : (s.setCtx i v).presses = s.presses := rfl
@[simp] theorem State.setCtx_dies (s : State) (i : Nat) (v : Ctx) : (s.setCtx i v).dies = s.dies := rfl
@[simp] theorem State.setCtx_vfs (s : State) (i : Nat) (v : Ctx) : (s.setCtx i v).vfs = s.vfs := rfl
@[simp] theorem State.setCtx_hub (s : State) (i : Nat) (v : Ctx) : (s.setCtx i v).hub = s.hub := rfl
@[simp] theorem State.setCtx_links (s : State) (i : Nat) (v : Ctx) : (s.setCtx i v).links = s.links := rfl
@[simp] theorem State.setCtx_wear (s : State) (i : Nat) (v : Ctx) : (s.setCtx i v).wear = s.wear := rfl
@[simp] theorem State.setCtx_ctrls (s : State) (i : Nat) (v : Ctx) : (s.setCtx i v).ctrls = s.ctrls := rfl
@[simp] theorem State.setCtx_mem (s : State) (i : Nat) (v : Ctx) : (s.setCtx i v).mem = s.mem := rfl
@[simp] theorem State.setCtx_tlb (s : State) (i : Nat) (v : Ctx) : (s.setCtx i v).tlb = s.tlb := rfl
@[simp] theorem State.setCtx_flaws (s : State) (i : Nat) (v : Ctx) : (s.setCtx i v).flaws = s.flaws := rfl
@[simp] theorem State.setCtx_flawClk (s : State) (i : Nat) (v : Ctx) : (s.setCtx i v).flawClk = s.flawClk := rfl
@[simp] theorem State.setCtx_poison (s : State) (i : Nat) (v : Ctx) : (s.setCtx i v).poison = s.poison := rfl
@[simp] theorem State.setCtx_recordOrder (s : State) (i : Nat) (v : Ctx) : (s.setCtx i v).recordOrder = s.recordOrder := rfl
@[simp] theorem State.setCtx_inband (s : State) (i : Nat) (v : Ctx) : (s.setCtx i v).inband = s.inband := rfl
@[simp] theorem State.setCtx_stale (s : State) (i : Nat) (v : Ctx) : (s.setCtx i v).stale = s.stale := rfl
@[simp] theorem State.setCtx_marks (s : State) (i : Nat) (v : Ctx) : (s.setCtx i v).marks = s.marks := rfl
@[simp] theorem State.setCtx_issued (s : State) (i : Nat) (v : Ctx) : (s.setCtx i v).issued = s.issued := rfl
@[simp] theorem State.setCtx_selfTests (s : State) (i : Nat) (v : Ctx) : (s.setCtx i v).selfTests = s.selfTests := rfl
@[simp] theorem State.setCtx_tests (s : State) (i : Nat) (v : Ctx) : (s.setCtx i v).tests = s.tests := rfl
@[simp] theorem State.setCtx_recent (s : State) (i : Nat) (v : Ctx) : (s.setCtx i v).recent = s.recent := rfl
@[simp] theorem State.setCtx_rowSpares (s : State) (i : Nat) (v : Ctx) : (s.setCtx i v).rowSpares = s.rowSpares := rfl
@[simp] theorem State.setCtx_seqNo (s : State) (i : Nat) (v : Ctx) : (s.setCtx i v).seqNo = s.seqNo := rfl
@[simp] theorem State.setCtx_freeNo (s : State) (i : Nat) (v : Ctx) : (s.setCtx i v).freeNo = s.freeNo := rfl
@[simp] theorem State.setCtx_hart_j (s : State) (i : Nat) (v : Ctx) (j : Nat) : (s.setCtx i v).hart j = s.hart j := rfl
@[simp] theorem State.setCtx_core_j (s : State) (i : Nat) (v : Ctx) (j : Nat) : (s.setCtx i v).core j = s.core j := rfl
@[simp] theorem State.setCtx_press_j (s : State) (i : Nat) (v : Ctx) (j : Nat) : (s.setCtx i v).press j = s.press j := rfl
@[simp] theorem State.setCtx_die_j (s : State) (i : Nat) (v : Ctx) (j : Nat) : (s.setCtx i v).die j = s.die j := rfl
@[simp] theorem State.setCtx_vf_j (s : State) (i : Nat) (v : Ctx) (j : Nat) : (s.setCtx i v).vf j = s.vf j := rfl
@[simp] theorem State.setCtx_link_j (s : State) (i : Nat) (v : Ctx) (j : Nat) : (s.setCtx i v).link j = s.link j := rfl
@[simp] theorem State.setCtx_wearOf_j (s : State) (i : Nat) (v : Ctx) (j : Nat) : (s.setCtx i v).wearOf j = s.wearOf j := rfl
@[simp] theorem State.setCtx_ctrl_j (s : State) (i : Nat) (v : Ctx) (j : Nat) : (s.setCtx i v).ctrl j = s.ctrl j := rfl

/-! `setVf`. -/

@[simp] theorem State.setVf_vf_same (s : State) (i : Nat) (v : Vf) : (s.setVf i v).vf i = v :=
  fget_fset_same _ _ _ _

theorem State.setVf_vf_ne (s : State) {i j : Nat} (v : Vf) (h : j ≠ i) : (s.setVf i v).vf j = s.vf j :=
  fget_fset_other _ _ _ _ h

theorem State.setVf_vf_eq (s : State) (i : Nat) (v : Vf) (j : Nat) :
    (s.setVf i v).vf j = if j = i then v else s.vf j := by
  by_cases h : j = i
  · rw [if_pos h, h, State.setVf_vf_same]
  · rw [if_neg h, State.setVf_vf_ne s v h]

@[simp] theorem State.setVf_cur (s : State) (i : Nat) (v : Vf) : (s.setVf i v).cur = s.cur := rfl
@[simp] theorem State.setVf_agenda (s : State) (i : Nat) (v : Vf) : (s.setVf i v).agenda = s.agenda := rfl
@[simp] theorem State.setVf_clk (s : State) (i : Nat) (v : Vf) : (s.setVf i v).clk = s.clk := rfl
@[simp] theorem State.setVf_coreClk (s : State) (i : Nat) (v : Vf) : (s.setVf i v).coreClk = s.coreClk := rfl
@[simp] theorem State.setVf_harts (s : State) (i : Nat) (v : Vf) : (s.setVf i v).harts = s.harts := rfl
@[simp] theorem State.setVf_cores (s : State) (i : Nat) (v : Vf) : (s.setVf i v).cores = s.cores := rfl
@[simp] theorem State.setVf_presses (s : State) (i : Nat) (v : Vf) : (s.setVf i v).presses = s.presses := rfl
@[simp] theorem State.setVf_dies (s : State) (i : Nat) (v : Vf) : (s.setVf i v).dies = s.dies := rfl
@[simp] theorem State.setVf_ctxs (s : State) (i : Nat) (v : Vf) : (s.setVf i v).ctxs = s.ctxs := rfl
@[simp] theorem State.setVf_hub (s : State) (i : Nat) (v : Vf) : (s.setVf i v).hub = s.hub := rfl
@[simp] theorem State.setVf_links (s : State) (i : Nat) (v : Vf) : (s.setVf i v).links = s.links := rfl
@[simp] theorem State.setVf_wear (s : State) (i : Nat) (v : Vf) : (s.setVf i v).wear = s.wear := rfl
@[simp] theorem State.setVf_ctrls (s : State) (i : Nat) (v : Vf) : (s.setVf i v).ctrls = s.ctrls := rfl
@[simp] theorem State.setVf_mem (s : State) (i : Nat) (v : Vf) : (s.setVf i v).mem = s.mem := rfl
@[simp] theorem State.setVf_tlb (s : State) (i : Nat) (v : Vf) : (s.setVf i v).tlb = s.tlb := rfl
@[simp] theorem State.setVf_flaws (s : State) (i : Nat) (v : Vf) : (s.setVf i v).flaws = s.flaws := rfl
@[simp] theorem State.setVf_flawClk (s : State) (i : Nat) (v : Vf) : (s.setVf i v).flawClk = s.flawClk := rfl
@[simp] theorem State.setVf_poison (s : State) (i : Nat) (v : Vf) : (s.setVf i v).poison = s.poison := rfl
@[simp] theorem State.setVf_recordOrder (s : State) (i : Nat) (v : Vf) : (s.setVf i v).recordOrder = s.recordOrder := rfl
@[simp] theorem State.setVf_inband (s : State) (i : Nat) (v : Vf) : (s.setVf i v).inband = s.inband := rfl
@[simp] theorem State.setVf_stale (s : State) (i : Nat) (v : Vf) : (s.setVf i v).stale = s.stale := rfl
@[simp] theorem State.setVf_marks (s : State) (i : Nat) (v : Vf) : (s.setVf i v).marks = s.marks := rfl
@[simp] theorem State.setVf_issued (s : State) (i : Nat) (v : Vf) : (s.setVf i v).issued = s.issued := rfl
@[simp] theorem State.setVf_selfTests (s : State) (i : Nat) (v : Vf) : (s.setVf i v).selfTests = s.selfTests := rfl
@[simp] theorem State.setVf_tests (s : State) (i : Nat) (v : Vf) : (s.setVf i v).tests = s.tests := rfl
@[simp] theorem State.setVf_recent (s : State) (i : Nat) (v : Vf) : (s.setVf i v).recent = s.recent := rfl
@[simp] theorem State.setVf_rowSpares (s : State) (i : Nat) (v : Vf) : (s.setVf i v).rowSpares = s.rowSpares := rfl
@[simp] theorem State.setVf_seqNo (s : State) (i : Nat) (v : Vf) : (s.setVf i v).seqNo = s.seqNo := rfl
@[simp] theorem State.setVf_freeNo (s : State) (i : Nat) (v : Vf) : (s.setVf i v).freeNo = s.freeNo := rfl
@[simp] theorem State.setVf_hart_j (s : State) (i : Nat) (v : Vf) (j : Nat) : (s.setVf i v).hart j = s.hart j := rfl
@[simp] theorem State.setVf_core_j (s : State) (i : Nat) (v : Vf) (j : Nat) : (s.setVf i v).core j = s.core j := rfl
@[simp] theorem State.setVf_press_j (s : State) (i : Nat) (v : Vf) (j : Nat) : (s.setVf i v).press j = s.press j := rfl
@[simp] theorem State.setVf_die_j (s : State) (i : Nat) (v : Vf) (j : Nat) : (s.setVf i v).die j = s.die j := rfl
@[simp] theorem State.setVf_ctx_j (s : State) (i : Nat) (v : Vf) (j : Nat) : (s.setVf i v).ctx j = s.ctx j := rfl
@[simp] theorem State.setVf_link_j (s : State) (i : Nat) (v : Vf) (j : Nat) : (s.setVf i v).link j = s.link j := rfl
@[simp] theorem State.setVf_wearOf_j (s : State) (i : Nat) (v : Vf) (j : Nat) : (s.setVf i v).wearOf j = s.wearOf j := rfl
@[simp] theorem State.setVf_ctrl_j (s : State) (i : Nat) (v : Vf) (j : Nat) : (s.setVf i v).ctrl j = s.ctrl j := rfl

/-! `setLink`. -/

@[simp] theorem State.setLink_link_same (s : State) (i : Nat) (v : Link) : (s.setLink i v).link i = v :=
  fget_fset_same _ _ _ _

theorem State.setLink_link_ne (s : State) {i j : Nat} (v : Link) (h : j ≠ i) : (s.setLink i v).link j = s.link j :=
  fget_fset_other _ _ _ _ h

theorem State.setLink_link_eq (s : State) (i : Nat) (v : Link) (j : Nat) :
    (s.setLink i v).link j = if j = i then v else s.link j := by
  by_cases h : j = i
  · rw [if_pos h, h, State.setLink_link_same]
  · rw [if_neg h, State.setLink_link_ne s v h]

@[simp] theorem State.setLink_cur (s : State) (i : Nat) (v : Link) : (s.setLink i v).cur = s.cur := rfl
@[simp] theorem State.setLink_agenda (s : State) (i : Nat) (v : Link) : (s.setLink i v).agenda = s.agenda := rfl
@[simp] theorem State.setLink_clk (s : State) (i : Nat) (v : Link) : (s.setLink i v).clk = s.clk := rfl
@[simp] theorem State.setLink_coreClk (s : State) (i : Nat) (v : Link) : (s.setLink i v).coreClk = s.coreClk := rfl
@[simp] theorem State.setLink_harts (s : State) (i : Nat) (v : Link) : (s.setLink i v).harts = s.harts := rfl
@[simp] theorem State.setLink_cores (s : State) (i : Nat) (v : Link) : (s.setLink i v).cores = s.cores := rfl
@[simp] theorem State.setLink_presses (s : State) (i : Nat) (v : Link) : (s.setLink i v).presses = s.presses := rfl
@[simp] theorem State.setLink_dies (s : State) (i : Nat) (v : Link) : (s.setLink i v).dies = s.dies := rfl
@[simp] theorem State.setLink_ctxs (s : State) (i : Nat) (v : Link) : (s.setLink i v).ctxs = s.ctxs := rfl
@[simp] theorem State.setLink_vfs (s : State) (i : Nat) (v : Link) : (s.setLink i v).vfs = s.vfs := rfl
@[simp] theorem State.setLink_hub (s : State) (i : Nat) (v : Link) : (s.setLink i v).hub = s.hub := rfl
@[simp] theorem State.setLink_wear (s : State) (i : Nat) (v : Link) : (s.setLink i v).wear = s.wear := rfl
@[simp] theorem State.setLink_ctrls (s : State) (i : Nat) (v : Link) : (s.setLink i v).ctrls = s.ctrls := rfl
@[simp] theorem State.setLink_mem (s : State) (i : Nat) (v : Link) : (s.setLink i v).mem = s.mem := rfl
@[simp] theorem State.setLink_tlb (s : State) (i : Nat) (v : Link) : (s.setLink i v).tlb = s.tlb := rfl
@[simp] theorem State.setLink_flaws (s : State) (i : Nat) (v : Link) : (s.setLink i v).flaws = s.flaws := rfl
@[simp] theorem State.setLink_flawClk (s : State) (i : Nat) (v : Link) : (s.setLink i v).flawClk = s.flawClk := rfl
@[simp] theorem State.setLink_poison (s : State) (i : Nat) (v : Link) : (s.setLink i v).poison = s.poison := rfl
@[simp] theorem State.setLink_recordOrder (s : State) (i : Nat) (v : Link) : (s.setLink i v).recordOrder = s.recordOrder := rfl
@[simp] theorem State.setLink_inband (s : State) (i : Nat) (v : Link) : (s.setLink i v).inband = s.inband := rfl
@[simp] theorem State.setLink_stale (s : State) (i : Nat) (v : Link) : (s.setLink i v).stale = s.stale := rfl
@[simp] theorem State.setLink_marks (s : State) (i : Nat) (v : Link) : (s.setLink i v).marks = s.marks := rfl
@[simp] theorem State.setLink_issued (s : State) (i : Nat) (v : Link) : (s.setLink i v).issued = s.issued := rfl
@[simp] theorem State.setLink_selfTests (s : State) (i : Nat) (v : Link) : (s.setLink i v).selfTests = s.selfTests := rfl
@[simp] theorem State.setLink_tests (s : State) (i : Nat) (v : Link) : (s.setLink i v).tests = s.tests := rfl
@[simp] theorem State.setLink_recent (s : State) (i : Nat) (v : Link) : (s.setLink i v).recent = s.recent := rfl
@[simp] theorem State.setLink_rowSpares (s : State) (i : Nat) (v : Link) : (s.setLink i v).rowSpares = s.rowSpares := rfl
@[simp] theorem State.setLink_seqNo (s : State) (i : Nat) (v : Link) : (s.setLink i v).seqNo = s.seqNo := rfl
@[simp] theorem State.setLink_freeNo (s : State) (i : Nat) (v : Link) : (s.setLink i v).freeNo = s.freeNo := rfl
@[simp] theorem State.setLink_hart_j (s : State) (i : Nat) (v : Link) (j : Nat) : (s.setLink i v).hart j = s.hart j := rfl
@[simp] theorem State.setLink_core_j (s : State) (i : Nat) (v : Link) (j : Nat) : (s.setLink i v).core j = s.core j := rfl
@[simp] theorem State.setLink_press_j (s : State) (i : Nat) (v : Link) (j : Nat) : (s.setLink i v).press j = s.press j := rfl
@[simp] theorem State.setLink_die_j (s : State) (i : Nat) (v : Link) (j : Nat) : (s.setLink i v).die j = s.die j := rfl
@[simp] theorem State.setLink_ctx_j (s : State) (i : Nat) (v : Link) (j : Nat) : (s.setLink i v).ctx j = s.ctx j := rfl
@[simp] theorem State.setLink_vf_j (s : State) (i : Nat) (v : Link) (j : Nat) : (s.setLink i v).vf j = s.vf j := rfl
@[simp] theorem State.setLink_wearOf_j (s : State) (i : Nat) (v : Link) (j : Nat) : (s.setLink i v).wearOf j = s.wearOf j := rfl
@[simp] theorem State.setLink_ctrl_j (s : State) (i : Nat) (v : Link) (j : Nat) : (s.setLink i v).ctrl j = s.ctrl j := rfl

/-! `setWear`. -/

@[simp] theorem State.setWear_wearOf_same (s : State) (i : Nat) (v : Wear) : (s.setWear i v).wearOf i = v :=
  fget_fset_same _ _ _ _

theorem State.setWear_wearOf_ne (s : State) {i j : Nat} (v : Wear) (h : j ≠ i) : (s.setWear i v).wearOf j = s.wearOf j :=
  fget_fset_other _ _ _ _ h

theorem State.setWear_wearOf_eq (s : State) (i : Nat) (v : Wear) (j : Nat) :
    (s.setWear i v).wearOf j = if j = i then v else s.wearOf j := by
  by_cases h : j = i
  · rw [if_pos h, h, State.setWear_wearOf_same]
  · rw [if_neg h, State.setWear_wearOf_ne s v h]

@[simp] theorem State.setWear_cur (s : State) (i : Nat) (v : Wear) : (s.setWear i v).cur = s.cur := rfl
@[simp] theorem State.setWear_agenda (s : State) (i : Nat) (v : Wear) : (s.setWear i v).agenda = s.agenda := rfl
@[simp] theorem State.setWear_clk (s : State) (i : Nat) (v : Wear) : (s.setWear i v).clk = s.clk := rfl
@[simp] theorem State.setWear_coreClk (s : State) (i : Nat) (v : Wear) : (s.setWear i v).coreClk = s.coreClk := rfl
@[simp] theorem State.setWear_harts (s : State) (i : Nat) (v : Wear) : (s.setWear i v).harts = s.harts := rfl
@[simp] theorem State.setWear_cores (s : State) (i : Nat) (v : Wear) : (s.setWear i v).cores = s.cores := rfl
@[simp] theorem State.setWear_presses (s : State) (i : Nat) (v : Wear) : (s.setWear i v).presses = s.presses := rfl
@[simp] theorem State.setWear_dies (s : State) (i : Nat) (v : Wear) : (s.setWear i v).dies = s.dies := rfl
@[simp] theorem State.setWear_ctxs (s : State) (i : Nat) (v : Wear) : (s.setWear i v).ctxs = s.ctxs := rfl
@[simp] theorem State.setWear_vfs (s : State) (i : Nat) (v : Wear) : (s.setWear i v).vfs = s.vfs := rfl
@[simp] theorem State.setWear_hub (s : State) (i : Nat) (v : Wear) : (s.setWear i v).hub = s.hub := rfl
@[simp] theorem State.setWear_links (s : State) (i : Nat) (v : Wear) : (s.setWear i v).links = s.links := rfl
@[simp] theorem State.setWear_ctrls (s : State) (i : Nat) (v : Wear) : (s.setWear i v).ctrls = s.ctrls := rfl
@[simp] theorem State.setWear_mem (s : State) (i : Nat) (v : Wear) : (s.setWear i v).mem = s.mem := rfl
@[simp] theorem State.setWear_tlb (s : State) (i : Nat) (v : Wear) : (s.setWear i v).tlb = s.tlb := rfl
@[simp] theorem State.setWear_flaws (s : State) (i : Nat) (v : Wear) : (s.setWear i v).flaws = s.flaws := rfl
@[simp] theorem State.setWear_flawClk (s : State) (i : Nat) (v : Wear) : (s.setWear i v).flawClk = s.flawClk := rfl
@[simp] theorem State.setWear_poison (s : State) (i : Nat) (v : Wear) : (s.setWear i v).poison = s.poison := rfl
@[simp] theorem State.setWear_recordOrder (s : State) (i : Nat) (v : Wear) : (s.setWear i v).recordOrder = s.recordOrder := rfl
@[simp] theorem State.setWear_inband (s : State) (i : Nat) (v : Wear) : (s.setWear i v).inband = s.inband := rfl
@[simp] theorem State.setWear_stale (s : State) (i : Nat) (v : Wear) : (s.setWear i v).stale = s.stale := rfl
@[simp] theorem State.setWear_marks (s : State) (i : Nat) (v : Wear) : (s.setWear i v).marks = s.marks := rfl
@[simp] theorem State.setWear_issued (s : State) (i : Nat) (v : Wear) : (s.setWear i v).issued = s.issued := rfl
@[simp] theorem State.setWear_selfTests (s : State) (i : Nat) (v : Wear) : (s.setWear i v).selfTests = s.selfTests := rfl
@[simp] theorem State.setWear_tests (s : State) (i : Nat) (v : Wear) : (s.setWear i v).tests = s.tests := rfl
@[simp] theorem State.setWear_recent (s : State) (i : Nat) (v : Wear) : (s.setWear i v).recent = s.recent := rfl
@[simp] theorem State.setWear_rowSpares (s : State) (i : Nat) (v : Wear) : (s.setWear i v).rowSpares = s.rowSpares := rfl
@[simp] theorem State.setWear_seqNo (s : State) (i : Nat) (v : Wear) : (s.setWear i v).seqNo = s.seqNo := rfl
@[simp] theorem State.setWear_freeNo (s : State) (i : Nat) (v : Wear) : (s.setWear i v).freeNo = s.freeNo := rfl
@[simp] theorem State.setWear_hart_j (s : State) (i : Nat) (v : Wear) (j : Nat) : (s.setWear i v).hart j = s.hart j := rfl
@[simp] theorem State.setWear_core_j (s : State) (i : Nat) (v : Wear) (j : Nat) : (s.setWear i v).core j = s.core j := rfl
@[simp] theorem State.setWear_press_j (s : State) (i : Nat) (v : Wear) (j : Nat) : (s.setWear i v).press j = s.press j := rfl
@[simp] theorem State.setWear_die_j (s : State) (i : Nat) (v : Wear) (j : Nat) : (s.setWear i v).die j = s.die j := rfl
@[simp] theorem State.setWear_ctx_j (s : State) (i : Nat) (v : Wear) (j : Nat) : (s.setWear i v).ctx j = s.ctx j := rfl
@[simp] theorem State.setWear_vf_j (s : State) (i : Nat) (v : Wear) (j : Nat) : (s.setWear i v).vf j = s.vf j := rfl
@[simp] theorem State.setWear_link_j (s : State) (i : Nat) (v : Wear) (j : Nat) : (s.setWear i v).link j = s.link j := rfl
@[simp] theorem State.setWear_ctrl_j (s : State) (i : Nat) (v : Wear) (j : Nat) : (s.setWear i v).ctrl j = s.ctrl j := rfl

/-! `setCtrl`. -/

@[simp] theorem State.setCtrl_ctrl_same (s : State) (i : Nat) (v : Ctrl) : (s.setCtrl i v).ctrl i = v :=
  fget_fset_same _ _ _ _

theorem State.setCtrl_ctrl_ne (s : State) {i j : Nat} (v : Ctrl) (h : j ≠ i) : (s.setCtrl i v).ctrl j = s.ctrl j :=
  fget_fset_other _ _ _ _ h

theorem State.setCtrl_ctrl_eq (s : State) (i : Nat) (v : Ctrl) (j : Nat) :
    (s.setCtrl i v).ctrl j = if j = i then v else s.ctrl j := by
  by_cases h : j = i
  · rw [if_pos h, h, State.setCtrl_ctrl_same]
  · rw [if_neg h, State.setCtrl_ctrl_ne s v h]

@[simp] theorem State.setCtrl_cur (s : State) (i : Nat) (v : Ctrl) : (s.setCtrl i v).cur = s.cur := rfl
@[simp] theorem State.setCtrl_agenda (s : State) (i : Nat) (v : Ctrl) : (s.setCtrl i v).agenda = s.agenda := rfl
@[simp] theorem State.setCtrl_clk (s : State) (i : Nat) (v : Ctrl) : (s.setCtrl i v).clk = s.clk := rfl
@[simp] theorem State.setCtrl_coreClk (s : State) (i : Nat) (v : Ctrl) : (s.setCtrl i v).coreClk = s.coreClk := rfl
@[simp] theorem State.setCtrl_harts (s : State) (i : Nat) (v : Ctrl) : (s.setCtrl i v).harts = s.harts := rfl
@[simp] theorem State.setCtrl_cores (s : State) (i : Nat) (v : Ctrl) : (s.setCtrl i v).cores = s.cores := rfl
@[simp] theorem State.setCtrl_presses (s : State) (i : Nat) (v : Ctrl) : (s.setCtrl i v).presses = s.presses := rfl
@[simp] theorem State.setCtrl_dies (s : State) (i : Nat) (v : Ctrl) : (s.setCtrl i v).dies = s.dies := rfl
@[simp] theorem State.setCtrl_ctxs (s : State) (i : Nat) (v : Ctrl) : (s.setCtrl i v).ctxs = s.ctxs := rfl
@[simp] theorem State.setCtrl_vfs (s : State) (i : Nat) (v : Ctrl) : (s.setCtrl i v).vfs = s.vfs := rfl
@[simp] theorem State.setCtrl_hub (s : State) (i : Nat) (v : Ctrl) : (s.setCtrl i v).hub = s.hub := rfl
@[simp] theorem State.setCtrl_links (s : State) (i : Nat) (v : Ctrl) : (s.setCtrl i v).links = s.links := rfl
@[simp] theorem State.setCtrl_wear (s : State) (i : Nat) (v : Ctrl) : (s.setCtrl i v).wear = s.wear := rfl
@[simp] theorem State.setCtrl_mem (s : State) (i : Nat) (v : Ctrl) : (s.setCtrl i v).mem = s.mem := rfl
@[simp] theorem State.setCtrl_tlb (s : State) (i : Nat) (v : Ctrl) : (s.setCtrl i v).tlb = s.tlb := rfl
@[simp] theorem State.setCtrl_flaws (s : State) (i : Nat) (v : Ctrl) : (s.setCtrl i v).flaws = s.flaws := rfl
@[simp] theorem State.setCtrl_flawClk (s : State) (i : Nat) (v : Ctrl) : (s.setCtrl i v).flawClk = s.flawClk := rfl
@[simp] theorem State.setCtrl_poison (s : State) (i : Nat) (v : Ctrl) : (s.setCtrl i v).poison = s.poison := rfl
@[simp] theorem State.setCtrl_recordOrder (s : State) (i : Nat) (v : Ctrl) : (s.setCtrl i v).recordOrder = s.recordOrder := rfl
@[simp] theorem State.setCtrl_inband (s : State) (i : Nat) (v : Ctrl) : (s.setCtrl i v).inband = s.inband := rfl
@[simp] theorem State.setCtrl_stale (s : State) (i : Nat) (v : Ctrl) : (s.setCtrl i v).stale = s.stale := rfl
@[simp] theorem State.setCtrl_marks (s : State) (i : Nat) (v : Ctrl) : (s.setCtrl i v).marks = s.marks := rfl
@[simp] theorem State.setCtrl_issued (s : State) (i : Nat) (v : Ctrl) : (s.setCtrl i v).issued = s.issued := rfl
@[simp] theorem State.setCtrl_selfTests (s : State) (i : Nat) (v : Ctrl) : (s.setCtrl i v).selfTests = s.selfTests := rfl
@[simp] theorem State.setCtrl_tests (s : State) (i : Nat) (v : Ctrl) : (s.setCtrl i v).tests = s.tests := rfl
@[simp] theorem State.setCtrl_recent (s : State) (i : Nat) (v : Ctrl) : (s.setCtrl i v).recent = s.recent := rfl
@[simp] theorem State.setCtrl_rowSpares (s : State) (i : Nat) (v : Ctrl) : (s.setCtrl i v).rowSpares = s.rowSpares := rfl
@[simp] theorem State.setCtrl_seqNo (s : State) (i : Nat) (v : Ctrl) : (s.setCtrl i v).seqNo = s.seqNo := rfl
@[simp] theorem State.setCtrl_freeNo (s : State) (i : Nat) (v : Ctrl) : (s.setCtrl i v).freeNo = s.freeNo := rfl
@[simp] theorem State.setCtrl_hart_j (s : State) (i : Nat) (v : Ctrl) (j : Nat) : (s.setCtrl i v).hart j = s.hart j := rfl
@[simp] theorem State.setCtrl_core_j (s : State) (i : Nat) (v : Ctrl) (j : Nat) : (s.setCtrl i v).core j = s.core j := rfl
@[simp] theorem State.setCtrl_press_j (s : State) (i : Nat) (v : Ctrl) (j : Nat) : (s.setCtrl i v).press j = s.press j := rfl
@[simp] theorem State.setCtrl_die_j (s : State) (i : Nat) (v : Ctrl) (j : Nat) : (s.setCtrl i v).die j = s.die j := rfl
@[simp] theorem State.setCtrl_ctx_j (s : State) (i : Nat) (v : Ctrl) (j : Nat) : (s.setCtrl i v).ctx j = s.ctx j := rfl
@[simp] theorem State.setCtrl_vf_j (s : State) (i : Nat) (v : Ctrl) (j : Nat) : (s.setCtrl i v).vf j = s.vf j := rfl
@[simp] theorem State.setCtrl_link_j (s : State) (i : Nat) (v : Ctrl) (j : Nat) : (s.setCtrl i v).link j = s.link j := rfl
@[simp] theorem State.setCtrl_wearOf_j (s : State) (i : Nat) (v : Ctrl) (j : Nat) : (s.setCtrl i v).wearOf j = s.wearOf j := rfl

/-! The acting hart and its core. -/

theorem State.setMe_def (s : State) (h : Hart) : s.setMe h = s.setHart s.cur h := rfl
@[simp] theorem State.setMe_me (s : State) (h : Hart) : (s.setMe h).me = h := State.setHart_hart_same s s.cur h
@[simp] theorem State.setMe_hart (s : State) (h : Hart) : (s.setMe h).hart s.cur = h := State.setHart_hart_same s s.cur h
theorem State.setMe_hart_ne (s : State) (h : Hart) {j : Nat} (n : j ≠ s.cur) : (s.setMe h).hart j = s.hart j :=
  State.setHart_hart_ne s h n
@[simp] theorem State.setMyCore_core (s : State) (c : Core) : (s.setMyCore c).core s.myCoreId = c :=
  State.setCore_core_same s s.myCoreId c
@[simp] theorem State.setMyCore_myCore (s : State) (c : Core) : (s.setMyCore c).myCore = c :=
  State.setCore_core_same s s.myCoreId c
@[simp] theorem State.setMyCore_me (s : State) (c : Core) : (s.setMyCore c).me = s.me := rfl
@[simp] theorem State.setMe_setMe (s : State) (h k : Hart) : ((s.setMe h).setMe k).me = k := State.setMe_me _ k
@[simp] theorem State.setMe_cur (s : State) (h : Hart) : (s.setMe h).cur = s.cur := rfl
@[simp] theorem State.setMyCore_cur (s : State) (c : Core) : (s.setMyCore c).cur = s.cur := rfl
@[simp] theorem State.setMe_agenda (s : State) (h : Hart) : (s.setMe h).agenda = s.agenda := rfl
@[simp] theorem State.setMyCore_agenda (s : State) (c : Core) : (s.setMyCore c).agenda = s.agenda := rfl
@[simp] theorem State.setMe_clk (s : State) (h : Hart) : (s.setMe h).clk = s.clk := rfl
@[simp] theorem State.setMyCore_clk (s : State) (c : Core) : (s.setMyCore c).clk = s.clk := rfl
@[simp] theorem State.setMe_coreClk (s : State) (h : Hart) : (s.setMe h).coreClk = s.coreClk := rfl
@[simp] theorem State.setMyCore_coreClk (s : State) (c : Core) : (s.setMyCore c).coreClk = s.coreClk := rfl
@[simp] theorem State.setMyCore_harts (s : State) (c : Core) : (s.setMyCore c).harts = s.harts := rfl
@[simp] theorem State.setMe_cores (s : State) (h : Hart) : (s.setMe h).cores = s.cores := rfl
@[simp] theorem State.setMe_presses (s : State) (h : Hart) : (s.setMe h).presses = s.presses := rfl
@[simp] theorem State.setMyCore_presses (s : State) (c : Core) : (s.setMyCore c).presses = s.presses := rfl
@[simp] theorem State.setMe_dies (s : State) (h : Hart) : (s.setMe h).dies = s.dies := rfl
@[simp] theorem State.setMyCore_dies (s : State) (c : Core) : (s.setMyCore c).dies = s.dies := rfl
@[simp] theorem State.setMe_ctxs (s : State) (h : Hart) : (s.setMe h).ctxs = s.ctxs := rfl
@[simp] theorem State.setMyCore_ctxs (s : State) (c : Core) : (s.setMyCore c).ctxs = s.ctxs := rfl
@[simp] theorem State.setMe_vfs (s : State) (h : Hart) : (s.setMe h).vfs = s.vfs := rfl
@[simp] theorem State.setMyCore_vfs (s : State) (c : Core) : (s.setMyCore c).vfs = s.vfs := rfl
@[simp] theorem State.setMe_hub (s : State) (h : Hart) : (s.setMe h).hub = s.hub := rfl
@[simp] theorem State.setMyCore_hub (s : State) (c : Core) : (s.setMyCore c).hub = s.hub := rfl
@[simp] theorem State.setMe_links (s : State) (h : Hart) : (s.setMe h).links = s.links := rfl
@[simp] theorem State.setMyCore_links (s : State) (c : Core) : (s.setMyCore c).links = s.links := rfl
@[simp] theorem State.setMe_wear (s : State) (h : Hart) : (s.setMe h).wear = s.wear := rfl
@[simp] theorem State.setMyCore_wear (s : State) (c : Core) : (s.setMyCore c).wear = s.wear := rfl
@[simp] theorem State.setMe_ctrls (s : State) (h : Hart) : (s.setMe h).ctrls = s.ctrls := rfl
@[simp] theorem State.setMyCore_ctrls (s : State) (c : Core) : (s.setMyCore c).ctrls = s.ctrls := rfl
@[simp] theorem State.setMe_mem (s : State) (h : Hart) : (s.setMe h).mem = s.mem := rfl
@[simp] theorem State.setMyCore_mem (s : State) (c : Core) : (s.setMyCore c).mem = s.mem := rfl
@[simp] theorem State.setMe_tlb (s : State) (h : Hart) : (s.setMe h).tlb = s.tlb := rfl
@[simp] theorem State.setMyCore_tlb (s : State) (c : Core) : (s.setMyCore c).tlb = s.tlb := rfl
@[simp] theorem State.setMe_flaws (s : State) (h : Hart) : (s.setMe h).flaws = s.flaws := rfl
@[simp] theorem State.setMyCore_flaws (s : State) (c : Core) : (s.setMyCore c).flaws = s.flaws := rfl
@[simp] theorem State.setMe_flawClk (s : State) (h : Hart) : (s.setMe h).flawClk = s.flawClk := rfl
@[simp] theorem State.setMyCore_flawClk (s : State) (c : Core) : (s.setMyCore c).flawClk = s.flawClk := rfl
@[simp] theorem State.setMe_poison (s : State) (h : Hart) : (s.setMe h).poison = s.poison := rfl
@[simp] theorem State.setMyCore_poison (s : State) (c : Core) : (s.setMyCore c).poison = s.poison := rfl
@[simp] theorem State.setMe_recordOrder (s : State) (h : Hart) : (s.setMe h).recordOrder = s.recordOrder := rfl
@[simp] theorem State.setMyCore_recordOrder (s : State) (c : Core) : (s.setMyCore c).recordOrder = s.recordOrder := rfl
@[simp] theorem State.setMe_inband (s : State) (h : Hart) : (s.setMe h).inband = s.inband := rfl
@[simp] theorem State.setMyCore_inband (s : State) (c : Core) : (s.setMyCore c).inband = s.inband := rfl
@[simp] theorem State.setMe_stale (s : State) (h : Hart) : (s.setMe h).stale = s.stale := rfl
@[simp] theorem State.setMyCore_stale (s : State) (c : Core) : (s.setMyCore c).stale = s.stale := rfl
@[simp] theorem State.setMe_marks (s : State) (h : Hart) : (s.setMe h).marks = s.marks := rfl
@[simp] theorem State.setMyCore_marks (s : State) (c : Core) : (s.setMyCore c).marks = s.marks := rfl
@[simp] theorem State.setMe_issued (s : State) (h : Hart) : (s.setMe h).issued = s.issued := rfl
@[simp] theorem State.setMyCore_issued (s : State) (c : Core) : (s.setMyCore c).issued = s.issued := rfl
@[simp] theorem State.setMe_selfTests (s : State) (h : Hart) : (s.setMe h).selfTests = s.selfTests := rfl
@[simp] theorem State.setMyCore_selfTests (s : State) (c : Core) : (s.setMyCore c).selfTests = s.selfTests := rfl
@[simp] theorem State.setMe_tests (s : State) (h : Hart) : (s.setMe h).tests = s.tests := rfl
@[simp] theorem State.setMyCore_tests (s : State) (c : Core) : (s.setMyCore c).tests = s.tests := rfl
@[simp] theorem State.setMe_recent (s : State) (h : Hart) : (s.setMe h).recent = s.recent := rfl
@[simp] theorem State.setMyCore_recent (s : State) (c : Core) : (s.setMyCore c).recent = s.recent := rfl
@[simp] theorem State.setMe_rowSpares (s : State) (h : Hart) : (s.setMe h).rowSpares = s.rowSpares := rfl
@[simp] theorem State.setMyCore_rowSpares (s : State) (c : Core) : (s.setMyCore c).rowSpares = s.rowSpares := rfl
@[simp] theorem State.setMe_seqNo (s : State) (h : Hart) : (s.setMe h).seqNo = s.seqNo := rfl
@[simp] theorem State.setMyCore_seqNo (s : State) (c : Core) : (s.setMyCore c).seqNo = s.seqNo := rfl
@[simp] theorem State.setMe_freeNo (s : State) (h : Hart) : (s.setMe h).freeNo = s.freeNo := rfl
@[simp] theorem State.setMyCore_freeNo (s : State) (c : Core) : (s.setMyCore c).freeNo = s.freeNo := rfl
@[simp] theorem State.setMe_myCoreId (s : State) (h : Hart) : (s.setMe h).myCoreId = s.myCoreId := rfl
@[simp] theorem State.setMe_myCore (s : State) (h : Hart) : (s.setMe h).myCore = s.myCore := rfl
@[simp] theorem State.setMe_myPressId (s : State) (h : Hart) : (s.setMe h).myPressId = s.myPressId := rfl
@[simp] theorem State.setMe_myPress (s : State) (h : Hart) : (s.setMe h).myPress = s.myPress := rfl
@[simp] theorem State.setMe_myCtxId (s : State) (h : Hart) : (s.setMe h).myCtxId = s.myCtxId := rfl
@[simp] theorem State.setMe_myCtx (s : State) (h : Hart) : (s.setMe h).myCtx = s.myCtx := rfl

/-! Registers of a hart. -/

@[simp] theorem Hart.setX_life (h : Hart) (r : XReg) (v : Word64) : (h.setX r v).life = h.life := by
  unfold Hart.setX; split <;> rfl
@[simp] theorem Hart.setX_pc (h : Hart) (r : XReg) (v : Word64) : (h.setX r v).pc = h.pc := by
  unfold Hart.setX; split <;> rfl
@[simp] theorem Hart.setX_npc (h : Hart) (r : XReg) (v : Word64) : (h.setX r v).npc = h.npc := by
  unfold Hart.setX; split <;> rfl
@[simp] theorem Hart.setX_ir (h : Hart) (r : XReg) (v : Word64) : (h.setX r v).ir = h.ir := by
  unfold Hart.setX; split <;> rfl
@[simp] theorem Hart.setX_v (h : Hart) (r : XReg) (v : Word64) : (h.setX r v).v = h.v := by
  unfold Hart.setX; split <;> rfl
@[simp] theorem Hart.setX_p (h : Hart) (r : XReg) (v : Word64) : (h.setX r v).p = h.p := by
  unfold Hart.setX; split <;> rfl
@[simp] theorem Hart.setX_csr (h : Hart) (r : XReg) (v : Word64) : (h.setX r v).csr = h.csr := by
  unfold Hart.setX; split <;> rfl
@[simp] theorem Hart.setX_loops (h : Hart) (r : XReg) (v : Word64) : (h.setX r v).loops = h.loops := by
  unfold Hart.setX; split <;> rfl
@[simp] theorem Hart.setX_handler (h : Hart) (r : XReg) (v : Word64) : (h.setX r v).handler = h.handler := by
  unfold Hart.setX; split <;> rfl
@[simp] theorem Hart.setX_pmInForce (h : Hart) (r : XReg) (v : Word64) : (h.setX r v).pmInForce = h.pmInForce := by
  unfold Hart.setX; split <;> rfl
@[simp] theorem Hart.setX_stall (h : Hart) (r : XReg) (v : Word64) : (h.setX r v).stall = h.stall := by
  unfold Hart.setX; split <;> rfl
@[simp] theorem Hart.setX_grant (h : Hart) (r : XReg) (v : Word64) : (h.setX r v).grant = h.grant := by
  unfold Hart.setX; split <;> rfl
@[simp] theorem Hart.setX_lmap (h : Hart) (r : XReg) (v : Word64) : (h.setX r v).lmap = h.lmap := by
  unfold Hart.setX; split <;> rfl
@[simp] theorem Hart.setX_age (h : Hart) (r : XReg) (v : Word64) : (h.setX r v).age = h.age := by
  unfold Hart.setX; split <;> rfl
@[simp] theorem Hart.setX_header (h : Hart) (r : XReg) (v : Word64) : (h.setX r v).header = h.header := by
  unfold Hart.setX; split <;> rfl
@[simp] theorem Hart.setX_task (h : Hart) (r : XReg) (v : Word64) : (h.setX r v).task = h.task := by
  unfold Hart.setX; split <;> rfl
@[simp] theorem Hart.setX_dispatchPc (h : Hart) (r : XReg) (v : Word64) : (h.setX r v).dispatchPc = h.dispatchPc := by
  unfold Hart.setX; split <;> rfl
@[simp] theorem Hart.setX_window (h : Hart) (r : XReg) (v : Word64) : (h.setX r v).window = h.window := by
  unfold Hart.setX; split <;> rfl
@[simp] theorem Hart.setX_pendBar (h : Hart) (r : XReg) (v : Word64) : (h.setX r v).pendBar = h.pendBar := by
  unfold Hart.setX; split <;> rfl
@[simp] theorem Hart.setX_barAt (h : Hart) (r : XReg) (v : Word64) : (h.setX r v).barAt = h.barAt := by
  unfold Hart.setX; split <;> rfl
@[simp] theorem Hart.setX_out0 (h : Hart) (r : XReg) (v : Word64) : (h.setX r v).out0 = h.out0 := by
  unfold Hart.setX; split <;> rfl
@[simp] theorem Hart.setX_out1 (h : Hart) (r : XReg) (v : Word64) : (h.setX r v).out1 = h.out1 := by
  unfold Hart.setX; split <;> rfl
@[simp] theorem Hart.setX_wait (h : Hart) (r : XReg) (v : Word64) : (h.setX r v).wait = h.wait := by
  unfold Hart.setX; split <;> rfl
@[simp] theorem Hart.setX_waited (h : Hart) (r : XReg) (v : Word64) : (h.setX r v).waited = h.waited := by
  unfold Hart.setX; split <;> rfl
@[simp] theorem Hart.setX_parked (h : Hart) (r : XReg) (v : Word64) : (h.setX r v).parked = h.parked := by
  unfold Hart.setX; split <;> rfl
@[simp] theorem Hart.setX_waitSeq (h : Hart) (r : XReg) (v : Word64) : (h.setX r v).waitSeq = h.waitSeq := by
  unfold Hart.setX; split <;> rfl
@[simp] theorem Hart.setX_wake (h : Hart) (r : XReg) (v : Word64) : (h.setX r v).wake = h.wake := by
  unfold Hart.setX; split <;> rfl
@[simp] theorem Hart.setX_sup (h : Hart) (r : XReg) (v : Word64) : (h.setX r v).sup = h.sup := by
  unfold Hart.setX; split <;> rfl
@[simp] theorem Hart.setX_supNext (h : Hart) (r : XReg) (v : Word64) : (h.setX r v).supNext = h.supNext := by
  unfold Hart.setX; split <;> rfl
@[simp] theorem Hart.setX_stepping (h : Hart) (r : XReg) (v : Word64) : (h.setX r v).stepping = h.stepping := by
  unfold Hart.setX; split <;> rfl
@[simp] theorem Hart.setX_stepDone (h : Hart) (r : XReg) (v : Word64) : (h.setX r v).stepDone = h.stepDone := by
  unfold Hart.setX; split <;> rfl
@[simp] theorem Hart.setX_stopPend (h : Hart) (r : XReg) (v : Word64) : (h.setX r v).stopPend = h.stopPend := by
  unfold Hart.setX; split <;> rfl
@[simp] theorem Hart.setX_haltPend (h : Hart) (r : XReg) (v : Word64) : (h.setX r v).haltPend = h.haltPend := by
  unfold Hart.setX; split <;> rfl
@[simp] theorem Hart.setX_laneFault (h : Hart) (r : XReg) (v : Word64) : (h.setX r v).laneFault = h.laneFault := by
  unfold Hart.setX; split <;> rfl
@[simp] theorem Hart.setX_flit (h : Hart) (r : XReg) (v : Word64) : (h.setX r v).flit = h.flit := by
  unfold Hart.setX; split <;> rfl
@[simp] theorem Hart.setX_preempt (h : Hart) (r : XReg) (v : Word64) : (h.setX r v).preempt = h.preempt := by
  unfold Hart.setX; split <;> rfl
@[simp] theorem Hart.setP_life (h : Hart) (r : PReg) (v : BitVec 256) : (h.setP r v).life = h.life := by
  unfold Hart.setP; split <;> rfl
@[simp] theorem Hart.setP_pc (h : Hart) (r : PReg) (v : BitVec 256) : (h.setP r v).pc = h.pc := by
  unfold Hart.setP; split <;> rfl
@[simp] theorem Hart.setP_npc (h : Hart) (r : PReg) (v : BitVec 256) : (h.setP r v).npc = h.npc := by
  unfold Hart.setP; split <;> rfl
@[simp] theorem Hart.setP_ir (h : Hart) (r : PReg) (v : BitVec 256) : (h.setP r v).ir = h.ir := by
  unfold Hart.setP; split <;> rfl
@[simp] theorem Hart.setP_x (h : Hart) (r : PReg) (v : BitVec 256) : (h.setP r v).x = h.x := by
  unfold Hart.setP; split <;> rfl
@[simp] theorem Hart.setP_v (h : Hart) (r : PReg) (v : BitVec 256) : (h.setP r v).v = h.v := by
  unfold Hart.setP; split <;> rfl
@[simp] theorem Hart.setP_csr (h : Hart) (r : PReg) (v : BitVec 256) : (h.setP r v).csr = h.csr := by
  unfold Hart.setP; split <;> rfl
@[simp] theorem Hart.setP_loops (h : Hart) (r : PReg) (v : BitVec 256) : (h.setP r v).loops = h.loops := by
  unfold Hart.setP; split <;> rfl
@[simp] theorem Hart.setP_handler (h : Hart) (r : PReg) (v : BitVec 256) : (h.setP r v).handler = h.handler := by
  unfold Hart.setP; split <;> rfl
@[simp] theorem Hart.setP_pmInForce (h : Hart) (r : PReg) (v : BitVec 256) : (h.setP r v).pmInForce = h.pmInForce := by
  unfold Hart.setP; split <;> rfl
@[simp] theorem Hart.setP_stall (h : Hart) (r : PReg) (v : BitVec 256) : (h.setP r v).stall = h.stall := by
  unfold Hart.setP; split <;> rfl
@[simp] theorem Hart.setP_grant (h : Hart) (r : PReg) (v : BitVec 256) : (h.setP r v).grant = h.grant := by
  unfold Hart.setP; split <;> rfl
@[simp] theorem Hart.setP_lmap (h : Hart) (r : PReg) (v : BitVec 256) : (h.setP r v).lmap = h.lmap := by
  unfold Hart.setP; split <;> rfl
@[simp] theorem Hart.setP_age (h : Hart) (r : PReg) (v : BitVec 256) : (h.setP r v).age = h.age := by
  unfold Hart.setP; split <;> rfl
@[simp] theorem Hart.setP_header (h : Hart) (r : PReg) (v : BitVec 256) : (h.setP r v).header = h.header := by
  unfold Hart.setP; split <;> rfl
@[simp] theorem Hart.setP_task (h : Hart) (r : PReg) (v : BitVec 256) : (h.setP r v).task = h.task := by
  unfold Hart.setP; split <;> rfl
@[simp] theorem Hart.setP_dispatchPc (h : Hart) (r : PReg) (v : BitVec 256) : (h.setP r v).dispatchPc = h.dispatchPc := by
  unfold Hart.setP; split <;> rfl
@[simp] theorem Hart.setP_window (h : Hart) (r : PReg) (v : BitVec 256) : (h.setP r v).window = h.window := by
  unfold Hart.setP; split <;> rfl
@[simp] theorem Hart.setP_pendBar (h : Hart) (r : PReg) (v : BitVec 256) : (h.setP r v).pendBar = h.pendBar := by
  unfold Hart.setP; split <;> rfl
@[simp] theorem Hart.setP_barAt (h : Hart) (r : PReg) (v : BitVec 256) : (h.setP r v).barAt = h.barAt := by
  unfold Hart.setP; split <;> rfl
@[simp] theorem Hart.setP_out0 (h : Hart) (r : PReg) (v : BitVec 256) : (h.setP r v).out0 = h.out0 := by
  unfold Hart.setP; split <;> rfl
@[simp] theorem Hart.setP_out1 (h : Hart) (r : PReg) (v : BitVec 256) : (h.setP r v).out1 = h.out1 := by
  unfold Hart.setP; split <;> rfl
@[simp] theorem Hart.setP_wait (h : Hart) (r : PReg) (v : BitVec 256) : (h.setP r v).wait = h.wait := by
  unfold Hart.setP; split <;> rfl
@[simp] theorem Hart.setP_waited (h : Hart) (r : PReg) (v : BitVec 256) : (h.setP r v).waited = h.waited := by
  unfold Hart.setP; split <;> rfl
@[simp] theorem Hart.setP_parked (h : Hart) (r : PReg) (v : BitVec 256) : (h.setP r v).parked = h.parked := by
  unfold Hart.setP; split <;> rfl
@[simp] theorem Hart.setP_waitSeq (h : Hart) (r : PReg) (v : BitVec 256) : (h.setP r v).waitSeq = h.waitSeq := by
  unfold Hart.setP; split <;> rfl
@[simp] theorem Hart.setP_wake (h : Hart) (r : PReg) (v : BitVec 256) : (h.setP r v).wake = h.wake := by
  unfold Hart.setP; split <;> rfl
@[simp] theorem Hart.setP_sup (h : Hart) (r : PReg) (v : BitVec 256) : (h.setP r v).sup = h.sup := by
  unfold Hart.setP; split <;> rfl
@[simp] theorem Hart.setP_supNext (h : Hart) (r : PReg) (v : BitVec 256) : (h.setP r v).supNext = h.supNext := by
  unfold Hart.setP; split <;> rfl
@[simp] theorem Hart.setP_stepping (h : Hart) (r : PReg) (v : BitVec 256) : (h.setP r v).stepping = h.stepping := by
  unfold Hart.setP; split <;> rfl
@[simp] theorem Hart.setP_stepDone (h : Hart) (r : PReg) (v : BitVec 256) : (h.setP r v).stepDone = h.stepDone := by
  unfold Hart.setP; split <;> rfl
@[simp] theorem Hart.setP_stopPend (h : Hart) (r : PReg) (v : BitVec 256) : (h.setP r v).stopPend = h.stopPend := by
  unfold Hart.setP; split <;> rfl
@[simp] theorem Hart.setP_haltPend (h : Hart) (r : PReg) (v : BitVec 256) : (h.setP r v).haltPend = h.haltPend := by
  unfold Hart.setP; split <;> rfl
@[simp] theorem Hart.setP_laneFault (h : Hart) (r : PReg) (v : BitVec 256) : (h.setP r v).laneFault = h.laneFault := by
  unfold Hart.setP; split <;> rfl
@[simp] theorem Hart.setP_flit (h : Hart) (r : PReg) (v : BitVec 256) : (h.setP r v).flit = h.flit := by
  unfold Hart.setP; split <;> rfl
@[simp] theorem Hart.setP_preempt (h : Hart) (r : PReg) (v : BitVec 256) : (h.setP r v).preempt = h.preempt := by
  unfold Hart.setP; split <;> rfl
@[simp] theorem Hart.setV_life (h : Hart) (r : VReg) (v : VRegister) : (h.setV r v).life = h.life := rfl
@[simp] theorem Hart.setV_pc (h : Hart) (r : VReg) (v : VRegister) : (h.setV r v).pc = h.pc := rfl
@[simp] theorem Hart.setV_npc (h : Hart) (r : VReg) (v : VRegister) : (h.setV r v).npc = h.npc := rfl
@[simp] theorem Hart.setV_ir (h : Hart) (r : VReg) (v : VRegister) : (h.setV r v).ir = h.ir := rfl
@[simp] theorem Hart.setV_x (h : Hart) (r : VReg) (v : VRegister) : (h.setV r v).x = h.x := rfl
@[simp] theorem Hart.setV_p (h : Hart) (r : VReg) (v : VRegister) : (h.setV r v).p = h.p := rfl
@[simp] theorem Hart.setV_csr (h : Hart) (r : VReg) (v : VRegister) : (h.setV r v).csr = h.csr := rfl
@[simp] theorem Hart.setV_loops (h : Hart) (r : VReg) (v : VRegister) : (h.setV r v).loops = h.loops := rfl
@[simp] theorem Hart.setV_handler (h : Hart) (r : VReg) (v : VRegister) : (h.setV r v).handler = h.handler := rfl
@[simp] theorem Hart.setV_pmInForce (h : Hart) (r : VReg) (v : VRegister) : (h.setV r v).pmInForce = h.pmInForce := rfl
@[simp] theorem Hart.setV_stall (h : Hart) (r : VReg) (v : VRegister) : (h.setV r v).stall = h.stall := rfl
@[simp] theorem Hart.setV_grant (h : Hart) (r : VReg) (v : VRegister) : (h.setV r v).grant = h.grant := rfl
@[simp] theorem Hart.setV_lmap (h : Hart) (r : VReg) (v : VRegister) : (h.setV r v).lmap = h.lmap := rfl
@[simp] theorem Hart.setV_age (h : Hart) (r : VReg) (v : VRegister) : (h.setV r v).age = h.age := rfl
@[simp] theorem Hart.setV_header (h : Hart) (r : VReg) (v : VRegister) : (h.setV r v).header = h.header := rfl
@[simp] theorem Hart.setV_task (h : Hart) (r : VReg) (v : VRegister) : (h.setV r v).task = h.task := rfl
@[simp] theorem Hart.setV_dispatchPc (h : Hart) (r : VReg) (v : VRegister) : (h.setV r v).dispatchPc = h.dispatchPc := rfl
@[simp] theorem Hart.setV_window (h : Hart) (r : VReg) (v : VRegister) : (h.setV r v).window = h.window := rfl
@[simp] theorem Hart.setV_pendBar (h : Hart) (r : VReg) (v : VRegister) : (h.setV r v).pendBar = h.pendBar := rfl
@[simp] theorem Hart.setV_barAt (h : Hart) (r : VReg) (v : VRegister) : (h.setV r v).barAt = h.barAt := rfl
@[simp] theorem Hart.setV_out0 (h : Hart) (r : VReg) (v : VRegister) : (h.setV r v).out0 = h.out0 := rfl
@[simp] theorem Hart.setV_out1 (h : Hart) (r : VReg) (v : VRegister) : (h.setV r v).out1 = h.out1 := rfl
@[simp] theorem Hart.setV_wait (h : Hart) (r : VReg) (v : VRegister) : (h.setV r v).wait = h.wait := rfl
@[simp] theorem Hart.setV_waited (h : Hart) (r : VReg) (v : VRegister) : (h.setV r v).waited = h.waited := rfl
@[simp] theorem Hart.setV_parked (h : Hart) (r : VReg) (v : VRegister) : (h.setV r v).parked = h.parked := rfl
@[simp] theorem Hart.setV_waitSeq (h : Hart) (r : VReg) (v : VRegister) : (h.setV r v).waitSeq = h.waitSeq := rfl
@[simp] theorem Hart.setV_wake (h : Hart) (r : VReg) (v : VRegister) : (h.setV r v).wake = h.wake := rfl
@[simp] theorem Hart.setV_sup (h : Hart) (r : VReg) (v : VRegister) : (h.setV r v).sup = h.sup := rfl
@[simp] theorem Hart.setV_supNext (h : Hart) (r : VReg) (v : VRegister) : (h.setV r v).supNext = h.supNext := rfl
@[simp] theorem Hart.setV_stepping (h : Hart) (r : VReg) (v : VRegister) : (h.setV r v).stepping = h.stepping := rfl
@[simp] theorem Hart.setV_stepDone (h : Hart) (r : VReg) (v : VRegister) : (h.setV r v).stepDone = h.stepDone := rfl
@[simp] theorem Hart.setV_stopPend (h : Hart) (r : VReg) (v : VRegister) : (h.setV r v).stopPend = h.stopPend := rfl
@[simp] theorem Hart.setV_haltPend (h : Hart) (r : VReg) (v : VRegister) : (h.setV r v).haltPend = h.haltPend := rfl
@[simp] theorem Hart.setV_laneFault (h : Hart) (r : VReg) (v : VRegister) : (h.setV r v).laneFault = h.laneFault := rfl
@[simp] theorem Hart.setV_flit (h : Hart) (r : VReg) (v : VRegister) : (h.setV r v).flit = h.flit := rfl
@[simp] theorem Hart.setV_preempt (h : Hart) (r : VReg) (v : VRegister) : (h.setV r v).preempt = h.preempt := rfl
@[simp] theorem Hart.setLevel_life (h : Hart) (n : Nat) (l : LoopLevel) : (h.setLevel n l).life = h.life := rfl
@[simp] theorem Hart.setLevel_pc (h : Hart) (n : Nat) (l : LoopLevel) : (h.setLevel n l).pc = h.pc := rfl
@[simp] theorem Hart.setLevel_npc (h : Hart) (n : Nat) (l : LoopLevel) : (h.setLevel n l).npc = h.npc := rfl
@[simp] theorem Hart.setLevel_ir (h : Hart) (n : Nat) (l : LoopLevel) : (h.setLevel n l).ir = h.ir := rfl
@[simp] theorem Hart.setLevel_x (h : Hart) (n : Nat) (l : LoopLevel) : (h.setLevel n l).x = h.x := rfl
@[simp] theorem Hart.setLevel_v (h : Hart) (n : Nat) (l : LoopLevel) : (h.setLevel n l).v = h.v := rfl
@[simp] theorem Hart.setLevel_p (h : Hart) (n : Nat) (l : LoopLevel) : (h.setLevel n l).p = h.p := rfl
@[simp] theorem Hart.setLevel_csr (h : Hart) (n : Nat) (l : LoopLevel) : (h.setLevel n l).csr = h.csr := rfl
@[simp] theorem Hart.setLevel_handler (h : Hart) (n : Nat) (l : LoopLevel) : (h.setLevel n l).handler = h.handler := rfl
@[simp] theorem Hart.setLevel_pmInForce (h : Hart) (n : Nat) (l : LoopLevel) : (h.setLevel n l).pmInForce = h.pmInForce := rfl
@[simp] theorem Hart.setLevel_stall (h : Hart) (n : Nat) (l : LoopLevel) : (h.setLevel n l).stall = h.stall := rfl
@[simp] theorem Hart.setLevel_grant (h : Hart) (n : Nat) (l : LoopLevel) : (h.setLevel n l).grant = h.grant := rfl
@[simp] theorem Hart.setLevel_lmap (h : Hart) (n : Nat) (l : LoopLevel) : (h.setLevel n l).lmap = h.lmap := rfl
@[simp] theorem Hart.setLevel_age (h : Hart) (n : Nat) (l : LoopLevel) : (h.setLevel n l).age = h.age := rfl
@[simp] theorem Hart.setLevel_header (h : Hart) (n : Nat) (l : LoopLevel) : (h.setLevel n l).header = h.header := rfl
@[simp] theorem Hart.setLevel_task (h : Hart) (n : Nat) (l : LoopLevel) : (h.setLevel n l).task = h.task := rfl
@[simp] theorem Hart.setLevel_dispatchPc (h : Hart) (n : Nat) (l : LoopLevel) : (h.setLevel n l).dispatchPc = h.dispatchPc := rfl
@[simp] theorem Hart.setLevel_window (h : Hart) (n : Nat) (l : LoopLevel) : (h.setLevel n l).window = h.window := rfl
@[simp] theorem Hart.setLevel_pendBar (h : Hart) (n : Nat) (l : LoopLevel) : (h.setLevel n l).pendBar = h.pendBar := rfl
@[simp] theorem Hart.setLevel_barAt (h : Hart) (n : Nat) (l : LoopLevel) : (h.setLevel n l).barAt = h.barAt := rfl
@[simp] theorem Hart.setLevel_out0 (h : Hart) (n : Nat) (l : LoopLevel) : (h.setLevel n l).out0 = h.out0 := rfl
@[simp] theorem Hart.setLevel_out1 (h : Hart) (n : Nat) (l : LoopLevel) : (h.setLevel n l).out1 = h.out1 := rfl
@[simp] theorem Hart.setLevel_wait (h : Hart) (n : Nat) (l : LoopLevel) : (h.setLevel n l).wait = h.wait := rfl
@[simp] theorem Hart.setLevel_waited (h : Hart) (n : Nat) (l : LoopLevel) : (h.setLevel n l).waited = h.waited := rfl
@[simp] theorem Hart.setLevel_parked (h : Hart) (n : Nat) (l : LoopLevel) : (h.setLevel n l).parked = h.parked := rfl
@[simp] theorem Hart.setLevel_waitSeq (h : Hart) (n : Nat) (l : LoopLevel) : (h.setLevel n l).waitSeq = h.waitSeq := rfl
@[simp] theorem Hart.setLevel_wake (h : Hart) (n : Nat) (l : LoopLevel) : (h.setLevel n l).wake = h.wake := rfl
@[simp] theorem Hart.setLevel_sup (h : Hart) (n : Nat) (l : LoopLevel) : (h.setLevel n l).sup = h.sup := rfl
@[simp] theorem Hart.setLevel_supNext (h : Hart) (n : Nat) (l : LoopLevel) : (h.setLevel n l).supNext = h.supNext := rfl
@[simp] theorem Hart.setLevel_stepping (h : Hart) (n : Nat) (l : LoopLevel) : (h.setLevel n l).stepping = h.stepping := rfl
@[simp] theorem Hart.setLevel_stepDone (h : Hart) (n : Nat) (l : LoopLevel) : (h.setLevel n l).stepDone = h.stepDone := rfl
@[simp] theorem Hart.setLevel_stopPend (h : Hart) (n : Nat) (l : LoopLevel) : (h.setLevel n l).stopPend = h.stopPend := rfl
@[simp] theorem Hart.setLevel_haltPend (h : Hart) (n : Nat) (l : LoopLevel) : (h.setLevel n l).haltPend = h.haltPend := rfl
@[simp] theorem Hart.setLevel_laneFault (h : Hart) (n : Nat) (l : LoopLevel) : (h.setLevel n l).laneFault = h.laneFault := rfl
@[simp] theorem Hart.setLevel_flit (h : Hart) (n : Nat) (l : LoopLevel) : (h.setLevel n l).flit = h.flit := rfl
@[simp] theorem Hart.setLevel_preempt (h : Hart) (n : Nat) (l : LoopLevel) : (h.setLevel n l).preempt = h.preempt := rfl
@[simp] theorem Hart.addFlags_life (h : Hart) (f : BitVec 6) : (h.addFlags f).life = h.life := rfl
@[simp] theorem Hart.addFlags_pc (h : Hart) (f : BitVec 6) : (h.addFlags f).pc = h.pc := rfl
@[simp] theorem Hart.addFlags_npc (h : Hart) (f : BitVec 6) : (h.addFlags f).npc = h.npc := rfl
@[simp] theorem Hart.addFlags_ir (h : Hart) (f : BitVec 6) : (h.addFlags f).ir = h.ir := rfl
@[simp] theorem Hart.addFlags_x (h : Hart) (f : BitVec 6) : (h.addFlags f).x = h.x := rfl
@[simp] theorem Hart.addFlags_v (h : Hart) (f : BitVec 6) : (h.addFlags f).v = h.v := rfl
@[simp] theorem Hart.addFlags_p (h : Hart) (f : BitVec 6) : (h.addFlags f).p = h.p := rfl
@[simp] theorem Hart.addFlags_loops (h : Hart) (f : BitVec 6) : (h.addFlags f).loops = h.loops := rfl
@[simp] theorem Hart.addFlags_handler (h : Hart) (f : BitVec 6) : (h.addFlags f).handler = h.handler := rfl
@[simp] theorem Hart.addFlags_pmInForce (h : Hart) (f : BitVec 6) : (h.addFlags f).pmInForce = h.pmInForce := rfl
@[simp] theorem Hart.addFlags_stall (h : Hart) (f : BitVec 6) : (h.addFlags f).stall = h.stall := rfl
@[simp] theorem Hart.addFlags_grant (h : Hart) (f : BitVec 6) : (h.addFlags f).grant = h.grant := rfl
@[simp] theorem Hart.addFlags_lmap (h : Hart) (f : BitVec 6) : (h.addFlags f).lmap = h.lmap := rfl
@[simp] theorem Hart.addFlags_age (h : Hart) (f : BitVec 6) : (h.addFlags f).age = h.age := rfl
@[simp] theorem Hart.addFlags_header (h : Hart) (f : BitVec 6) : (h.addFlags f).header = h.header := rfl
@[simp] theorem Hart.addFlags_task (h : Hart) (f : BitVec 6) : (h.addFlags f).task = h.task := rfl
@[simp] theorem Hart.addFlags_dispatchPc (h : Hart) (f : BitVec 6) : (h.addFlags f).dispatchPc = h.dispatchPc := rfl
@[simp] theorem Hart.addFlags_window (h : Hart) (f : BitVec 6) : (h.addFlags f).window = h.window := rfl
@[simp] theorem Hart.addFlags_pendBar (h : Hart) (f : BitVec 6) : (h.addFlags f).pendBar = h.pendBar := rfl
@[simp] theorem Hart.addFlags_barAt (h : Hart) (f : BitVec 6) : (h.addFlags f).barAt = h.barAt := rfl
@[simp] theorem Hart.addFlags_out0 (h : Hart) (f : BitVec 6) : (h.addFlags f).out0 = h.out0 := rfl
@[simp] theorem Hart.addFlags_out1 (h : Hart) (f : BitVec 6) : (h.addFlags f).out1 = h.out1 := rfl
@[simp] theorem Hart.addFlags_wait (h : Hart) (f : BitVec 6) : (h.addFlags f).wait = h.wait := rfl
@[simp] theorem Hart.addFlags_waited (h : Hart) (f : BitVec 6) : (h.addFlags f).waited = h.waited := rfl
@[simp] theorem Hart.addFlags_parked (h : Hart) (f : BitVec 6) : (h.addFlags f).parked = h.parked := rfl
@[simp] theorem Hart.addFlags_waitSeq (h : Hart) (f : BitVec 6) : (h.addFlags f).waitSeq = h.waitSeq := rfl
@[simp] theorem Hart.addFlags_wake (h : Hart) (f : BitVec 6) : (h.addFlags f).wake = h.wake := rfl
@[simp] theorem Hart.addFlags_sup (h : Hart) (f : BitVec 6) : (h.addFlags f).sup = h.sup := rfl
@[simp] theorem Hart.addFlags_supNext (h : Hart) (f : BitVec 6) : (h.addFlags f).supNext = h.supNext := rfl
@[simp] theorem Hart.addFlags_stepping (h : Hart) (f : BitVec 6) : (h.addFlags f).stepping = h.stepping := rfl
@[simp] theorem Hart.addFlags_stepDone (h : Hart) (f : BitVec 6) : (h.addFlags f).stepDone = h.stepDone := rfl
@[simp] theorem Hart.addFlags_stopPend (h : Hart) (f : BitVec 6) : (h.addFlags f).stopPend = h.stopPend := rfl
@[simp] theorem Hart.addFlags_haltPend (h : Hart) (f : BitVec 6) : (h.addFlags f).haltPend = h.haltPend := rfl
@[simp] theorem Hart.addFlags_laneFault (h : Hart) (f : BitVec 6) : (h.addFlags f).laneFault = h.laneFault := rfl
@[simp] theorem Hart.addFlags_flit (h : Hart) (f : BitVec 6) : (h.addFlags f).flit = h.flit := rfl
@[simp] theorem Hart.addFlags_preempt (h : Hart) (f : BitVec 6) : (h.addFlags f).preempt = h.preempt := rfl

@[simp] theorem Hart.getX_zero (h : Hart) : h.getX 0 = 0 := rfl

/-- x0 reads as zero and discards writes, any other register holds what was written (R13). -/
theorem Hart.setX_getX (h : Hart) (r : XReg) (v : Word64) (q : XReg) :
    (h.setX r v).getX q = if q = r ∧ r ≠ 0 then v else h.getX q := by
  by_cases hr : r = 0
  · subst hr; rw [if_neg (fun h => h.2 rfl), Hart.setX, if_pos rfl]
  · rw [Hart.setX, if_neg hr]
    by_cases hq : q = r
    · rw [if_pos ⟨hq, hr⟩, hq, Hart.getX, if_neg hr]
      exact fget_fset_same _ _ _ _
    · rw [if_neg (fun h => hq h.1), Hart.getX, Hart.getX]
      have hn : q.toNat ≠ r.toNat := fun e => hq (BitVec.eq_of_toNat_eq e)
      rw [fget_fset_ne 0 h.x v hn]

/-- p0 reads all true and discards writes (R16). -/
theorem Hart.setP_getP (h : Hart) (r : PReg) (v : BitVec 256) (q : PReg) :
    (h.setP r v).getP q = if q = r ∧ r ≠ 0 then v else h.getP q := by
  by_cases hr : r = 0
  · subst hr; rw [if_neg (fun h => h.2 rfl), Hart.setP, if_pos rfl]
  · rw [Hart.setP, if_neg hr]
    by_cases hq : q = r
    · rw [if_pos ⟨hq, hr⟩, hq, Hart.getP, if_neg hr]
      exact fget_fset_same _ _ _ _
    · rw [if_neg (fun h => hq h.1), Hart.getP, Hart.getP]
      have hn : q.toNat ≠ r.toNat := fun e => hq (BitVec.eq_of_toNat_eq e)
      rw [fget_fset_ne 0 h.p v hn]

theorem Hart.setV_getV (h : Hart) (r : VReg) (v : VRegister) (q : VReg) :
    (h.setV r v).getV q = if q = r then v else h.getV q := by
  unfold Hart.setV Hart.getV
  rw [fget_fset]
  by_cases hq : q = r
  · subst hq; simp
  · have hn : q.toNat ≠ r.toNat := fun e => hq (BitVec.eq_of_toNat_eq e)
    simp [hq, hn]

theorem Hart.setLevel_level (h : Hart) (n : Nat) (l : LoopLevel) (m : Nat) :
    (h.setLevel n l).level m = if m = n then l else h.level m := fget_fset _ _ _ _ _

@[simp] theorem Hart.setP_getX (h : Hart) (r : PReg) (v : BitVec 256) (q : XReg) : (h.setP r v).getX q = h.getX q := by simp [Hart.getX]
@[simp] theorem Hart.setV_getX (h : Hart) (r : VReg) (v : VRegister) (q : XReg) : (h.setV r v).getX q = h.getX q := by simp [Hart.getX]
@[simp] theorem Hart.setLevel_getX (h : Hart) (r : Nat) (v : LoopLevel) (q : XReg) : (h.setLevel r v).getX q = h.getX q := by simp [Hart.getX]
@[simp] theorem Hart.setX_getP (h : Hart) (r : XReg) (v : Word64) (q : PReg) : (h.setX r v).getP q = h.getP q := by simp [Hart.getP]
@[simp] theorem Hart.setV_getP (h : Hart) (r : VReg) (v : VRegister) (q : PReg) : (h.setV r v).getP q = h.getP q := by simp [Hart.getP]
@[simp] theorem Hart.setLevel_getP (h : Hart) (r : Nat) (v : LoopLevel) (q : PReg) : (h.setLevel r v).getP q = h.getP q := by simp [Hart.getP]
@[simp] theorem Hart.setX_getV (h : Hart) (r : XReg) (v : Word64) (q : VReg) : (h.setX r v).getV q = h.getV q := by simp [Hart.getV]
@[simp] theorem Hart.setP_getV (h : Hart) (r : PReg) (v : BitVec 256) (q : VReg) : (h.setP r v).getV q = h.getV q := by simp [Hart.getV]
@[simp] theorem Hart.setLevel_getV (h : Hart) (r : Nat) (v : LoopLevel) (q : VReg) : (h.setLevel r v).getV q = h.getV q := by simp [Hart.getV]
@[simp] theorem Hart.setX_level (h : Hart) (r : XReg) (v : Word64) (n : Nat) : (h.setX r v).level n = h.level n := by simp [Hart.level]
@[simp] theorem Hart.setP_level (h : Hart) (r : PReg) (v : BitVec 256) (n : Nat) : (h.setP r v).level n = h.level n := by simp [Hart.level]
@[simp] theorem Hart.setV_level (h : Hart) (r : VReg) (v : VRegister) (n : Nat) : (h.setV r v).level n = h.level n := by simp [Hart.level]

end Sys2Proof.Machine
end

