-- ==== Sys2Proof/Laws/Memory.lean ====
section
/-!
SUPPORT. Memory: a byte read after a byte written, and that every operation over memory keeps its canonical form.
-/
namespace Sys2Proof.Machine

/-! Areas of free bytes. -/

/-- What an area lookup finds at a place outside the cut. -/
theorem cutArea_find (lo hi k : Nat) (l : List (Nat × Nat × (Nat × Nat))) (h : k < lo ∨ hi ≤ k) :
    ((cutArea lo hi l).find? fun a => decide (a.1 ≤ k) && decide (k < a.2.1)).map (fun a => a.2.2) =
      (l.find? fun a => decide (a.1 ≤ k) && decide (k < a.2.1)).map fun a => a.2.2 := by
  induction l with
  | nil => rfl
  | cons e t ih =>
    obtain ⟨a, b, m⟩ := e
    simp only [cutArea]
    by_cases hc : hi ≤ a ∨ b ≤ lo
    · rw [if_pos hc]
      simp only [List.singleton_append, List.find?_cons]
      cases hp : (decide (a ≤ k) && decide (k < b)) <;> simp [ih]
    · rw [if_neg hc]
      by_cases hp : a ≤ k ∧ k < b
      · have hin : (decide (a ≤ k) && decide (k < b)) = true := by simp [hp]
        rw [List.find?_cons_of_pos (by simpa using hin)]
        rcases Nat.lt_or_ge k lo with hk | hlo
        · have ha : a < lo := by omega
          have hx : (decide (a ≤ k) && decide (k < lo)) = true := by simp; omega
          simp only [if_pos ha, List.cons_append, List.nil_append]
          rw [List.find?_cons_of_pos (by simpa using hx)]
          rfl
        · have hk : hi ≤ k := by omega
          have hb : hi < b := by omega
          have hx : (decide (hi ≤ k) && decide (k < b)) = true := by simp; omega
          by_cases ha : a < lo
          · have hy : ¬ (decide (a ≤ k) && decide (k < lo)) = true := by simp; omega
            simp only [if_pos ha, if_pos hb, List.cons_append, List.nil_append]
            rw [List.find?_cons_of_neg (by simpa using hy), List.find?_cons_of_pos (by simpa using hx)]
            rfl
          · simp only [if_neg ha, if_pos hb, List.nil_append, List.cons_append]
            rw [List.find?_cons_of_pos (by simpa using hx)]
            rfl
      · have hnin : ¬ (decide (a ≤ k) && decide (k < b)) = true := by simpa using hp
        rw [List.find?_cons_of_neg (by simpa using hnin), ← ih]
        by_cases ha : a < lo <;> by_cases hb : hi < b
        · simp only [if_pos ha, if_pos hb, List.cons_append, List.nil_append]
          rw [List.find?_cons_of_neg (by simp; omega), List.find?_cons_of_neg (by simp; omega)]
        · simp only [if_pos ha, if_neg hb, List.cons_append, List.nil_append]
          rw [List.find?_cons_of_neg (by simp; omega)]
        · simp only [if_neg ha, if_pos hb, List.cons_append, List.nil_append]
          rw [List.find?_cons_of_neg (by simp; omega)]
        · simp only [if_neg ha, if_neg hb, List.nil_append]

/-- Nothing is found inside the cut. -/
theorem cutArea_find_in (lo hi k : Nat) (l : List (Nat × Nat × (Nat × Nat))) (h : lo ≤ k ∧ k < hi) :
    ((cutArea lo hi l).find? fun a => decide (a.1 ≤ k) && decide (k < a.2.1)) = none := by
  induction l with
  | nil => rfl
  | cons e t ih =>
    obtain ⟨a, b, m⟩ := e
    simp only [cutArea]
    by_cases hc : hi ≤ a ∨ b ≤ lo
    · rw [if_pos hc]
      simp only [List.singleton_append]
      rw [List.find?_cons_of_neg (by simp; omega), ih]
    · rw [if_neg hc]
      by_cases ha : a < lo <;> by_cases hb : hi < b
      · simp only [if_pos ha, if_pos hb, List.cons_append, List.nil_append]
        rw [List.find?_cons_of_neg (by simp; omega), List.find?_cons_of_neg (by simp; omega), ih]
      · simp only [if_pos ha, if_neg hb, List.cons_append, List.nil_append]
        rw [List.find?_cons_of_neg (by simp; omega), ih]
      · simp only [if_neg ha, if_pos hb, List.cons_append, List.nil_append]
        rw [List.find?_cons_of_neg (by simp; omega), ih]
      · simp only [if_neg ha, if_neg hb, List.nil_append, ih]

/-- A byte by the mark of its area. -/
theorem State.byte_def (s : State) (k : Nat) :
    s.byte k = match (s.stale.find? fun a => decide (a.1 ≤ k) && decide (k < a.2.1)).map (fun a => a.2.2) with
      | none => fget 0 s.mem k
      | some m => if m.1 % 4 = 3 then fget 0 s.mem k else Config.staleByte m.1 m.2 k (fget 0 s.mem k) := by
  unfold State.byte
  cases hs : s.stale with
  | nil => rfl
  | cons e t =>
    simp only []
    cases h : ((e :: t).find? fun a => decide (a.1 ≤ k) && decide (k < a.2.1)) <;> rfl

/-- A read after a byte is put: that byte there, what was there elsewhere. -/
theorem State.putByte_byte (s : State) (k : Nat) (b : Byte) (i : Nat) :
    (s.putByte k b).byte i = if i = k then b else s.byte i := by
  by_cases h : i = k
  · subst h
    rw [if_pos rfl, State.byte_def]
    simp only [State.putByte]
    rw [cutArea_find_in i (i + 1) i s.stale ⟨Nat.le_refl i, Nat.lt_succ_self i⟩]
    exact fget_fset_same _ _ _ _
  · rw [if_neg h, State.byte_def, State.byte_def]
    simp only [State.putByte]
    rw [cutArea_find k (k + 1) i s.stale (by omega), fget_fset_ne 0 s.mem b h]

/-- A data unit rewritten as its owner reads it reads as before (R366). -/
theorem State.wholeUnit_byte (s : State) (k i : Nat) : (s.wholeUnit k).byte i = s.byte i := by
  unfold State.wholeUnit
  generalize List.range 64 = l
  induction l generalizing s with
  | nil => rfl
  | cons n t ih =>
    rw [List.foldl_cons, ih, State.putByte_byte]
    split
    · rename_i h; rw [h]
    · rfl

/-- A read after a write: the written byte there, what was there elsewhere. -/
theorem State.setByte_byte (s : State) (k : Nat) (b : Byte) (i : Nat) :
    (s.setByte k b).byte i = if i = k then b else s.byte i := by
  unfold State.setByte
  rw [State.putByte_byte]
  by_cases h : i = k
  · rw [if_pos h, if_pos h]
  · rw [if_neg h, if_neg h]
    split
    · exact State.wholeUnit_byte s k i
    · rfl

/-- A read after a store of bytes. -/
theorem State.setBytes_byte (bs : List Byte) (s : State) (k i : Nat) :
    (s.setBytes k bs).byte i = if k ≤ i ∧ i < k + bs.length then bs.getD (i - k) 0 else s.byte i := by
  induction bs generalizing s k with
  | nil => simp [State.setBytes]
  | cons b t ih =>
    rw [State.setBytes, ih, State.setByte_byte]
    by_cases h1 : k + 1 ≤ i ∧ i < k + 1 + t.length
    · have h2 : k ≤ i ∧ i < k + (b :: t).length := by simp; omega
      rw [if_pos h1, if_pos h2]
      have h3 : i - k = (i - (k + 1)) + 1 := by omega
      rw [h3, List.getD_cons_succ]
    · rw [if_neg h1]
      by_cases h4 : i = k
      · subst h4
        rw [if_pos rfl, if_pos (by simp)]
        simp
      · have h2 : ¬ (k ≤ i ∧ i < k + (b :: t).length) := by simp at h1 ⊢; omega
        rw [if_neg h4, if_neg h2]

theorem State.clearUnits_mem (l : List Nat) (s : State) :
    (l.foldl (fun (t : State) u => { t with
      poison := fset false t.poison u false, inband := fset false t.inband u false, flaws := fset 0 t.flaws u 0 }) s).mem =
      s.mem ∧
    (l.foldl (fun (t : State) u => { t with
      poison := fset false t.poison u false, inband := fset false t.inband u false, flaws := fset 0 t.flaws u 0 }) s).stale =
      s.stale := by
  induction l generalizing s with
  | nil => exact ⟨rfl, rfl⟩
  | cons u t ih => exact ih _

theorem State.clearPoison_mem (s : State) (k n : Nat) :
    (s.clearPoison k n).mem = s.mem ∧ (s.clearPoison k n).stale = s.stale := by
  unfold State.clearPoison
  split
  · exact ⟨rfl, rfl⟩
  · exact State.clearUnits_mem _ s

theorem State.byte_congr {s t : State} (hm : t.mem = s.mem) (hs : t.stale = s.stale) (i : Nat) : t.byte i = s.byte i := by
  rw [State.byte_def, State.byte_def, hm, hs]

/-- A read after a store by any agent. -/
theorem State.storeAt_byte (s : State) (k : Nat) (bs : List Byte) (i : Nat) :
    (s.storeAt k bs).byte i = if k ≤ i ∧ i < k + bs.length then bs.getD (i - k) 0 else s.byte i := by
  rw [← State.setBytes_byte]
  exact State.byte_congr (s := s.setBytes k bs) (State.clearPoison_mem _ _ _).1 (State.clearPoison_mem _ _ _).2 i

/-! The canonical form. -/

theorem State.putByte_wf {s : State} (h : Memory.wf s = true) (k : Nat) (b : Byte) : Memory.wf (s.putByte k b) = true :=
  fwf_fset 0 h k b

theorem State.wholeUnit_wf {s : State} (h : Memory.wf s = true) (k : Nat) : Memory.wf (s.wholeUnit k) = true := by
  unfold State.wholeUnit
  generalize List.range 64 = l
  induction l generalizing s with
  | nil => exact h
  | cons n t ih => exact ih (State.putByte_wf h _ _)

theorem State.setByte_wf {s : State} (h : Memory.wf s = true) (k : Nat) (b : Byte) : Memory.wf (s.setByte k b) = true := by
  unfold State.setByte
  refine State.putByte_wf ?_ k b
  split
  · exact State.wholeUnit_wf h k
  · exact h

theorem State.setBytes_wf (bs : List Byte) {s : State} (h : Memory.wf s = true) (k : Nat) :
    Memory.wf (s.setBytes k bs) = true := by
  induction bs generalizing s k with
  | nil => exact h
  | cons b t ih => exact ih (State.setByte_wf h k b) (k + 1)

/-- Equal memories have the same form. -/
theorem Memory.wf_congr {s t : State} (hm : t.mem = s.mem) (h : Memory.wf s = true) : Memory.wf t = true := by
  unfold Memory.wf at h ⊢; rw [hm]; exact h

theorem State.storeAt_wf {s : State} (h : Memory.wf s = true) (k : Nat) (bs : List Byte) :
    Memory.wf (s.storeAt k bs) = true :=
  Memory.wf_congr (s := s.setBytes k bs) (State.clearPoison_mem _ _ _).1 (State.setBytes_wf bs h k)

theorem State.storeSegs_wf (l : List (Nat × Nat)) {s : State} (h : Memory.wf s = true) (bs : List Byte) :
    Memory.wf (s.storeSegs l bs) = true := by
  induction l generalizing s bs with
  | nil => exact h
  | cons e t ih =>
    obtain ⟨k, n⟩ := e
    rw [State.storeSegs]
    split
    · exact h
    · exact ih (State.storeAt_wf h _ _) _

theorem State.forget_wf {s : State} (h : Memory.wf s = true) (lo hi : Nat) : Memory.wf (s.forget lo hi) = true := h

theorem State.clearArea_wf {s : State} (h : Memory.wf s = true) (lo n : Nat) : Memory.wf (s.clearArea lo n) = true :=
  fwf_filter 0 _ h

/-- A fold of steps that each keep the form keeps it. -/
theorem Memory.wf_foldl {β : Type} (f : State → β → State) (hf : ∀ s b, Memory.wf s = true → Memory.wf (f s b) = true)
    (l : List β) {s : State} (h : Memory.wf s = true) : Memory.wf (l.foldl f s) = true := by
  induction l generalizing s with
  | nil => exact h
  | cons e t ih => exact ih (hf s e h)

theorem State.unitAs_wf {s : State} (h : Memory.wf s = true) (vf u : Nat) : Memory.wf (s.unitAs vf u) = true := by
  unfold State.unitAs
  generalize List.range 64 = l
  refine Memory.wf_foldl _ (fun t i ht => ?_) l h
  exact fwf_fset 0 (m := t.mem) ht (u + i) (s.byteFor vf (u + i))

theorem State.setByteFor_wf {s : State} (h : Memory.wf s = true) (vf k : Nat) (b : Byte) :
    Memory.wf (s.setByteFor vf k b) = true := by
  unfold State.setByteFor
  split
  · exact State.setByte_wf h k b
  · exact Memory.wf_congr (s := (s.unitAs vf (k / 64 * 64)).putByte k b) rfl (State.putByte_wf (State.unitAs_wf h _ _) k b)

/-- Logging an error and having its unit tested changes no byte. -/
theorem State.logTested_mem (s : State) (e : LogEntry) (u : TestUnit) :
    (s.logTested e u).mem = s.mem ∧ (s.logTested e u).stale = s.stale := by
  unfold State.logTested
  split
  · exact ⟨rfl, rfl⟩
  · simp only
    split <;> exact ⟨rfl, rfl⟩

/-- Finding a latent flaw changes no byte. -/
theorem State.findFlaw_mem (s : State) (k : Nat) : (s.findFlaw k).mem = s.mem ∧ (s.findFlaw k).stale = s.stale := by
  unfold State.findFlaw
  dsimp only
  repeat' split
  all_goals first
    | exact ⟨rfl, rfl⟩
    | exact ⟨(State.logTested_mem _ _ _).1, (State.logTested_mem _ _ _).2⟩

/-- A read that meets latent flaws changes no byte. -/
theorem State.touch_mem (s : State) (k n : Nat) : (s.touch k n).mem = s.mem ∧ (s.touch k n).stale = s.stale := by
  induction n generalizing s k with
  | zero => exact ⟨rfl, rfl⟩
  | succ n ih =>
    unfold State.touch
    split
    · exact ⟨rfl, rfl⟩
    · exact ⟨(ih _ _).1.trans (State.findFlaw_mem s k).1, (ih _ _).2.trans (State.findFlaw_mem s k).2⟩

theorem State.touchArea_wf {s : State} (h : Memory.wf s = true) (lo n : Nat) : Memory.wf (s.touchArea lo n) = true := by
  unfold State.touchArea
  refine Memory.wf_foldl _ (fun t e ht => ?_) _ h
  split
  · exact Memory.wf_congr (State.findFlaw_mem t _).1 ht
  · exact ht

theorem State.underKey_wf {s : State} (h : Memory.wf s = true) (vf lo n : Nat) : Memory.wf (s.underKey vf lo n) = true := by
  unfold State.underKey
  split <;> exact h

theorem State.copyArea_wf {s : State} (h : Memory.wf s = true) (vf src dst n : Nat) :
    Memory.wf (s.copyArea vf src dst n) = true := by
  unfold State.copyArea
  refine State.underKey_wf (s := _) ?_ vf dst n
  refine Memory.wf_foldl (fun t i => t.markPoison (dst + 32 * i)) (fun t i ht => ht) _ ?_
  refine Memory.wf_foldl _ (fun t a ht => State.forget_wf ht _ _) _ ?_
  exact Memory.wf_foldl _ (fun t e ht => State.setByte_wf ht _ _) _ (State.clearArea_wf (State.touchArea_wf h _ _) _ _)

/-- Setting the clocks of the presses changes no byte. -/
theorem State.clocked_mem (s : State) : s.clocked.mem = s.mem := by
  unfold State.clocked
  split
  · rfl
  · rename_i h
    clear h
    generalize List.range 128 = l
    induction l generalizing s with
    | nil => rfl
    | cons p t ih =>
      rw [List.foldl_cons, ih]
      split <;> rfl

theorem State.coldState_mem (s : State) (p : DevPower) : (s.coldState p).mem = [] := State.clocked_mem _

theorem State.coldState_wf (s : State) (p : DevPower) : Memory.wf (s.coldState p) = true := by
  unfold Memory.wf
  rw [State.coldState_mem]
  rfl

theorem State.writeWear_mem (s : State) : s.writeWear.mem = s.mem := rfl

theorem State.warmReset_wf {s : State} (h : Memory.wf s = true) : Memory.wf s.warmReset = true := by
  unfold Memory.wf State.warmReset
  simp only
  rw [State.clocked_mem]
  exact fwf_filter 0 _ h

theorem State.reset_wf : Memory.wf State.reset = true := rfl

end Sys2Proof.Machine
end

