-- ==== Sys2Proof/Laws/Ops.lean ====
section
/-!
SUPPORT. What the shared operations do: retiring with the end test, jumping, trapping and returning, an access. Each lemma
says all that changes, so that a later proof need not unfold the operation.
-/
namespace Sys2Proof.Machine

/-! Retiring. -/

/-- The end test writes PC and loop levels only. -/
theorem endTest_frame (a nxt : Word64) (n : Nat) (h : Hart) :
    endTest a nxt n h = { h with pc := (endTest a nxt n h).pc, loops := (endTest a nxt n h).loops } := by
  induction n generalizing h with
  | zero => rfl
  | succ n ih =>
    simp only [endTest]
    split
    · exact ih h
    · split
      · rfl
      · split
        · exact ih _
        · rfl

/-- With no active level the end test goes on in sequence. -/
theorem endTest_idle (a nxt : Word64) (n : Nat) (h : Hart) (hi : ∀ m < n, (h.level m).active = false) :
    endTest a nxt n h = { h with pc := nxt } := by
  induction n with
  | zero => rfl
  | succ n ih =>
    rw [endTest]
    simp only [hi n (Nat.lt_succ_self n), Bool.not_false, if_true]
    exact ih fun m hm => hi m (Nat.lt_succ_of_lt hm)

/-- PC and loop levels after the end test depend on the loop levels before it and on nothing else of the hart. -/
theorem endTest_loops (a n : Word64) (k : Nat) (h g : Hart) (hl : h.loops = g.loops) :
    (endTest a n k h).pc = (endTest a n k g).pc ∧ (endTest a n k h).loops = (endTest a n k g).loops := by
  induction k generalizing h g with
  | zero => exact ⟨rfl, hl⟩
  | succ k ih =>
    have e : h.level k = g.level k := by rw [Hart.level, hl]; rfl
    have e2 (l : LoopLevel) : (h.setLevel k l).loops = (g.setLevel k l).loops := by simp only [Hart.setLevel, hl]
    simp only [endTest, e]
    split
    · exact ih h g hl
    · split
      · exact ⟨rfl, hl⟩
      · split
        · exact ih _ _ (e2 _)
        · exact ⟨rfl, e2 _⟩

/-- Retiring counts the instruction, ends its wait and writes PC and loop levels. -/
theorem Hart.retire_frame (h : Hart) :
    h.retire = { h with
      csr := { h.csr with instret := h.csr.instret + 1 }, wait := .none, waited := 0, parked := 0, wake := none,
      pc := h.retire.pc, loops := h.retire.loops } := by
  unfold Hart.retire
  simp only
  split
  · rfl
  · exact endTest_frame _ _ _ _

/-- PC and loop levels after retiring depend on PC, next PC, handler mode and loop levels only. -/
theorem Hart.retire_loops (h g : Hart) (hl : h.loops = g.loops) (hp : h.pc = g.pc) (hn : h.npc = g.npc)
    (hh : h.handler = g.handler) : h.retire.pc = g.retire.pc ∧ h.retire.loops = g.retire.loops := by
  unfold Hart.retire
  simp only [hp, hn, hh]
  split
  · exact ⟨rfl, hl⟩
  · exact endTest_loops _ _ _ _ _ hl

@[simp] theorem Hart.retire_x (h : Hart) : h.retire.x = h.x := by rw [Hart.retire_frame]
@[simp] theorem Hart.retire_v (h : Hart) : h.retire.v = h.v := by rw [Hart.retire_frame]
@[simp] theorem Hart.retire_p (h : Hart) : h.retire.p = h.p := by rw [Hart.retire_frame]
@[simp] theorem Hart.retire_csr (h : Hart) : h.retire.csr = { h.csr with instret := h.csr.instret + 1 } := by
  rw [Hart.retire_frame]
@[simp] theorem Hart.retire_handler (h : Hart) : h.retire.handler = h.handler := by rw [Hart.retire_frame]
@[simp] theorem Hart.retire_npc (h : Hart) : h.retire.npc = h.npc := by rw [Hart.retire_frame]
@[simp] theorem Hart.retire_wait (h : Hart) : h.retire.wait = .none := by rw [Hart.retire_frame]
@[simp] theorem Hart.retire_sup (h : Hart) : h.retire.sup = h.sup := by rw [Hart.retire_frame]
@[simp] theorem Hart.retire_getX (h : Hart) (r : XReg) : h.retire.getX r = h.getX r := by simp [Hart.getX]
@[simp] theorem Hart.retire_getP (h : Hart) (r : PReg) : h.retire.getP r = h.getP r := by simp [Hart.getP]
@[simp] theorem Hart.retire_getV (h : Hart) (r : VReg) : h.retire.getV r = h.getV r := by simp [Hart.getV]

/-- In handler mode, or with no active level, the next PC is the next in sequence (R85, R96). -/
theorem Hart.retire_pc (h : Hart) (hi : h.handler = true ∨ ∀ m < 4, (h.level m).active = false) :
    h.retire.pc = h.npc := by
  unfold Hart.retire
  simp only
  split
  · rfl
  · rename_i hh
    rcases hi with hi | hi
    · exact absurd hi hh
    · exact congrArg Hart.pc (endTest_idle h.pc h.npc 4
        { h.countRetired with wait := .none, waited := 0, parked := 0, wake := none } hi)

@[simp] theorem State.retire_me (s : State) : s.retire.me = s.me.retire := State.setMe_me _ _
@[simp] theorem State.retire_x (s : State) (r : XReg) : s.retire.x r = s.x r := by simp [State.x]
@[simp] theorem State.retire_mem (s : State) : s.retire.mem = s.mem := rfl
@[simp] theorem State.retire_stale (s : State) : s.retire.stale = s.stale := rfl
@[simp] theorem State.retire_cur (s : State) : s.retire.cur = s.cur := rfl
@[simp] theorem State.retire_byte (s : State) (k : Nat) : s.retire.byte k = s.byte k := rfl

/-- A write of a register and retiring: what an x register reads after it (R13). -/
theorem State.retireX_x (s : State) (d : XReg) (v : Word64) (r : XReg) :
    (s.retireX d v).x r = if r = d ∧ d ≠ 0 then v else s.x r := by
  simp [State.retireX, State.setX, State.x, Hart.setX_getX]

/-! Traps. -/

/-- A cause of the context's own handler, outside handler mode and with a handler (R94). -/
theorem Hart.trap_handler (h : Hart) (c : Nat) (e : Word64) (v : Option (BitVec 9)) (hh : h.handler = false)
    (hs : supervisorCause c = false) (ht : h.csr.etvec ≠ 0) : h.trap c e v = h.enterHandler c e v := by
  have : (h.csr.etvec == 0) = false := by simpa using ht
  rw [Hart.trap, hh, hs, this]
  rfl

/-- A trap in handler mode is a double trap (R96). -/
theorem Hart.trap_double (h : Hart) (c : Nat) (e : Word64) (v : Option (BitVec 9)) (hh : h.handler = true) :
    h.trap c e v = h.stopForSupervisor 19 (BitVec.ofNat 64 c) v := by simp [Hart.trap, hh]

/-- A cause marked S, or one without a handler, goes to a supervisor (R94, R95). -/
theorem Hart.trap_supervisor (h : Hart) (c : Nat) (e : Word64) (v : Option (BitVec 9)) (hh : h.handler = false)
    (hs : supervisorCause c = true ∨ h.csr.etvec = 0) : h.trap c e v = h.stopForSupervisor c e v := by
  rcases hs with hs | hs <;> simp [Hart.trap, hh, hs]

/-- A trap changes no register file, no loop level and no count of retired instructions. -/
theorem Hart.trap_frame (h : Hart) (c : Nat) (e : Word64) (v : Option (BitVec 9)) :
    (h.trap c e v).x = h.x ∧ (h.trap c e v).v = h.v ∧ (h.trap c e v).p = h.p ∧ (h.trap c e v).loops = h.loops ∧
      (h.trap c e v).csr.instret = h.csr.instret := by
  unfold Hart.trap
  split
  · exact ⟨rfl, rfl, rfl, rfl, rfl⟩
  · split <;> exact ⟨rfl, rfl, rfl, rfl, rfl⟩

@[simp] theorem State.trap_me (s : State) (c : Nat) (e : Word64) : (s.trap c e).me = s.me.trap c e none :=
  State.setMe_me _ _
@[simp] theorem State.trapV_me (s : State) (c : Nat) (e : Word64) (k : Nat) :
    (s.trapV c e k).me = s.me.trap c e (some (BitVec.ofNat 9 k)) := State.setMe_me _ _
@[simp] theorem State.trap_byte (s : State) (c : Nat) (e : Word64) (k : Nat) : (s.trap c e).byte k = s.byte k := rfl
@[simp] theorem State.trapV_byte (s : State) (c : Nat) (e : Word64) (n k : Nat) : (s.trapV c e n).byte k = s.byte k := rfl

/-! Accesses. -/

/-- A misaligned access does nothing else (R79). -/
theorem State.access_misaligned (s : State) (va n align : Nat) (acc : Acc) (r w f : Bool) (h : va % align ≠ 0) :
    s.access va n align acc r w f = .bad s 3 (BitVec.ofNat 64 va) := by
  simp [State.access, State.accessIn, h]

/-- An aligned access that fails a check of R79, after the page walk it takes. -/
theorem State.access_fails (s : State) (va n align : Nat) (acc : Acc) (r w f : Bool) (h : va % align = 0) {e : Fail}
    (he : (s.meetWalk s.myCtxId va).resolveAll va n acc = .error e) :
    s.access va n align acc r w f = .bad (s.meetWalk s.myCtxId va) e.cause (failEval e va) := by
  simp [State.access, State.accessIn, h, he]

/-- With no latent flaw anywhere a page walk changes nothing. -/
theorem State.meetWalk_clean (s : State) (c va : Nat) (h : s.flaws = []) : s.meetWalk c va = s := by
  simp [State.meetWalk, h]

end Sys2Proof.Machine
end

