-- ==== Sys2Proof/Laws/PerInstr.lean ====
section
/-!
SUPPORT. One lemma per constructor of `Instr` for the family `RoundTrip`: the fields an encodable instruction is encoded to
name it as the decoder's candidate and have the shape their LEN asks for, so that decoding an encoding gives the
instruction back.
-/
namespace Sys2Proof.Laws.RoundTrip

open Sys2Proof

/-- The shape of an encoding: LEN by its parts, word 0 acceptable on its own, and no native word 1 that is the reserved one
of a promoted form. -/
def shapeOk (e : Enc) : Bool :=
  match e.ext, e.lit with
  | none, none => e.w0.len == 0
  | none, some _ => e.w0.len == 1
  | some (w1, _), none => e.w0.len == 2 && nativeExtW0 e.w0 && w1.xop != 0xFF
  | some (w1, _), some _ => e.w0.len == 3 && e.w0.maj == 0x0E && e.w0.a == 0 && e.w0.b == 0 && w1.xop != 0xFF

/-- An encodable well-formed instruction is the candidate of its own fields, which have the shape of their LEN. -/
def Statement (i : Instr) : Prop :=
  ∀ e, i.wf = true → encodeEnc i = some e → cand e = some i ∧ shapeOk e = true

theorem elem_code (t : ElemTy) : ElemTy.ofCode t.toCode = some t := by cases t <;> rfl
theorem rm_code (t : Rm) : Rm.ofCode t.toCode = some t := by cases t <;> rfl
theorem scope_code (t : Scope) : Scope.ofCode t.toCode = some t := by cases t <;> rfl
theorem cond_code (t : Cond) : Cond.ofCode t.toCode = some t := by cases t <;> rfl
theorem red_code (t : RedOp) : RedOp.ofCode t.toCode = some t := by cases t <;> rfl

theorem at_1_4_0 (x : BitVec 1) (y : BitVec 4) : (x ++ y).extractLsb 4 4 = x := by revert x y; decide
theorem at_1_4_1 (x : BitVec 1) (y : BitVec 4) : (x ++ y).extractLsb 3 0 = y := by revert x y; decide
theorem at_3_2_0 (x : BitVec 3) (y : BitVec 2) : (x ++ y).extractLsb 4 2 = x := by revert x y; decide
theorem at_3_2_1 (x : BitVec 3) (y : BitVec 2) : (x ++ y).extractLsb 1 0 = y := by revert x y; decide
theorem at_2_3_0 (x : BitVec 2) (y : BitVec 3) : (x ++ y).extractLsb 4 3 = x := by revert x y; decide
theorem at_2_3_1 (x : BitVec 2) (y : BitVec 3) : (x ++ y).extractLsb 2 0 = y := by revert x y; decide
theorem at_4_1_1 (x : BitVec 4) (y : BitVec 1) : (x ++ y).extractLsb 0 0 = y := by revert x y; decide
theorem at_1_3_0 (x : BitVec 1) (y : BitVec 3) : (x ++ y).extractLsb 3 3 = x := by revert x y; decide
theorem at_1_3_1 (x : BitVec 1) (y : BitVec 3) : (x ++ y).extractLsb 2 0 = y := by revert x y; decide
theorem at_3_1_1 (x : BitVec 3) (y : BitVec 1) : (x ++ y).extractLsb 0 0 = y := by revert x y; decide
theorem at_1_2_2_0 (x : BitVec 1) (y : BitVec 2) (z : BitVec 2) : (x ++ y ++ z).extractLsb 4 4 = x := by revert x y z; decide
theorem at_1_2_2_1 (x : BitVec 1) (y : BitVec 2) (z : BitVec 2) : (x ++ y ++ z).extractLsb 3 2 = y := by revert x y z; decide
theorem at_1_2_2_2 (x : BitVec 1) (y : BitVec 2) (z : BitVec 2) : (x ++ y ++ z).extractLsb 1 0 = z := by revert x y z; decide
theorem at_2_1_1_1_1 (x : BitVec 2) (y : BitVec 1) (z : BitVec 1) (u : BitVec 1) : (x ++ y ++ z ++ u).extractLsb 2 2 = y := by revert x y z u; decide
theorem at_2_1_1_1_2 (x : BitVec 2) (y : BitVec 1) (z : BitVec 1) (u : BitVec 1) : (x ++ y ++ z ++ u).extractLsb 1 1 = z := by revert x y z u; decide
theorem at_2_1_1_1_3 (x : BitVec 2) (y : BitVec 1) (z : BitVec 1) (u : BitVec 1) : (x ++ y ++ z ++ u).extractLsb 0 0 = u := by revert x y z u; decide
theorem at_3_1_1_1 (x : BitVec 3) (y : BitVec 1) (z : BitVec 1) : (x ++ y ++ z).extractLsb 1 1 = y := by revert x y z; decide
theorem at_3_1_1_2 (x : BitVec 3) (y : BitVec 1) (z : BitVec 1) : (x ++ y ++ z).extractLsb 0 0 = z := by revert x y z; decide

theorem imm14_eq (i : BitVec 14) : i.extractLsb 13 9 ++ i.extractLsb 8 5 ++ i.extractLsb 4 0 = i := by
  apply BitVec.eq_of_getLsbD_eq; intro j hj; simp; grind
theorem off9_eq (i : BitVec 9) : i.extractLsb 8 4 ++ i.extractLsb 3 0 = i := by
  apply BitVec.eq_of_getLsbD_eq; intro j hj; simp; grind
theorem off19_eq (i : BitVec 19) : i.extractLsb 18 14 ++ i.extractLsb 13 10 ++ i.extractLsb 9 5 ++ i.extractLsb 4 0 = i := by
  apply BitVec.eq_of_getLsbD_eq; intro j hj; simp; grind
theorem csr12_eq (i : BitVec 12) : i.extractLsb 11 9 ++ i.extractLsb 8 5 ++ i.extractLsb 4 0 = i := by
  apply BitVec.eq_of_getLsbD_eq; intro j hj; simp; grind
theorem sh6_eq (i : BitVec 6) : i.extractLsb 5 5 ++ i.extractLsb 4 0 = i := by
  apply BitVec.eq_of_getLsbD_eq; intro j hj; simp; grind
theorem off10_eq (i : BitVec 10) : i.extractLsb 9 5 ++ i.extractLsb 4 1 ++ i.extractLsb 0 0 = i := by
  apply BitVec.eq_of_getLsbD_eq; intro j hj; simp; grind

theorem bind_of {α β : Type} {o : Option α} {a : α} {f : α → Option β} {r : Option β} (h : o = some a) (h2 : f a = r) :
    o.bind f = r := by subst h; exact h2

theorem drain_fields : ∀ (clr sat pack : Bool) (l n r : BitVec 2),
    (0#21 ++ bit clr ++ bit sat ++ bit pack ++ l ++ n ++ r).getLsbD 9 = false ∧
    (0#21 ++ bit clr ++ bit sat ++ bit pack ++ l ++ n ++ r).getLsbD 8 = clr ∧
    (0#21 ++ bit clr ++ bit sat ++ bit pack ++ l ++ n ++ r).getLsbD 7 = sat ∧
    (0#21 ++ bit clr ++ bit sat ++ bit pack ++ l ++ n ++ r).getLsbD 6 = pack ∧
    (0#21 ++ bit clr ++ bit sat ++ bit pack ++ l ++ n ++ r).extractLsb 5 4 = l ∧
    (0#21 ++ bit clr ++ bit sat ++ bit pack ++ l ++ n ++ r).extractLsb 3 2 = n ∧
    (0#21 ++ bit clr ++ bit sat ++ bit pack ++ l ++ n ++ r).extractLsb 1 0 = r := by decide

theorem raw_fields : ∀ (clr : Bool) (n r : BitVec 2),
    (0#20 ++ 1#1 ++ bit clr ++ 0#4 ++ n ++ r).getLsbD 9 = true ∧
    (0#20 ++ 1#1 ++ bit clr ++ 0#4 ++ n ++ r).getLsbD 8 = clr ∧
    (0#20 ++ 1#1 ++ bit clr ++ 0#4 ++ n ++ r).extractLsb 3 2 = n ∧
    (0#20 ++ 1#1 ++ bit clr ++ 0#4 ++ n ++ r).extractLsb 1 0 = r := by decide

theorem push_fields : ∀ (clr : Bool) (n r : BitVec 2),
    (0#25 ++ bit clr ++ n ++ r).getLsbD 4 = clr ∧ (0#25 ++ bit clr ++ n ++ r).extractLsb 3 2 = n ∧
    (0#25 ++ bit clr ++ n ++ r).extractLsb 1 0 = r := by decide

/-- An instruction that is not encoded. -/
theorem of_none {i : Instr} (h : encodeEnc i = none) : Statement i := by
  intro e _ he; rw [h] at he; cases he

/-- An instruction that is encoded to `e`. -/
theorem of_some {i : Instr} {e : Enc} (h : encodeEnc i = some e) (hc : i.wf = true → cand e = some i)
    (hs : i.wf = true → shapeOk e = true) : Statement i := by
  intro e' hw he; rw [h] at he; cases he; exact ⟨hc hw, hs hw⟩


theorem add (a : XReg) (b : XReg) (c : XReg) : Statement (.add a b c) :=
  of_some rfl (fun _ => rfl) (fun _ => rfl)

theorem sub (a : XReg) (b : XReg) (c : XReg) : Statement (.sub a b c) :=
  of_some rfl (fun _ => rfl) (fun _ => rfl)

theorem mul (a : XReg) (b : XReg) (c : XReg) : Statement (.mul a b c) :=
  of_some rfl (fun _ => rfl) (fun _ => rfl)

theorem mulh (a : XReg) (b : XReg) (c : XReg) : Statement (.mulh a b c) :=
  of_some rfl (fun _ => rfl) (fun _ => rfl)

theorem mulhz (a : XReg) (b : XReg) (c : XReg) : Statement (.mulhz a b c) :=
  of_some rfl (fun _ => rfl) (fun _ => rfl)

theorem div (a : XReg) (b : XReg) (c : XReg) : Statement (.div a b c) :=
  of_some rfl (fun _ => rfl) (fun _ => rfl)

theorem divz (a : XReg) (b : XReg) (c : XReg) : Statement (.divz a b c) :=
  of_some rfl (fun _ => rfl) (fun _ => rfl)

theorem rem (a : XReg) (b : XReg) (c : XReg) : Statement (.rem a b c) :=
  of_some rfl (fun _ => rfl) (fun _ => rfl)

theorem remz (a : XReg) (b : XReg) (c : XReg) : Statement (.remz a b c) :=
  of_some rfl (fun _ => rfl) (fun _ => rfl)

theorem and (a : XReg) (b : XReg) (c : XReg) : Statement (.and a b c) :=
  of_some rfl (fun _ => rfl) (fun _ => rfl)

theorem or (a : XReg) (b : XReg) (c : XReg) : Statement (.or a b c) :=
  of_some rfl (fun _ => rfl) (fun _ => rfl)

theorem xor (a : XReg) (b : XReg) (c : XReg) : Statement (.xor a b c) :=
  of_some rfl (fun _ => rfl) (fun _ => rfl)

theorem sll (a : XReg) (b : XReg) (c : XReg) : Statement (.sll a b c) :=
  of_some rfl (fun _ => rfl) (fun _ => rfl)

theorem srl (a : XReg) (b : XReg) (c : XReg) : Statement (.srl a b c) :=
  of_some rfl (fun _ => rfl) (fun _ => rfl)

theorem sra (a : XReg) (b : XReg) (c : XReg) : Statement (.sra a b c) :=
  of_some rfl (fun _ => rfl) (fun _ => rfl)

theorem slt (a : XReg) (b : XReg) (c : XReg) : Statement (.slt a b c) :=
  of_some rfl (fun _ => rfl) (fun _ => rfl)

theorem sltz (a : XReg) (b : XReg) (c : XReg) : Statement (.sltz a b c) :=
  of_some rfl (fun _ => rfl) (fun _ => rfl)

theorem min (a : XReg) (b : XReg) (c : XReg) : Statement (.min a b c) :=
  of_some rfl (fun _ => rfl) (fun _ => rfl)

theorem max (a : XReg) (b : XReg) (c : XReg) : Statement (.max a b c) :=
  of_some rfl (fun _ => rfl) (fun _ => rfl)

theorem minz (a : XReg) (b : XReg) (c : XReg) : Statement (.minz a b c) :=
  of_some rfl (fun _ => rfl) (fun _ => rfl)

theorem maxz (a : XReg) (b : XReg) (c : XReg) : Statement (.maxz a b c) :=
  of_some rfl (fun _ => rfl) (fun _ => rfl)

theorem clz (a : XReg) (b : XReg) : Statement (.clz a b) :=
  of_some rfl (fun _ => rfl) (fun _ => rfl)

theorem ctz (a : XReg) (b : XReg) : Statement (.ctz a b) :=
  of_some rfl (fun _ => rfl) (fun _ => rfl)

theorem popc (a : XReg) (b : XReg) : Statement (.popc a b) :=
  of_some rfl (fun _ => rfl) (fun _ => rfl)

theorem addi (a : XReg) (b : XReg) (i : BitVec 14) : Statement (.addi a b i) :=
  by
  refine of_some rfl (fun _ => ?_) (fun _ => ?_)
  · simp [cand, candOne, candMaj01, regW, immW, W0.imm14]
    exact imm14_eq _
  · rfl

theorem addiLit (a : XReg) (b : XReg) (lit : Word64) : Statement (.addiLit a b lit) :=
  of_some rfl (fun _ => rfl) (fun _ => rfl)

theorem andi (a : XReg) (b : XReg) (i : BitVec 14) : Statement (.andi a b i) :=
  by
  refine of_some rfl (fun _ => ?_) (fun _ => ?_)
  · simp [cand, candOne, candMaj02, regW, immW, W0.imm14]
    exact imm14_eq _
  · rfl

theorem andiLit (a : XReg) (b : XReg) (lit : Word64) : Statement (.andiLit a b lit) :=
  of_some rfl (fun _ => rfl) (fun _ => rfl)

theorem ori (a : XReg) (b : XReg) (i : BitVec 14) : Statement (.ori a b i) :=
  by
  refine of_some rfl (fun _ => ?_) (fun _ => ?_)
  · simp [cand, candOne, candMaj03, regW, immW, W0.imm14]
    exact imm14_eq _
  · rfl

theorem oriLit (a : XReg) (b : XReg) (lit : Word64) : Statement (.oriLit a b lit) :=
  of_some rfl (fun _ => rfl) (fun _ => rfl)

theorem xori (a : XReg) (b : XReg) (i : BitVec 14) : Statement (.xori a b i) :=
  by
  refine of_some rfl (fun _ => ?_) (fun _ => ?_)
  · simp [cand, candOne, candMaj04, regW, immW, W0.imm14]
    exact imm14_eq _
  · rfl

theorem xoriLit (a : XReg) (b : XReg) (lit : Word64) : Statement (.xoriLit a b lit) :=
  of_some rfl (fun _ => rfl) (fun _ => rfl)

theorem slli (a : XReg) (b : XReg) (s : BitVec 6) : Statement (.slli a b s) :=
  by
  refine of_some rfl (fun _ => ?_) (fun _ => ?_)
  · simp [cand, candOne, candMaj05, regW, at_3_1_1]
    exact sh6_eq _
  · rfl

theorem srli (a : XReg) (b : XReg) (s : BitVec 6) : Statement (.srli a b s) :=
  by
  refine of_some rfl (fun _ => ?_) (fun _ => ?_)
  · simp [cand, candOne, candMaj05, regW, at_3_1_1]
    exact sh6_eq _
  · rfl

theorem srai (a : XReg) (b : XReg) (s : BitVec 6) : Statement (.srai a b s) :=
  by
  refine of_some rfl (fun _ => ?_) (fun _ => ?_)
  · simp [cand, candOne, candMaj05, regW, at_3_1_1]
    exact sh6_eq _
  · rfl

theorem lea (a : XReg) (b : XReg) (c : XReg) (k : BitVec 2) : Statement (.lea a b c k) :=
  by
  refine of_some rfl (fun _ => ?_) (fun _ => ?_)
  · simp [cand, candOne, candMaj06, regW, at_3_2_1]
  · rfl

theorem li (a : XReg) (i : BitVec 14) : Statement (.li a i) :=
  by
  refine of_some rfl (fun _ => ?_) (fun _ => ?_)
  · simp [cand, candOne, candMaj07, regW, immW, W0.imm14]
    exact imm14_eq _
  · rfl

theorem liLit (a : XReg) (lit : Word64) : Statement (.liLit a lit) :=
  of_some rfl (fun _ => rfl) (fun _ => rfl)

theorem pcrel (a : XReg) (i : BitVec 14) : Statement (.pcrel a i) :=
  by
  refine of_some rfl (fun _ => ?_) (fun _ => ?_)
  · simp [cand, candOne, candMaj08, regW, immW, W0.imm14]
    exact imm14_eq _
  · rfl

theorem pcrelLit (a : XReg) (lit : Word64) : Statement (.pcrelLit a lit) :=
  of_some rfl (fun _ => rfl) (fun _ => rfl)

theorem sfadd (a : XReg) (b : XReg) (c : XReg) (t : ElemTy) : Statement (.sfadd a b c t) :=
  by
  refine of_some rfl (fun _ => ?_) (fun _ => ?_)
  · simp [cand, candOne, candMaj09, regW, elem_code]
  · rfl

theorem sfsub (a : XReg) (b : XReg) (c : XReg) (t : ElemTy) : Statement (.sfsub a b c t) :=
  by
  refine of_some rfl (fun _ => ?_) (fun _ => ?_)
  · simp [cand, candOne, candMaj09, regW, elem_code]
  · rfl

theorem sfmul (a : XReg) (b : XReg) (c : XReg) (t : ElemTy) : Statement (.sfmul a b c t) :=
  by
  refine of_some rfl (fun _ => ?_) (fun _ => ?_)
  · simp [cand, candOne, candMaj09, regW, elem_code]
  · rfl

theorem sfdiv (a : XReg) (b : XReg) (c : XReg) (t : ElemTy) : Statement (.sfdiv a b c t) :=
  by
  refine of_some rfl (fun _ => ?_) (fun _ => ?_)
  · simp [cand, candOne, candMaj09, regW, elem_code]
  · rfl

theorem sfsqrt (a : XReg) (b : XReg) (t : ElemTy) : Statement (.sfsqrt a b t) :=
  by
  refine of_some rfl (fun _ => ?_) (fun _ => ?_)
  · simp [cand, candOne, candMaj09, regW, elem_code]
  · rfl

theorem sfmin (a : XReg) (b : XReg) (c : XReg) (t : ElemTy) : Statement (.sfmin a b c t) :=
  by
  refine of_some rfl (fun _ => ?_) (fun _ => ?_)
  · simp [cand, candOne, candMaj09, regW, elem_code]
  · rfl

theorem sfmax (a : XReg) (b : XReg) (c : XReg) (t : ElemTy) : Statement (.sfmax a b c t) :=
  by
  refine of_some rfl (fun _ => ?_) (fun _ => ?_)
  · simp [cand, candOne, candMaj09, regW, elem_code]
  · rfl

theorem sfcmpEq (a : XReg) (b : XReg) (c : XReg) (t : ElemTy) : Statement (.sfcmpEq a b c t) :=
  by
  refine of_some rfl (fun _ => ?_) (fun _ => ?_)
  · simp [cand, candOne, candMaj09, regW, elem_code]
  · rfl

theorem sfcmpLt (a : XReg) (b : XReg) (c : XReg) (t : ElemTy) : Statement (.sfcmpLt a b c t) :=
  by
  refine of_some rfl (fun _ => ?_) (fun _ => ?_)
  · simp [cand, candOne, candMaj09, regW, elem_code]
  · rfl

theorem sfcmpLe (a : XReg) (b : XReg) (c : XReg) (t : ElemTy) : Statement (.sfcmpLe a b c t) :=
  by
  refine of_some rfl (fun _ => ?_) (fun _ => ?_)
  · simp [cand, candOne, candMaj09, regW, elem_code]
  · rfl

theorem sfcmpUn (a : XReg) (b : XReg) (c : XReg) (t : ElemTy) : Statement (.sfcmpUn a b c t) :=
  by
  refine of_some rfl (fun _ => ?_) (fun _ => ?_)
  · simp [cand, candOne, candMaj09, regW, elem_code]
  · rfl

theorem sfcvt (a : XReg) (b : XReg) (s : ElemTy) (t : ElemTy) : Statement (.sfcvt a b s t) :=
  by
  refine of_some rfl (fun _ => ?_) (fun _ => ?_)
  · simp [cand, candOne, candMaj09, regW, at_1_4_1, elem_code]
  · rfl

theorem sfaddExt (a : XReg) (b : XReg) (c : XReg) (t : ElemTy) (rm : Rm) : Statement (.sfaddExt a b c t rm) :=
  by
  refine of_some rfl (fun _ => ?_) (fun _ => ?_)
  · simp [cand, candExt, candSf, regW, modW, elem_code, rm_code]
  · (simp [shapeOk, nativeExtW0, regW, modW])

theorem sfsubExt (a : XReg) (b : XReg) (c : XReg) (t : ElemTy) (rm : Rm) : Statement (.sfsubExt a b c t rm) :=
  by
  refine of_some rfl (fun _ => ?_) (fun _ => ?_)
  · simp [cand, candExt, candSf, regW, modW, elem_code, rm_code]
  · (simp [shapeOk, nativeExtW0, regW, modW])

theorem sfmulExt (a : XReg) (b : XReg) (c : XReg) (t : ElemTy) (rm : Rm) : Statement (.sfmulExt a b c t rm) :=
  by
  refine of_some rfl (fun _ => ?_) (fun _ => ?_)
  · simp [cand, candExt, candSf, regW, modW, elem_code, rm_code]
  · (simp [shapeOk, nativeExtW0, regW, modW])

theorem sfdivExt (a : XReg) (b : XReg) (c : XReg) (t : ElemTy) (rm : Rm) : Statement (.sfdivExt a b c t rm) :=
  by
  refine of_some rfl (fun _ => ?_) (fun _ => ?_)
  · simp [cand, candExt, candSf, regW, modW, elem_code, rm_code]
  · (simp [shapeOk, nativeExtW0, regW, modW])

theorem sfsqrtExt (a : XReg) (b : XReg) (t : ElemTy) (rm : Rm) : Statement (.sfsqrtExt a b t rm) :=
  by
  refine of_some rfl (fun _ => ?_) (fun _ => ?_)
  · simp [cand, candExt, candSf, regW, modW, elem_code, rm_code]
  · (simp [shapeOk, nativeExtW0, regW, modW])

theorem sfminExt (a : XReg) (b : XReg) (c : XReg) (t : ElemTy) (rm : Rm) : Statement (.sfminExt a b c t rm) :=
  by
  refine of_some rfl (fun _ => ?_) (fun _ => ?_)
  · simp [cand, candExt, candSf, regW, modW, elem_code, rm_code]
  · (simp [shapeOk, nativeExtW0, regW, modW])

theorem sfmaxExt (a : XReg) (b : XReg) (c : XReg) (t : ElemTy) (rm : Rm) : Statement (.sfmaxExt a b c t rm) :=
  by
  refine of_some rfl (fun _ => ?_) (fun _ => ?_)
  · simp [cand, candExt, candSf, regW, modW, elem_code, rm_code]
  · (simp [shapeOk, nativeExtW0, regW, modW])

theorem sfcmpEqExt (a : XReg) (b : XReg) (c : XReg) (t : ElemTy) (rm : Rm) : Statement (.sfcmpEqExt a b c t rm) :=
  by
  refine of_some rfl (fun _ => ?_) (fun _ => ?_)
  · simp [cand, candExt, candSf, regW, modW, elem_code, rm_code]
  · (simp [shapeOk, nativeExtW0, regW, modW])

theorem sfcmpLtExt (a : XReg) (b : XReg) (c : XReg) (t : ElemTy) (rm : Rm) : Statement (.sfcmpLtExt a b c t rm) :=
  by
  refine of_some rfl (fun _ => ?_) (fun _ => ?_)
  · simp [cand, candExt, candSf, regW, modW, elem_code, rm_code]
  · (simp [shapeOk, nativeExtW0, regW, modW])

theorem sfcmpLeExt (a : XReg) (b : XReg) (c : XReg) (t : ElemTy) (rm : Rm) : Statement (.sfcmpLeExt a b c t rm) :=
  by
  refine of_some rfl (fun _ => ?_) (fun _ => ?_)
  · simp [cand, candExt, candSf, regW, modW, elem_code, rm_code]
  · (simp [shapeOk, nativeExtW0, regW, modW])

theorem sfcmpUnExt (a : XReg) (b : XReg) (c : XReg) (t : ElemTy) (rm : Rm) : Statement (.sfcmpUnExt a b c t rm) :=
  by
  refine of_some rfl (fun _ => ?_) (fun _ => ?_)
  · simp [cand, candExt, candSf, regW, modW, elem_code, rm_code]
  · (simp [shapeOk, nativeExtW0, regW, modW])

theorem sfcvtExt (a : XReg) (b : XReg) (t : ElemTy) (tb : ElemTy) (rm : Rm) : Statement (.sfcvtExt a b t tb rm) :=
  by
  refine of_some rfl (fun _ => ?_) (fun _ => ?_)
  · simp [cand, candExt, candSf, regW, modW, elem_code, rm_code]
  · (simp [shapeOk, nativeExtW0, regW, modW])

theorem sffma (a : XReg) (b : XReg) (c : XReg) (d : XReg) (t : ElemTy) (rm : Rm) : Statement (.sffma a b c d t rm) :=
  by
  refine of_some rfl (fun _ => ?_) (fun _ => ?_)
  · simp [cand, candExt, candSf, regW, modW, elem_code, rm_code]
  · (simp [shapeOk, nativeExtW0, regW, modW])

theorem beq (b : XReg) (c : XReg) (o : BitVec 9) : Statement (.beq b c o) :=
  by
  refine of_some rfl (fun _ => ?_) (fun _ => ?_)
  · simp [cand, candOne, candMaj0A, regW, W0.off9]
    exact off9_eq _
  · rfl

theorem bne (b : XReg) (c : XReg) (o : BitVec 9) : Statement (.bne b c o) :=
  by
  refine of_some rfl (fun _ => ?_) (fun _ => ?_)
  · simp [cand, candOne, candMaj0A, regW, W0.off9]
    exact off9_eq _
  · rfl

theorem blt (b : XReg) (c : XReg) (o : BitVec 9) : Statement (.blt b c o) :=
  by
  refine of_some rfl (fun _ => ?_) (fun _ => ?_)
  · simp [cand, candOne, candMaj0A, regW, W0.off9]
    exact off9_eq _
  · rfl

theorem bge (b : XReg) (c : XReg) (o : BitVec 9) : Statement (.bge b c o) :=
  by
  refine of_some rfl (fun _ => ?_) (fun _ => ?_)
  · simp [cand, candOne, candMaj0A, regW, W0.off9]
    exact off9_eq _
  · rfl

theorem blo (b : XReg) (c : XReg) (o : BitVec 9) : Statement (.blo b c o) :=
  by
  refine of_some rfl (fun _ => ?_) (fun _ => ?_)
  · simp [cand, candOne, candMaj0A, regW, W0.off9]
    exact off9_eq _
  · rfl

theorem bhs (b : XReg) (c : XReg) (o : BitVec 9) : Statement (.bhs b c o) :=
  by
  refine of_some rfl (fun _ => ?_) (fun _ => ?_)
  · simp [cand, candOne, candMaj0A, regW, W0.off9]
    exact off9_eq _
  · rfl

theorem beqLit (b : XReg) (c : XReg) (lit : Word64) : Statement (.beqLit b c lit) :=
  of_some rfl (fun _ => rfl) (fun _ => rfl)

theorem bneLit (b : XReg) (c : XReg) (lit : Word64) : Statement (.bneLit b c lit) :=
  of_some rfl (fun _ => rfl) (fun _ => rfl)

theorem bltLit (b : XReg) (c : XReg) (lit : Word64) : Statement (.bltLit b c lit) :=
  of_some rfl (fun _ => rfl) (fun _ => rfl)

theorem bgeLit (b : XReg) (c : XReg) (lit : Word64) : Statement (.bgeLit b c lit) :=
  of_some rfl (fun _ => rfl) (fun _ => rfl)

theorem bloLit (b : XReg) (c : XReg) (lit : Word64) : Statement (.bloLit b c lit) :=
  of_some rfl (fun _ => rfl) (fun _ => rfl)

theorem bhsLit (b : XReg) (c : XReg) (lit : Word64) : Statement (.bhsLit b c lit) :=
  of_some rfl (fun _ => rfl) (fun _ => rfl)

theorem jal (a : XReg) (o : BitVec 19) : Statement (.jal a o) :=
  by
  refine of_some rfl (fun _ => ?_) (fun _ => ?_)
  · simp [cand, candOne, candMaj0B, regW, W0.off19]
    exact off19_eq _
  · rfl

theorem jalLit (a : XReg) (lit : Word64) : Statement (.jalLit a lit) :=
  of_some rfl (fun _ => rfl) (fun _ => rfl)

theorem jalr (a : XReg) (b : XReg) (i : BitVec 14) : Statement (.jalr a b i) :=
  by
  refine of_some rfl (fun _ => ?_) (fun _ => ?_)
  · simp [cand, candOne, candMaj0C, regW, immW, W0.imm14]
    exact imm14_eq _
  · rfl

theorem loop (l : BitVec 2) (b : XReg) (i : BitVec 14) : Statement (.loop l b i) :=
  by
  refine of_some rfl (fun _ => ?_) (fun _ => ?_)
  · simp [cand, candOne, candMaj0D, regW, immW, W0.imm14, at_3_2_1]
    exact imm14_eq _
  · rfl

theorem loopLit (l : BitVec 2) (i : BitVec 14) (count : Word32) : Statement (.loopLit l i count) :=
  by
  refine of_some rfl (fun _ => ?_) (fun _ => ?_)
  · simp [cand, candLit, regW, immW, W0.imm14, at_3_2_1]
    refine ⟨imm14_eq i, ?_⟩
    apply BitVec.eq_of_getLsbD_eq; intro j hj; simp; grind
  · rfl

theorem smb (i : BitVec 14) : Statement (.smb i) :=
  by
  refine of_some rfl (fun _ => ?_) (fun _ => ?_)
  · simp [cand, candExt, regW, immW, W0.imm14]
    exact imm14_eq _
  · (simp [shapeOk, nativeExtW0, regW, immW, modW])

theorem smbStrides (i : BitVec 14) (r0 : XReg) (r1 : XReg) (r2 : XReg) (r3 : XReg) (s0 : BitVec 16) (s1 : BitVec 16) (s2 : BitVec 16) (s3 : BitVec 16) : Statement (.smbStrides i r0 r1 r2 r3 s0 s1 s2 s3) :=
  by
  refine of_some rfl (fun _ => ?_) (fun _ => ?_)
  · (simp [cand, candExtLit, regW, immW, W0.imm14]) <;> (try ((repeat' apply And.intro) <;> (first | rfl | exact imm14_eq _ | (apply BitVec.eq_of_getLsbD_eq; intro j hj; simp; grind))))
  · (simp [shapeOk, regW, immW, modW])

theorem csrr (a : XReg) (n : BitVec 12) : Statement (.csrr a n) :=
  by
  refine of_some rfl (fun _ => ?_) (fun _ => ?_)
  · simp [cand, candOne, candMaj0F, regW, at_2_3_0, at_2_3_1]
    exact csr12_eq _
  · rfl

theorem csrw (b : XReg) (n : BitVec 12) : Statement (.csrw b n) :=
  by
  refine of_some rfl (fun _ => ?_) (fun _ => ?_)
  · simp [cand, candOne, candMaj0F, regW, at_2_3_0, at_2_3_1]
    exact csr12_eq _
  · rfl

theorem csrs (b : XReg) (n : BitVec 12) : Statement (.csrs b n) :=
  by
  refine of_some rfl (fun _ => ?_) (fun _ => ?_)
  · simp [cand, candOne, candMaj0F, regW, at_2_3_0, at_2_3_1]
    exact csr12_eq _
  · rfl

theorem csrc (b : XReg) (n : BitVec 12) : Statement (.csrc b n) :=
  by
  refine of_some rfl (fun _ => ?_) (fun _ => ?_)
  · simp [cand, candOne, candMaj0F, regW, at_2_3_0, at_2_3_1]
    exact csr12_eq _
  · rfl

theorem vlWrite (op : CsrOp) (v : Word64) : Statement (.vlWrite op v) :=
  of_none rfl

theorem vremWrite (op : CsrOp) (v : Word64) : Statement (.vremWrite op v) :=
  of_none rfl

theorem vpolWrite (op : CsrOp) (v : Word64) : Statement (.vpolWrite op v) :=
  of_none rfl

theorem frmWrite (op : CsrOp) (v : Word64) : Statement (.frmWrite op v) :=
  of_none rfl

theorem fflagsWrite (op : CsrOp) (v : Word64) : Statement (.fflagsWrite op v) :=
  of_none rfl

theorem awinWrite (op : CsrOp) (v : Word64) : Statement (.awinWrite op v) :=
  of_none rfl

theorem lcWrite (n : BitVec 2) (op : CsrOp) (v : Word64) : Statement (.lcWrite n op v) :=
  of_none rfl

theorem lsLeWrite (isEnd : Bool) (n : BitVec 2) (op : CsrOp) (v : Word64) : Statement (.lsLeWrite isEnd n op v) :=
  of_none rfl

theorem wboundWrite (op : CsrOp) (v : Word64) : Statement (.wboundWrite op v) :=
  of_none rfl

theorem registerWrite (r : RegTarget) (op : CsrOp) (v : Word64) : Statement (.registerWrite r op v) :=
  of_none rfl

theorem nop : Statement .nop :=
  of_some rfl (fun _ => rfl) (fun _ => rfl)

theorem tret : Statement .tret :=
  of_some rfl (fun _ => rfl) (fun _ => rfl)

theorem brk : Statement .brk :=
  of_some rfl (fun _ => rfl) (fun _ => rfl)

theorem halt : Statement .halt :=
  of_some rfl (fun _ => rfl) (fun _ => rfl)

theorem fenceSv (s : Scope) : Statement (.fenceSv s) :=
  by
  refine of_some rfl (fun _ => ?_) (fun _ => ?_)
  · simp [cand, candOne, candMaj3C, regW, at_2_3_1, scope_code]
  · rfl

theorem fenceVs (s : Scope) : Statement (.fenceVs s) :=
  by
  refine of_some rfl (fun _ => ?_) (fun _ => ?_)
  · simp [cand, candOne, candMaj3C, regW, at_2_3_1, scope_code]
  · rfl

theorem fenceVv (s : Scope) : Statement (.fenceVv s) :=
  by
  refine of_some rfl (fun _ => ?_) (fun _ => ?_)
  · simp [cand, candOne, candMaj3C, regW, at_2_3_1, scope_code]
  · rfl

theorem fenceAll (s : Scope) : Statement (.fenceAll s) :=
  by
  refine of_some rfl (fun _ => ?_) (fun _ => ?_)
  · simp [cand, candOne, candMaj3C, regW, at_2_3_1, scope_code]
  · rfl

theorem flush (b : XReg) (c : XReg) : Statement (.flush b c) :=
  of_some rfl (fun _ => rfl) (fun _ => rfl)

theorem trap (i : BitVec 14) : Statement (.trap i) :=
  by
  refine of_some rfl (fun _ => ?_) (fun _ => ?_)
  · simp [cand, candOne, candMaj3D, regW, immW, W0.imm14]
    exact imm14_eq _
  · rfl

theorem ld (a : XReg) (b : XReg) (t : ElemTy) (o : BitVec 10) : Statement (.ld a b t o) :=
  by
  refine of_some rfl (fun _ => ?_) (fun _ => ?_)
  · simp [cand, candOne, candMaj30, regW, at_1_4_0, at_1_4_1, elem_code]
    exact off10_eq _
  · rfl

theorem ldLit (a : XReg) (b : XReg) (t : ElemTy) (lit : Word64) : Statement (.ldLit a b t lit) :=
  by
  refine of_some rfl (fun _ => ?_) (fun _ => ?_)
  · simp [cand, candLit, regW, at_1_4_1, elem_code]
  · rfl

theorem ldIndexed (a : XReg) (b : XReg) (c : XReg) (t : ElemTy) (k : BitVec 2) : Statement (.ldIndexed a b c t k) :=
  by
  refine of_some rfl (fun _ => ?_) (fun _ => ?_)
  · simp [cand, candOne, candMaj31, regW, at_3_2_1, elem_code]
  · rfl

theorem st (a : XReg) (b : XReg) (z : BitVec 2) (o : BitVec 10) : Statement (.st a b z o) :=
  by
  refine of_some rfl (fun _ => ?_) (fun _ => ?_)
  · simp [cand, candOne, candMaj32, regW, at_1_2_2_0, at_1_2_2_1]
    exact off10_eq _
  · rfl

theorem stLit (a : XReg) (b : XReg) (z : BitVec 2) (lit : Word64) : Statement (.stLit a b z lit) :=
  by
  refine of_some rfl (fun _ => ?_) (fun _ => ?_)
  · simp [cand, candLit, regW, at_1_2_2_1]
  · rfl

theorem stIndexed (a : XReg) (b : XReg) (c : XReg) (k : BitVec 2) (z : BitVec 2) : Statement (.stIndexed a b c k z) :=
  by
  refine of_some rfl (fun _ => ?_) (fun _ => ?_)
  · simp [cand, candOne, candMaj33, regW, at_1_2_2_1, at_1_2_2_2]
  · rfl

theorem ldAcq (a : XReg) (b : XReg) (s : Scope) (z : BitVec 2) : Statement (.ldAcq a b s z) :=
  by
  refine of_some rfl (fun _ => ?_) (fun _ => ?_)
  · have h : ∀ z : BitVec 2, (0#3 ++ z).extractLsb 2 2 = 0#1 := by decide
    simp [cand, candOne, candMaj34, regW, h, at_1_3_1, at_3_2_1, scope_code]
  · rfl

theorem stRel (a : XReg) (b : XReg) (s : Scope) (z : BitVec 2) : Statement (.stRel a b s z) :=
  by
  refine of_some rfl (fun _ => ?_) (fun _ => ?_)
  · have h : ∀ z : BitVec 2, (1#3 ++ z).extractLsb 2 2 = 1#1 := by decide
    simp [cand, candOne, candMaj34, regW, h, at_1_3_1, at_3_2_1, scope_code]
  · rfl

theorem amoAdd (a : XReg) (b : XReg) (c : XReg) (s : Scope) (z : BitVec 1) : Statement (.amoAdd a b c s z) :=
  by
  refine of_some rfl (fun _ => ?_) (fun _ => ?_)
  · simp [cand, candOne, candMaj35, regW, at_1_4_0, at_1_4_1, at_1_3_1, scope_code]
  · rfl

theorem amoMin (a : XReg) (b : XReg) (c : XReg) (s : Scope) (u : BitVec 1) (z : BitVec 1) : Statement (.amoMin a b c s u z) :=
  by
  refine of_some rfl (fun _ => ?_) (fun _ => ?_)
  · simp [cand, candOne, candMaj35, regW, at_1_4_0, at_1_4_1, at_1_3_0, at_1_3_1, scope_code]
  · rfl

theorem amoMax (a : XReg) (b : XReg) (c : XReg) (s : Scope) (u : BitVec 1) (z : BitVec 1) : Statement (.amoMax a b c s u z) :=
  by
  refine of_some rfl (fun _ => ?_) (fun _ => ?_)
  · simp [cand, candOne, candMaj35, regW, at_1_4_0, at_1_4_1, at_1_3_0, at_1_3_1, scope_code]
  · rfl

theorem amoAnd (a : XReg) (b : XReg) (c : XReg) (s : Scope) (z : BitVec 1) : Statement (.amoAnd a b c s z) :=
  by
  refine of_some rfl (fun _ => ?_) (fun _ => ?_)
  · simp [cand, candOne, candMaj35, regW, at_1_4_0, at_1_4_1, at_1_3_1, scope_code]
  · rfl

theorem amoOr (a : XReg) (b : XReg) (c : XReg) (s : Scope) (z : BitVec 1) : Statement (.amoOr a b c s z) :=
  by
  refine of_some rfl (fun _ => ?_) (fun _ => ?_)
  · simp [cand, candOne, candMaj35, regW, at_1_4_0, at_1_4_1, at_1_3_1, scope_code]
  · rfl

theorem amoXor (a : XReg) (b : XReg) (c : XReg) (s : Scope) (z : BitVec 1) : Statement (.amoXor a b c s z) :=
  by
  refine of_some rfl (fun _ => ?_) (fun _ => ?_)
  · simp [cand, candOne, candMaj35, regW, at_1_4_0, at_1_4_1, at_1_3_1, scope_code]
  · rfl

theorem amoSwap (a : XReg) (b : XReg) (c : XReg) (s : Scope) (z : BitVec 1) : Statement (.amoSwap a b c s z) :=
  by
  refine of_some rfl (fun _ => ?_) (fun _ => ?_)
  · simp [cand, candOne, candMaj35, regW, at_1_4_0, at_1_4_1, at_1_3_1, scope_code]
  · rfl

theorem amoCas (a : XReg) (b : XReg) (c : XReg) (d : XReg) (s : Scope) (z : BitVec 1) : Statement (.amoCas a b c d s z) :=
  by
  refine of_some rfl (fun _ => ?_) (fun _ => ?_)
  · simp [cand, candExt, regW, modW, at_1_4_0, at_1_3_1, scope_code]
  · simp [shapeOk, nativeExtW0, regW, modW, at_1_4_1]; cases s <;> rfl

theorem redAdd (b : XReg) (c : XReg) (s : Scope) (z : BitVec 1) : Statement (.redAdd b c s z) :=
  by
  refine of_some rfl (fun _ => ?_) (fun _ => ?_)
  · simp [cand, candOne, candMaj35, regW, at_1_4_0, at_1_4_1, at_1_3_1, scope_code]
  · rfl

theorem redMin (b : XReg) (c : XReg) (s : Scope) (u : BitVec 1) (z : BitVec 1) : Statement (.redMin b c s u z) :=
  by
  refine of_some rfl (fun _ => ?_) (fun _ => ?_)
  · simp [cand, candOne, candMaj35, regW, at_1_4_0, at_1_4_1, at_1_3_0, at_1_3_1, scope_code]
  · rfl

theorem redMax (b : XReg) (c : XReg) (s : Scope) (u : BitVec 1) (z : BitVec 1) : Statement (.redMax b c s u z) :=
  by
  refine of_some rfl (fun _ => ?_) (fun _ => ?_)
  · simp [cand, candOne, candMaj35, regW, at_1_4_0, at_1_4_1, at_1_3_0, at_1_3_1, scope_code]
  · rfl

theorem redAnd (b : XReg) (c : XReg) (s : Scope) (z : BitVec 1) : Statement (.redAnd b c s z) :=
  by
  refine of_some rfl (fun _ => ?_) (fun _ => ?_)
  · simp [cand, candOne, candMaj35, regW, at_1_4_0, at_1_4_1, at_1_3_1, scope_code]
  · rfl

theorem redOr (b : XReg) (c : XReg) (s : Scope) (z : BitVec 1) : Statement (.redOr b c s z) :=
  by
  refine of_some rfl (fun _ => ?_) (fun _ => ?_)
  · simp [cand, candOne, candMaj35, regW, at_1_4_0, at_1_4_1, at_1_3_1, scope_code]
  · rfl

theorem redXor (b : XReg) (c : XReg) (s : Scope) (z : BitVec 1) : Statement (.redXor b c s z) :=
  by
  refine of_some rfl (fun _ => ?_) (fun _ => ?_)
  · simp [cand, candOne, candMaj35, regW, at_1_4_0, at_1_4_1, at_1_3_1, scope_code]
  · rfl

theorem vaddF32 (a : VReg) (b : VReg) (c : VReg) (p : PReg) : Statement (.vaddF32 a b c p) :=
  of_some rfl (fun _ => rfl) (fun _ => rfl)

theorem vsubF32 (a : VReg) (b : VReg) (c : VReg) (p : PReg) : Statement (.vsubF32 a b c p) :=
  of_some rfl (fun _ => rfl) (fun _ => rfl)

theorem vmulF32 (a : VReg) (b : VReg) (c : VReg) (p : PReg) : Statement (.vmulF32 a b c p) :=
  of_some rfl (fun _ => rfl) (fun _ => rfl)

theorem vfmaF32 (a : VReg) (b : VReg) (c : VReg) (p : PReg) : Statement (.vfmaF32 a b c p) :=
  of_some rfl (fun _ => rfl) (fun _ => rfl)

theorem vdivF32 (a : VReg) (b : VReg) (c : VReg) (p : PReg) : Statement (.vdivF32 a b c p) :=
  of_some rfl (fun _ => rfl) (fun _ => rfl)

theorem vsqrtF32 (a : VReg) (b : VReg) (p : PReg) : Statement (.vsqrtF32 a b p) :=
  of_some rfl (fun _ => rfl) (fun _ => rfl)

theorem vrsqrtF32 (a : VReg) (b : VReg) (p : PReg) : Statement (.vrsqrtF32 a b p) :=
  of_some rfl (fun _ => rfl) (fun _ => rfl)

theorem vrcpF32 (a : VReg) (b : VReg) (p : PReg) : Statement (.vrcpF32 a b p) :=
  of_some rfl (fun _ => rfl) (fun _ => rfl)

theorem vexp2F32 (a : VReg) (b : VReg) (p : PReg) : Statement (.vexp2F32 a b p) :=
  of_some rfl (fun _ => rfl) (fun _ => rfl)

theorem vlog2F32 (a : VReg) (b : VReg) (p : PReg) : Statement (.vlog2F32 a b p) :=
  of_some rfl (fun _ => rfl) (fun _ => rfl)

theorem vminF32 (a : VReg) (b : VReg) (c : VReg) (p : PReg) : Statement (.vminF32 a b c p) :=
  of_some rfl (fun _ => rfl) (fun _ => rfl)

theorem vmaxF32 (a : VReg) (b : VReg) (c : VReg) (p : PReg) : Statement (.vmaxF32 a b c p) :=
  of_some rfl (fun _ => rfl) (fun _ => rfl)

theorem vabsF32 (a : VReg) (b : VReg) (p : PReg) : Statement (.vabsF32 a b p) :=
  of_some rfl (fun _ => rfl) (fun _ => rfl)

theorem vnegF32 (a : VReg) (b : VReg) (p : PReg) : Statement (.vnegF32 a b p) :=
  of_some rfl (fun _ => rfl) (fun _ => rfl)

theorem vaddF64 (a : VReg) (b : VReg) (c : VReg) (p : PReg) : Statement (.vaddF64 a b c p) :=
  of_some rfl (fun _ => rfl) (fun _ => rfl)

theorem vsubF64 (a : VReg) (b : VReg) (c : VReg) (p : PReg) : Statement (.vsubF64 a b c p) :=
  of_some rfl (fun _ => rfl) (fun _ => rfl)

theorem vmulF64 (a : VReg) (b : VReg) (c : VReg) (p : PReg) : Statement (.vmulF64 a b c p) :=
  of_some rfl (fun _ => rfl) (fun _ => rfl)

theorem vfmaF64 (a : VReg) (b : VReg) (c : VReg) (p : PReg) : Statement (.vfmaF64 a b c p) :=
  of_some rfl (fun _ => rfl) (fun _ => rfl)

theorem vdivF64 (a : VReg) (b : VReg) (c : VReg) (p : PReg) : Statement (.vdivF64 a b c p) :=
  of_some rfl (fun _ => rfl) (fun _ => rfl)

theorem vsqrtF64 (a : VReg) (b : VReg) (p : PReg) : Statement (.vsqrtF64 a b p) :=
  of_some rfl (fun _ => rfl) (fun _ => rfl)

theorem vrsqrtF64 (a : VReg) (b : VReg) (p : PReg) : Statement (.vrsqrtF64 a b p) :=
  of_some rfl (fun _ => rfl) (fun _ => rfl)

theorem vrcpF64 (a : VReg) (b : VReg) (p : PReg) : Statement (.vrcpF64 a b p) :=
  of_some rfl (fun _ => rfl) (fun _ => rfl)

theorem vexp2F64 (a : VReg) (b : VReg) (p : PReg) : Statement (.vexp2F64 a b p) :=
  of_some rfl (fun _ => rfl) (fun _ => rfl)

theorem vlog2F64 (a : VReg) (b : VReg) (p : PReg) : Statement (.vlog2F64 a b p) :=
  of_some rfl (fun _ => rfl) (fun _ => rfl)

theorem vminF64 (a : VReg) (b : VReg) (c : VReg) (p : PReg) : Statement (.vminF64 a b c p) :=
  of_some rfl (fun _ => rfl) (fun _ => rfl)

theorem vmaxF64 (a : VReg) (b : VReg) (c : VReg) (p : PReg) : Statement (.vmaxF64 a b c p) :=
  of_some rfl (fun _ => rfl) (fun _ => rfl)

theorem vabsF64 (a : VReg) (b : VReg) (p : PReg) : Statement (.vabsF64 a b p) :=
  of_some rfl (fun _ => rfl) (fun _ => rfl)

theorem vnegF64 (a : VReg) (b : VReg) (p : PReg) : Statement (.vnegF64 a b p) :=
  of_some rfl (fun _ => rfl) (fun _ => rfl)

theorem vaddS32 (a : VReg) (b : VReg) (c : VReg) (p : PReg) : Statement (.vaddS32 a b c p) :=
  of_some rfl (fun _ => rfl) (fun _ => rfl)

theorem vsubS32 (a : VReg) (b : VReg) (c : VReg) (p : PReg) : Statement (.vsubS32 a b c p) :=
  of_some rfl (fun _ => rfl) (fun _ => rfl)

theorem vmulS32 (a : VReg) (b : VReg) (c : VReg) (p : PReg) : Statement (.vmulS32 a b c p) :=
  of_some rfl (fun _ => rfl) (fun _ => rfl)

theorem vfmaS32 (a : VReg) (b : VReg) (c : VReg) (p : PReg) : Statement (.vfmaS32 a b c p) :=
  of_some rfl (fun _ => rfl) (fun _ => rfl)

theorem vminS32 (a : VReg) (b : VReg) (c : VReg) (p : PReg) : Statement (.vminS32 a b c p) :=
  of_some rfl (fun _ => rfl) (fun _ => rfl)

theorem vmaxS32 (a : VReg) (b : VReg) (c : VReg) (p : PReg) : Statement (.vmaxS32 a b c p) :=
  of_some rfl (fun _ => rfl) (fun _ => rfl)

theorem vabsS32 (a : VReg) (b : VReg) (p : PReg) : Statement (.vabsS32 a b p) :=
  of_some rfl (fun _ => rfl) (fun _ => rfl)

theorem vnegS32 (a : VReg) (b : VReg) (p : PReg) : Statement (.vnegS32 a b p) :=
  of_some rfl (fun _ => rfl) (fun _ => rfl)

theorem vandS32 (a : VReg) (b : VReg) (c : VReg) (p : PReg) : Statement (.vandS32 a b c p) :=
  of_some rfl (fun _ => rfl) (fun _ => rfl)

theorem vorS32 (a : VReg) (b : VReg) (c : VReg) (p : PReg) : Statement (.vorS32 a b c p) :=
  of_some rfl (fun _ => rfl) (fun _ => rfl)

theorem vxorS32 (a : VReg) (b : VReg) (c : VReg) (p : PReg) : Statement (.vxorS32 a b c p) :=
  of_some rfl (fun _ => rfl) (fun _ => rfl)

theorem vshlS32 (a : VReg) (b : VReg) (c : VReg) (p : PReg) : Statement (.vshlS32 a b c p) :=
  of_some rfl (fun _ => rfl) (fun _ => rfl)

theorem vshrS32 (a : VReg) (b : VReg) (c : VReg) (p : PReg) : Statement (.vshrS32 a b c p) :=
  of_some rfl (fun _ => rfl) (fun _ => rfl)

theorem vsraS32 (a : VReg) (b : VReg) (c : VReg) (p : PReg) : Statement (.vsraS32 a b c p) :=
  of_some rfl (fun _ => rfl) (fun _ => rfl)

theorem vaddExt (a : VReg) (b : VReg) (c : VReg) (t : ElemTy) (rm : Rm) (p : PReg) : Statement (.vaddExt a b c t rm p) :=
  by
  refine of_some rfl (fun _ => ?_) (fun _ => ?_)
  · simp [cand, candExt, candVec, regW, modW, elem_code, rm_code]
  · (simp [shapeOk, nativeExtW0, regW, modW])

theorem vsubExt (a : VReg) (b : VReg) (c : VReg) (t : ElemTy) (rm : Rm) (p : PReg) : Statement (.vsubExt a b c t rm p) :=
  by
  refine of_some rfl (fun _ => ?_) (fun _ => ?_)
  · simp [cand, candExt, candVec, regW, modW, elem_code, rm_code]
  · (simp [shapeOk, nativeExtW0, regW, modW])

theorem vmulExt (a : VReg) (b : VReg) (c : VReg) (t : ElemTy) (rm : Rm) (p : PReg) : Statement (.vmulExt a b c t rm p) :=
  by
  refine of_some rfl (fun _ => ?_) (fun _ => ?_)
  · simp [cand, candExt, candVec, regW, modW, elem_code, rm_code]
  · (simp [shapeOk, nativeExtW0, regW, modW])

theorem vfmaExt (a : VReg) (b : VReg) (c : VReg) (d : VReg) (t : ElemTy) (rm : Rm) (p : PReg) : Statement (.vfmaExt a b c d t rm p) :=
  by
  refine of_some rfl (fun _ => ?_) (fun _ => ?_)
  · simp [cand, candExt, candVec, regW, modW, elem_code, rm_code]
  · (simp [shapeOk, nativeExtW0, regW, modW])

theorem vdivExt (a : VReg) (b : VReg) (c : VReg) (t : ElemTy) (rm : Rm) (p : PReg) : Statement (.vdivExt a b c t rm p) :=
  by
  refine of_some rfl (fun _ => ?_) (fun _ => ?_)
  · simp [cand, candExt, candVec, regW, modW, elem_code, rm_code]
  · (simp [shapeOk, nativeExtW0, regW, modW])

theorem vsqrtExt (a : VReg) (b : VReg) (t : ElemTy) (rm : Rm) (p : PReg) : Statement (.vsqrtExt a b t rm p) :=
  by
  refine of_some rfl (fun _ => ?_) (fun _ => ?_)
  · simp [cand, candExt, candVec, regW, modW, elem_code, rm_code]
  · (simp [shapeOk, nativeExtW0, regW, modW])

theorem vrsqrtExt (a : VReg) (b : VReg) (t : ElemTy) (rm : Rm) (p : PReg) : Statement (.vrsqrtExt a b t rm p) :=
  by
  refine of_some rfl (fun _ => ?_) (fun _ => ?_)
  · simp [cand, candExt, candVec, regW, modW, elem_code, rm_code]
  · (simp [shapeOk, nativeExtW0, regW, modW])

theorem vrcpExt (a : VReg) (b : VReg) (t : ElemTy) (rm : Rm) (p : PReg) : Statement (.vrcpExt a b t rm p) :=
  by
  refine of_some rfl (fun _ => ?_) (fun _ => ?_)
  · simp [cand, candExt, candVec, regW, modW, elem_code, rm_code]
  · (simp [shapeOk, nativeExtW0, regW, modW])

theorem vexp2Ext (a : VReg) (b : VReg) (t : ElemTy) (rm : Rm) (p : PReg) : Statement (.vexp2Ext a b t rm p) :=
  by
  refine of_some rfl (fun _ => ?_) (fun _ => ?_)
  · simp [cand, candExt, candVec, regW, modW, elem_code, rm_code]
  · (simp [shapeOk, nativeExtW0, regW, modW])

theorem vlog2Ext (a : VReg) (b : VReg) (t : ElemTy) (rm : Rm) (p : PReg) : Statement (.vlog2Ext a b t rm p) :=
  by
  refine of_some rfl (fun _ => ?_) (fun _ => ?_)
  · simp [cand, candExt, candVec, regW, modW, elem_code, rm_code]
  · (simp [shapeOk, nativeExtW0, regW, modW])

theorem vminExt (a : VReg) (b : VReg) (c : VReg) (t : ElemTy) (rm : Rm) (p : PReg) : Statement (.vminExt a b c t rm p) :=
  by
  refine of_some rfl (fun _ => ?_) (fun _ => ?_)
  · simp [cand, candExt, candVec, regW, modW, elem_code, rm_code]
  · (simp [shapeOk, nativeExtW0, regW, modW])

theorem vmaxExt (a : VReg) (b : VReg) (c : VReg) (t : ElemTy) (rm : Rm) (p : PReg) : Statement (.vmaxExt a b c t rm p) :=
  by
  refine of_some rfl (fun _ => ?_) (fun _ => ?_)
  · simp [cand, candExt, candVec, regW, modW, elem_code, rm_code]
  · (simp [shapeOk, nativeExtW0, regW, modW])

theorem vabsExt (a : VReg) (b : VReg) (t : ElemTy) (rm : Rm) (p : PReg) : Statement (.vabsExt a b t rm p) :=
  by
  refine of_some rfl (fun _ => ?_) (fun _ => ?_)
  · simp [cand, candExt, candVec, regW, modW, elem_code, rm_code]
  · (simp [shapeOk, nativeExtW0, regW, modW])

theorem vnegExt (a : VReg) (b : VReg) (t : ElemTy) (rm : Rm) (p : PReg) : Statement (.vnegExt a b t rm p) :=
  by
  refine of_some rfl (fun _ => ?_) (fun _ => ?_)
  · simp [cand, candExt, candVec, regW, modW, elem_code, rm_code]
  · (simp [shapeOk, nativeExtW0, regW, modW])

theorem vandExt (a : VReg) (b : VReg) (c : VReg) (t : ElemTy) (rm : Rm) (p : PReg) : Statement (.vandExt a b c t rm p) :=
  by
  refine of_some rfl (fun _ => ?_) (fun _ => ?_)
  · simp [cand, candExt, candVec, regW, modW, elem_code, rm_code]
  · (simp [shapeOk, nativeExtW0, regW, modW])

theorem vorExt (a : VReg) (b : VReg) (c : VReg) (t : ElemTy) (rm : Rm) (p : PReg) : Statement (.vorExt a b c t rm p) :=
  by
  refine of_some rfl (fun _ => ?_) (fun _ => ?_)
  · simp [cand, candExt, candVec, regW, modW, elem_code, rm_code]
  · (simp [shapeOk, nativeExtW0, regW, modW])

theorem vxorExt (a : VReg) (b : VReg) (c : VReg) (t : ElemTy) (rm : Rm) (p : PReg) : Statement (.vxorExt a b c t rm p) :=
  by
  refine of_some rfl (fun _ => ?_) (fun _ => ?_)
  · simp [cand, candExt, candVec, regW, modW, elem_code, rm_code]
  · (simp [shapeOk, nativeExtW0, regW, modW])

theorem vshlExt (a : VReg) (b : VReg) (c : VReg) (t : ElemTy) (rm : Rm) (p : PReg) : Statement (.vshlExt a b c t rm p) :=
  by
  refine of_some rfl (fun _ => ?_) (fun _ => ?_)
  · simp [cand, candExt, candVec, regW, modW, elem_code, rm_code]
  · (simp [shapeOk, nativeExtW0, regW, modW])

theorem vshrExt (a : VReg) (b : VReg) (c : VReg) (t : ElemTy) (rm : Rm) (p : PReg) : Statement (.vshrExt a b c t rm p) :=
  by
  refine of_some rfl (fun _ => ?_) (fun _ => ?_)
  · simp [cand, candExt, candVec, regW, modW, elem_code, rm_code]
  · (simp [shapeOk, nativeExtW0, regW, modW])

theorem vsraExt (a : VReg) (b : VReg) (c : VReg) (t : ElemTy) (rm : Rm) (p : PReg) : Statement (.vsraExt a b c t rm p) :=
  by
  refine of_some rfl (fun _ => ?_) (fun _ => ?_)
  · simp [cand, candExt, candVec, regW, modW, elem_code, rm_code]
  · (simp [shapeOk, nativeExtW0, regW, modW])

theorem vcvt (a : VReg) (b : VReg) (t : ElemTy) (tb : ElemTy) (rm : Rm) (p : PReg) : Statement (.vcvt a b t tb rm p) :=
  by
  refine of_some rfl (fun _ => ?_) (fun _ => ?_)
  · simp [cand, candExt, candVec, regW, modW, elem_code, rm_code]
  · (simp [shapeOk, nativeExtW0, regW, modW])

theorem vcmp (a : PReg) (b : VReg) (c : VReg) (p : PReg) (x : Cond) (k : BitVec 2) : Statement (.vcmp a b c p x k) :=
  by
  refine of_some rfl (fun _ => ?_) (fun _ => ?_)
  · simp [cand, candOne, candMaj14, regW, at_1_4_1, at_2_3_0, at_2_3_1, cond_code]
  · rfl

theorem vcmpExt (a : PReg) (b : VReg) (c : VReg) (x : Cond) (t : ElemTy) (p : PReg) : Statement (.vcmpExt a b c x t p) :=
  by
  refine of_some rfl (fun _ => ?_) (fun _ => ?_)
  · have h : ∀ y : BitVec 3, (0#5 ++ y).extractLsb 2 0 = y := by decide
    simp [cand, candExt, regW, modW, h, at_1_4_1, cond_code, elem_code]
  · have h : ∀ y : BitVec 4, (0#1 ++ y).toNat < 16 := by decide
    simp [shapeOk, nativeExtW0, regW, modW, h]; cases x <;> decide

theorem vsel (a : VReg) (b : VReg) (c : VReg) (p : PReg) : Statement (.vsel a b c p) :=
  of_some rfl (fun _ => rfl) (fun _ => rfl)

theorem vmov (a : VReg) (b : VReg) (p : PReg) : Statement (.vmov a b p) :=
  of_some rfl (fun _ => rfl) (fun _ => rfl)

theorem vbcast (a : VReg) (b : XReg) (p : PReg) : Statement (.vbcast a b p) :=
  of_some rfl (fun _ => rfl) (fun _ => rfl)

theorem vext (a : XReg) (b : VReg) (c : XReg) : Statement (.vext a b c) :=
  of_some rfl (fun _ => rfl) (fun _ => rfl)

theorem vid (a : VReg) (p : PReg) : Statement (.vid a p) :=
  of_some rfl (fun _ => rfl) (fun _ => rfl)

theorem vred (op : RedOp) (a : XReg) (b : VReg) (t : ElemTy) (rm : Rm) (p : PReg) : Statement (.vred op a b t rm p) :=
  by
  refine of_some rfl (fun _ => ?_) (fun _ => ?_)
  · (simp [cand, candExt, candRed, regW, modW, elem_code, red_code, rm_code]) <;> (try ((repeat' apply And.intro) <;> (first | rfl | (apply BitVec.eq_of_getLsbD_eq; intro j hj; simp; grind))))
  · simp [shapeOk, nativeExtW0, regW, modW]; cases op <;> decide

theorem vsred (op : RedOp) (a : VReg) (b : VReg) (d : PReg) (t : ElemTy) (rm : Rm) (p : PReg) : Statement (.vsred op a b d t rm p) :=
  by
  refine of_some rfl (fun _ => ?_) (fun _ => ?_)
  · (simp [cand, candExt, candRed, regW, modW, at_1_4_1, elem_code, red_code, rm_code]) <;> (try ((repeat' apply And.intro) <;> (first | rfl | (apply BitVec.eq_of_getLsbD_eq; intro j hj; simp; grind))))
  · simp [shapeOk, nativeExtW0, regW, modW]; cases op <;> decide

theorem vscan (op : RedOp) (excl : Bool) (a : VReg) (b : VReg) (t : ElemTy) (rm : Rm) (p : PReg) : Statement (.vscan op excl a b t rm p) :=
  by
  refine of_some rfl (fun _ => ?_) (fun _ => ?_)
  · (cases excl <;> simp [cand, candExt, candRed, regW, modW, bit, elem_code, red_code, rm_code]) <;> (try ((repeat' apply And.intro) <;> (first | rfl | (apply BitVec.eq_of_getLsbD_eq; intro j hj; simp; grind))))
  · simp [shapeOk, nativeExtW0, regW, modW]; cases op <;> decide

theorem vsscan (op : RedOp) (excl : Bool) (a : VReg) (b : VReg) (d : PReg) (t : ElemTy) (rm : Rm) (p : PReg) : Statement (.vsscan op excl a b d t rm p) :=
  by
  refine of_some rfl (fun _ => ?_) (fun _ => ?_)
  · (cases excl <;> simp [cand, candExt, candRed, regW, modW, bit, at_1_4_1, elem_code, red_code, rm_code]) <;> (try ((repeat' apply And.intro) <;> (first | rfl | (apply BitVec.eq_of_getLsbD_eq; intro j hj; simp; grind))))
  · simp [shapeOk, nativeExtW0, regW, modW]; cases op <;> decide

theorem vcompress (a : VReg) (b : VReg) (p : PReg) : Statement (.vcompress a b p) :=
  of_some rfl (fun _ => rfl) (fun _ => rfl)

theorem vexpand (a : VReg) (b : VReg) (p : PReg) : Statement (.vexpand a b p) :=
  of_some rfl (fun _ => rfl) (fun _ => rfl)

theorem vperm (a : VReg) (b : VReg) (c : VReg) (p : PReg) : Statement (.vperm a b c p) :=
  of_some rfl (fun _ => rfl) (fun _ => rfl)

theorem vslide (a : VReg) (b : VReg) (c : XReg) (p : PReg) : Statement (.vslide a b c p) :=
  of_some rfl (fun _ => rfl) (fun _ => rfl)

theorem vpass (a : VReg) (b : VReg) (c : XReg) (p : PReg) : Statement (.vpass a b c p) :=
  of_some rfl (fun _ => rfl) (fun _ => rfl)

theorem vrand (a : VReg) (b : XReg) (c : XReg) (p : PReg) : Statement (.vrand a b c p) :=
  of_some rfl (fun _ => rfl) (fun _ => rfl)

theorem pand (a : PReg) (b : PReg) (c : PReg) : Statement (.pand a b c) :=
  by
  refine of_some rfl (fun _ => ?_) (fun _ => ?_)
  · simp [cand, candOne, candMaj18, regW, at_1_4_1]
  · rfl

theorem por (a : PReg) (b : PReg) (c : PReg) : Statement (.por a b c) :=
  by
  refine of_some rfl (fun _ => ?_) (fun _ => ?_)
  · simp [cand, candOne, candMaj18, regW, at_1_4_1]
  · rfl

theorem pxor (a : PReg) (b : PReg) (c : PReg) : Statement (.pxor a b c) :=
  by
  refine of_some rfl (fun _ => ?_) (fun _ => ?_)
  · simp [cand, candOne, candMaj18, regW, at_1_4_1]
  · rfl

theorem pnot (a : PReg) (b : PReg) : Statement (.pnot a b) :=
  by
  refine of_some rfl (fun _ => ?_) (fun _ => ?_)
  · simp [cand, candOne, candMaj18, regW, at_1_4_1]
  · rfl

theorem pset (a : PReg) (b : XReg) : Statement (.pset a b) :=
  by
  refine of_some rfl (fun _ => ?_) (fun _ => ?_)
  · simp [cand, candOne, candMaj18, regW, at_1_4_1]
  · rfl

theorem pfirst (a : XReg) (b : PReg) : Statement (.pfirst a b) :=
  by
  refine of_some rfl (fun _ => ?_) (fun _ => ?_)
  · simp [cand, candOne, candMaj18, regW, at_1_4_1]
  · rfl

theorem ppop (a : XReg) (b : PReg) : Statement (.ppop a b) :=
  by
  refine of_some rfl (fun _ => ?_) (fun _ => ?_)
  · simp [cand, candOne, candMaj18, regW, at_1_4_1]
  · rfl

theorem vld (a : VReg) (b : XReg) (p : PReg) (z : BitVec 2) : Statement (.vld a b p z) :=
  by
  refine of_some rfl (fun _ => ?_) (fun _ => ?_)
  · simp [cand, candOne, candMaj19, regW, at_3_2_0, at_3_2_1]
  · rfl

theorem vlds (a : VReg) (b : XReg) (c : XReg) (p : PReg) (z : BitVec 2) : Statement (.vlds a b c p z) :=
  by
  refine of_some rfl (fun _ => ?_) (fun _ => ?_)
  · simp [cand, candOne, candMaj19, regW, at_3_2_0, at_3_2_1]
  · rfl

theorem vst (a : VReg) (b : XReg) (p : PReg) (z : BitVec 2) : Statement (.vst a b p z) :=
  by
  refine of_some rfl (fun _ => ?_) (fun _ => ?_)
  · simp [cand, candOne, candMaj19, regW, at_3_2_0, at_3_2_1]
  · rfl

theorem vsts (a : VReg) (b : XReg) (c : XReg) (p : PReg) (z : BitVec 2) : Statement (.vsts a b c p z) :=
  by
  refine of_some rfl (fun _ => ?_) (fun _ => ?_)
  · simp [cand, candOne, candMaj19, regW, at_3_2_0, at_3_2_1]
  · rfl

theorem vldOff (a : VReg) (b : XReg) (z : BitVec 2) (off : BitVec 30) (p : PReg) : Statement (.vldOff a b z off p) :=
  by
  refine of_some rfl (fun _ => ?_) (fun _ => ?_)
  · (simp [cand, candExt, candVmem, regW, at_3_2_0, at_3_2_1]) <;> (try ((repeat' apply And.intro) <;> (first | rfl | (apply BitVec.eq_of_getLsbD_eq; intro j hj; simp; grind))))
  · have h : ∀ z : BitVec 2, (0#3 ++ z).toNat < 16 := by decide
    simp [shapeOk, nativeExtW0, regW, modW, h]

theorem vldsOff (a : VReg) (b : XReg) (c : XReg) (z : BitVec 2) (off : BitVec 30) (p : PReg) : Statement (.vldsOff a b c z off p) :=
  by
  refine of_some rfl (fun _ => ?_) (fun _ => ?_)
  · (simp [cand, candExt, candVmem, regW, at_3_2_0, at_3_2_1]) <;> (try ((repeat' apply And.intro) <;> (first | rfl | (apply BitVec.eq_of_getLsbD_eq; intro j hj; simp; grind))))
  · have h : ∀ z : BitVec 2, (1#3 ++ z).toNat < 16 := by decide
    have h2 : ∀ z : BitVec 2, (1#3 ++ z).toNat >>> 2 % 2 = 1 := by decide
    simp [shapeOk, nativeExtW0, regW, modW, h, h2]

theorem vstOff (a : VReg) (b : XReg) (z : BitVec 2) (off : BitVec 30) (p : PReg) : Statement (.vstOff a b z off p) :=
  by
  refine of_some rfl (fun _ => ?_) (fun _ => ?_)
  · (simp [cand, candExt, candVmem, regW, at_3_2_0, at_3_2_1]) <;> (try ((repeat' apply And.intro) <;> (first | rfl | (apply BitVec.eq_of_getLsbD_eq; intro j hj; simp; grind))))
  · have h : ∀ z : BitVec 2, (2#3 ++ z).toNat < 16 := by decide
    simp [shapeOk, nativeExtW0, regW, modW, h]

theorem vstsOff (a : VReg) (b : XReg) (c : XReg) (z : BitVec 2) (off : BitVec 30) (p : PReg) : Statement (.vstsOff a b c z off p) :=
  by
  refine of_some rfl (fun _ => ?_) (fun _ => ?_)
  · (simp [cand, candExt, candVmem, regW, at_3_2_0, at_3_2_1]) <;> (try ((repeat' apply And.intro) <;> (first | rfl | (apply BitVec.eq_of_getLsbD_eq; intro j hj; simp; grind))))
  · have h : ∀ z : BitVec 2, (3#3 ++ z).toNat < 16 := by decide
    have h2 : ∀ z : BitVec 2, (3#3 ++ z).toNat >>> 2 % 2 = 1 := by decide
    simp [shapeOk, nativeExtW0, regW, modW, h, h2]

theorem vldg (a : VReg) (b : XReg) (p : PReg) (z : BitVec 2) (n : BitVec 3) : Statement (.vldg a b p z n) :=
  by
  refine of_some rfl (fun _ => ?_) (fun _ => ?_)
  · simp [cand, candOne, candMaj1A, regW, at_3_2_0, at_3_2_1]
  · rfl

theorem vstg (a : VReg) (b : XReg) (p : PReg) (z : BitVec 2) (n : BitVec 3) : Statement (.vstg a b p z n) :=
  by
  refine of_some rfl (fun _ => ?_) (fun _ => ?_)
  · simp [cand, candOne, candMaj1B, regW, at_3_2_0, at_3_2_1]
  · rfl

theorem vldx (a : VReg) (b : XReg) (c : VReg) (p : PReg) (z : BitVec 2) : Statement (.vldx a b c p z) :=
  by
  refine of_some rfl (fun _ => ?_) (fun _ => ?_)
  · have h : ∀ z : BitVec 2, (0#3 ++ z).extractLsb 2 2 = 0#1 := by decide
    simp [cand, candOne, candMaj1C, regW, h, at_3_2_1]
  · rfl

theorem vstx (a : VReg) (b : XReg) (c : VReg) (p : PReg) (z : BitVec 2) : Statement (.vstx a b c p z) :=
  by
  refine of_some rfl (fun _ => ?_) (fun _ => ?_)
  · have h : ∀ z : BitVec 2, (1#3 ++ z).extractLsb 2 2 = 1#1 := by decide
    simp [cand, candOne, candMaj1C, regW, h, at_3_2_1]
  · rfl

theorem fset (a : VReg) (b : XReg) : Statement (.fset a b) :=
  of_some rfl (fun _ => rfl) (fun _ => rfl)

theorem fget (a : XReg) (b : VReg) : Statement (.fget a b) :=
  of_some rfl (fun _ => rfl) (fun _ => rfl)

theorem fadd (a : VReg) (b : VReg) (c : VReg) (p : PReg) : Statement (.fadd a b c p) :=
  of_some rfl (fun _ => rfl) (fun _ => rfl)

theorem fsub (a : VReg) (b : VReg) (c : VReg) (p : PReg) : Statement (.fsub a b c p) :=
  of_some rfl (fun _ => rfl) (fun _ => rfl)

theorem fmul (a : VReg) (b : VReg) (c : VReg) (p : PReg) : Statement (.fmul a b c p) :=
  of_some rfl (fun _ => rfl) (fun _ => rfl)

theorem fscale (a : VReg) (b : VReg) (c : XReg) (p : PReg) : Statement (.fscale a b c p) :=
  of_some rfl (fun _ => rfl) (fun _ => rfl)

theorem fdot (a : VReg) (b : VReg) (c : VReg) (p : PReg) : Statement (.fdot a b c p) :=
  of_some rfl (fun _ => rfl) (fun _ => rfl)

theorem fnorm (a : VReg) (b : VReg) (p : PReg) : Statement (.fnorm a b p) :=
  of_some rfl (fun _ => rfl) (fun _ => rfl)

theorem fdiff (a : VReg) (b : VReg) (axis : BitVec 2) (t : ElemTy) (rm : Rm) (p : PReg) : Statement (.fdiff a b axis t rm p) :=
  by
  refine of_some rfl (fun _ => ?_) (fun _ => ?_)
  · (simp [cand, candExt, candFn, regW, modW, elem_code, rm_code]) <;> (try ((repeat' apply And.intro) <;> (first | rfl | (apply BitVec.eq_of_getLsbD_eq; intro j hj; simp; grind))))
  · (simp [shapeOk, nativeExtW0, regW, modW])

theorem fint (a : VReg) (b : VReg) (t : ElemTy) (rm : Rm) (p : PReg) : Statement (.fint a b t rm p) :=
  by
  refine of_some rfl (fun _ => ?_) (fun _ => ?_)
  · (simp [cand, candExt, candFn, regW, modW, elem_code, rm_code]) <;> (try ((repeat' apply And.intro) <;> (first | rfl | (apply BitVec.eq_of_getLsbD_eq; intro j hj; simp; grind))))
  · (simp [shapeOk, nativeExtW0, regW, modW])

theorem fanti (a : VReg) (b : VReg) (axis : BitVec 2) (t : ElemTy) (rm : Rm) (p : PReg) : Statement (.fanti a b axis t rm p) :=
  by
  refine of_some rfl (fun _ => ?_) (fun _ => ?_)
  · (simp [cand, candExt, candFn, regW, modW, elem_code, rm_code]) <;> (try ((repeat' apply And.intro) <;> (first | rfl | (apply BitVec.eq_of_getLsbD_eq; intro j hj; simp; grind))))
  · (simp [shapeOk, nativeExtW0, regW, modW])

theorem fproj (a : VReg) (b : VReg) (deg : BitVec 4) (t : ElemTy) (rm : Rm) (p : PReg) : Statement (.fproj a b deg t rm p) :=
  by
  refine of_some rfl (fun _ => ?_) (fun _ => ?_)
  · (simp [cand, candExt, candFn, regW, modW, elem_code, rm_code]) <;> (try ((repeat' apply And.intro) <;> (first | rfl | (apply BitVec.eq_of_getLsbD_eq; intro j hj; simp; grind))))
  · (simp [shapeOk, nativeExtW0, regW, modW])

theorem fraise (a : VReg) (b : VReg) (deg : BitVec 4) (t : ElemTy) (rm : Rm) (p : PReg) : Statement (.fraise a b deg t rm p) :=
  by
  refine of_some rfl (fun _ => ?_) (fun _ => ?_)
  · (simp [cand, candExt, candFn, regW, modW, elem_code, rm_code]) <;> (try ((repeat' apply And.intro) <;> (first | rfl | (apply BitVec.eq_of_getLsbD_eq; intro j hj; simp; grind))))
  · (simp [shapeOk, nativeExtW0, regW, modW])

theorem fcvt (a : VReg) (b : VReg) (basis : BitVec 1) (t : ElemTy) (rm : Rm) (p : PReg) : Statement (.fcvt a b basis t rm p) :=
  by
  refine of_some rfl (fun _ => ?_) (fun _ => ?_)
  · (simp [cand, candExt, candFn, regW, modW, elem_code, rm_code]) <;> (try ((repeat' apply And.intro) <;> (first | rfl | (apply BitVec.eq_of_getLsbD_eq; intro j hj; simp; grind))))
  · (simp [shapeOk, nativeExtW0, regW, modW])

theorem ftrace (a : VReg) (b : VReg) (face : BitVec 3) (orient : BitVec 3) (t : ElemTy) (rm : Rm) (p : PReg) : Statement (.ftrace a b face orient t rm p) :=
  by
  refine of_some rfl (fun _ => ?_) (fun _ => ?_)
  · (simp [cand, candExt, candFn, regW, modW, elem_code, rm_code]) <;> (try ((repeat' apply And.intro) <;> (first | rfl | (apply BitVec.eq_of_getLsbD_eq; intro j hj; simp; grind))))
  · (simp [shapeOk, nativeExtW0, regW, modW])

theorem feval (a : VReg) (b : VReg) (c : VReg) (d : VReg) (t : ElemTy) (rm : Rm) (p : PReg) : Statement (.feval a b c d t rm p) :=
  by
  refine of_some rfl (fun _ => ?_) (fun _ => ?_)
  · (simp [cand, candExt, candFn, regW, modW, elem_code, rm_code]) <;> (try ((repeat' apply And.intro) <;> (first | rfl | (apply BitVec.eq_of_getLsbD_eq; intro j hj; simp; grind))))
  · (simp [shapeOk, nativeExtW0, regW, modW])

theorem fld (a : VReg) (b : XReg) (i : BitVec 14) : Statement (.fld a b i) :=
  by
  refine of_some rfl (fun _ => ?_) (fun _ => ?_)
  · simp [cand, candOne, candMaj22, regW, immW, W0.imm14]
    exact imm14_eq _
  · rfl

theorem fst (a : VReg) (b : XReg) (i : BitVec 14) : Statement (.fst a b i) :=
  by
  refine of_some rfl (fun _ => ?_) (fun _ => ?_)
  · simp [cand, candOne, candMaj23, regW, immW, W0.imm14]
    exact imm14_eq _
  · rfl

theorem mattach (a : XReg) (b : XReg) (c : XReg) : Statement (.mattach a b c) :=
  of_some rfl (fun _ => rfl) (fun _ => rfl)

theorem mdetach : Statement .mdetach :=
  of_some rfl (fun _ => rfl) (fun _ => rfl)

theorem mzero (n : BitVec 1) : Statement (.mzero n) :=
  by
  refine of_some rfl (fun _ => ?_) (fun _ => ?_)
  · simp [cand, candOne, candMaj28, regW, at_4_1_1]
  · rfl

theorem mldb (n : BitVec 1) (k : BitVec 1) (s : BitVec 1) (b : XReg) (c : XReg) : Statement (.mldb n k s b c) :=
  by
  refine of_some rfl (fun _ => ?_) (fun _ => ?_)
  · simp [cand, candOne, candMaj28, regW, at_2_1_1_1_1, at_2_1_1_1_2, at_2_1_1_1_3]
  · rfl

theorem msign (a : PReg) (b : XReg) (n : BitVec 1) : Statement (.msign a b n) :=
  by
  refine of_some rfl (fun _ => ?_) (fun _ => ?_)
  · simp [cand, candOne, candMaj28, regW, at_1_4_1, at_4_1_1]
  · rfl

theorem msave (n : BitVec 1) (b : XReg) : Statement (.msave n b) :=
  by
  refine of_some rfl (fun _ => ?_) (fun _ => ?_)
  · simp [cand, candOne, candMaj28, regW, at_4_1_1]
  · rfl

theorem mrest (n : BitVec 1) (b : XReg) : Statement (.mrest n b) :=
  by
  refine of_some rfl (fun _ => ?_) (fun _ => ?_)
  · simp [cand, candOne, candMaj28, regW, at_4_1_1]
  · rfl

theorem mmacc (n : BitVec 1) (k : BitVec 1) (b : XReg) (t : ElemTy) (tb : ElemTy) (boff : BitVec 7) (nblk : BitVec 2) (rowb : BitVec 2) (steps : BitVec 7) : Statement (.mmacc n k b t tb boff nblk rowb steps) :=
  by
  refine of_some rfl (fun _ => ?_) (fun _ => ?_)
  · (simp [cand, candExt, candAcc, regW, modW, at_3_1_1_1, at_3_1_1_2, elem_code]) <;> (try ((repeat' apply And.intro) <;> (first | rfl | (apply BitVec.eq_of_getLsbD_eq; intro j hj; simp; grind))))
  · have h : ∀ k n : BitVec 1, (0#3 ++ k ++ n).toNat < 4 := by decide
    simp [shapeOk, nativeExtW0, regW, modW, h]

theorem msmacc (n : BitVec 1) (k : BitVec 1) (b : XReg) (t : ElemTy) (tb : ElemTy) (boff : BitVec 7) (nblk : BitVec 2) (rowb : BitVec 2) (steps : BitVec 7) : Statement (.msmacc n k b t tb boff nblk rowb steps) :=
  by
  refine of_some rfl (fun _ => ?_) (fun _ => ?_)
  · (simp [cand, candExt, candAcc, regW, modW, at_3_1_1_1, at_3_1_1_2, elem_code]) <;> (try ((repeat' apply And.intro) <;> (first | rfl | (apply BitVec.eq_of_getLsbD_eq; intro j hj; simp; grind))))
  · have h : ∀ k n : BitVec 1, (0#3 ++ k ++ n).toNat < 4 := by decide
    simp [shapeOk, nativeExtW0, regW, modW, h]

theorem mresolve (n : BitVec 1) (t : ElemTy) (rm : Rm) (nblk : BitVec 2) (rowb : BitVec 2) : Statement (.mresolve n t rm nblk rowb) :=
  by
  refine of_some rfl (fun _ => ?_) (fun _ => ?_)
  · (simp [cand, candExt, candDrain, regW, modW, at_4_1_1, elem_code, rm_code]) <;> (try ((repeat' apply And.intro) <;> (first | rfl | (apply BitVec.eq_of_getLsbD_eq; intro j hj; simp; grind))))
  · have h : ∀ n : BitVec 1, (0#4 ++ n).toNat < 16 := by decide
    simp [shapeOk, nativeExtW0, regW, modW, h]

theorem mcmp (a : PReg) (b : XReg) (c : XReg) (t : ElemTy) (x : Cond) (n : BitVec 1) : Statement (.mcmp a b c t x n) :=
  by
  refine of_some rfl (fun _ => ?_) (fun _ => ?_)
  · have h : ∀ (n : BitVec 1) (x : BitVec 3), (0#26 ++ n ++ x).extractLsb 2 0 = x ∧
        (0#26 ++ n ++ x).extractLsb 3 3 = n := by decide
    refine bind_of (elem_code t) (bind_of (rm_code .rne) (bind_of (a := x) ?_ ?_))
    · rw [(h n x.toCode).1]; exact cond_code x
    · show some (Instr.mcmp ((0#1 ++ a).extractLsb 3 0) b c t x ((0#26 ++ n ++ x.toCode).extractLsb 3 3)) = _
      rw [(h n x.toCode).2, at_1_4_1]
  · have h : ∀ y : BitVec 4, (0#1 ++ y).toNat < 16 := by decide
    simp [shapeOk, nativeExtW0, regW, modW, h]

theorem mdrain (n : BitVec 1) (b : XReg) (c : XReg) (t : ElemTy) (rm : Rm) (clr : Bool) (sat : Bool) (pack : Bool) (layout : BitVec 2) (nblk : BitVec 2) (rowb : BitVec 2) : Statement (.mdrain n b c t rm clr sat pack layout nblk rowb) :=
  by
  refine of_some rfl (fun _ => ?_) (fun _ => ?_)
  · obtain ⟨h9, h8, h7, h6, h5, h3, h1⟩ := drain_fields clr sat pack layout nblk rowb
    refine bind_of (elem_code t) (bind_of (rm_code rm) ?_)
    show (if (BitVec.getLsbD (_ : BitVec 30) 9) = true then _ else some (Instr.mdrain ((0#4 ++ n).extractLsb 0 0) b c t rm
      (BitVec.getLsbD (_ : BitVec 30) 8) (BitVec.getLsbD (_ : BitVec 30) 7) (BitVec.getLsbD (_ : BitVec 30) 6)
      (BitVec.extractLsb 5 4 (_ : BitVec 30)) (BitVec.extractLsb 3 2 (_ : BitVec 30))
      (BitVec.extractLsb 1 0 (_ : BitVec 30)))) = _
    rw [h9, h8, h7, h6, h5, h3, h1, at_4_1_1]; rfl
  · have h : ∀ n : BitVec 1, (0#4 ++ n).toNat < 16 := by decide
    simp [shapeOk, nativeExtW0, regW, modW, h]

theorem mdrainRaw (n : BitVec 1) (b : XReg) (clr : Bool) (nblk : BitVec 2) (rowb : BitVec 2) : Statement (.mdrainRaw n b clr nblk rowb) :=
  by
  refine of_some rfl (fun _ => ?_) (fun _ => ?_)
  · obtain ⟨h9, h8, h3, h1⟩ := raw_fields clr nblk rowb
    show (if (BitVec.getLsbD (_ : BitVec 30) 9) = true then some (Instr.mdrainRaw ((0#4 ++ n).extractLsb 0 0) b
      (BitVec.getLsbD (_ : BitVec 30) 8) (BitVec.extractLsb 3 2 (_ : BitVec 30))
      (BitVec.extractLsb 1 0 (_ : BitVec 30))) else _) = _
    rw [h9, h8, h3, h1, at_4_1_1]; rfl
  · have h : ∀ n : BitVec 1, (0#4 ++ n).toNat < 16 := by decide
    simp [shapeOk, nativeExtW0, regW, modW, h]

theorem mdrainp (n : BitVec 1) (b : XReg) (clr : Bool) (nblk : BitVec 2) (rowb : BitVec 2) : Statement (.mdrainp n b clr nblk rowb) :=
  by
  refine of_some rfl (fun _ => ?_) (fun _ => ?_)
  · obtain ⟨h4, h3, h1⟩ := push_fields clr nblk rowb
    show some (Instr.mdrainp ((0#4 ++ n).extractLsb 0 0) b (BitVec.getLsbD (_ : BitVec 30) 4)
      (BitVec.extractLsb 3 2 (_ : BitVec 30)) (BitVec.extractLsb 1 0 (_ : BitVec 30))) = _
    rw [h4, h3, h1, at_4_1_1]
  · have h : ∀ n : BitVec 1, (0#4 ++ n).toNat < 16 := by decide
    simp [shapeOk, nativeExtW0, regW, modW, h]

theorem matrixCommandStart (core : Nat) : Statement (.matrixCommandStart core) :=
  of_none rfl

theorem tileArrival (hart : Nat) : Statement (.tileArrival hart) :=
  of_none rfl

theorem cpCopy (a : XReg) (b : XReg) : Statement (.cpCopy a b) :=
  of_some rfl (fun _ => rfl) (fun _ => rfl)

theorem cpGather (a : XReg) (b : XReg) : Statement (.cpGather a b) :=
  of_some rfl (fun _ => rfl) (fun _ => rfl)

theorem cpDec (a : XReg) (b : XReg) : Statement (.cpDec a b) :=
  of_some rfl (fun _ => rfl) (fun _ => rfl)

theorem swInit (b : XReg) (c : XReg) : Statement (.swInit b c) :=
  of_some rfl (fun _ => rfl) (fun _ => rfl)

theorem swWait (a : XReg) (b : XReg) (c : XReg) : Statement (.swWait a b c) :=
  of_some rfl (fun _ => rfl) (fun _ => rfl)

theorem eqPush (a : XReg) (b : XReg) : Statement (.eqPush a b) :=
  of_some rfl (fun _ => rfl) (fun _ => rfl)

theorem eqPop (a : XReg) (b : XReg) (n : BitVec 1) : Statement (.eqPop a b n) :=
  by
  refine of_some rfl (fun _ => ?_) (fun _ => ?_)
  · simp [cand, candOne, candMaj36, regW, at_4_1_1]
  · rfl

theorem engineFifoAdmit (hart : Nat) : Statement (.engineFifoAdmit hart) :=
  of_none rfl

theorem engineCommandStart (core : Nat) (eng : Nat) (seq : Nat) : Statement (.engineCommandStart core eng seq) :=
  of_none rfl

theorem commandComplete (core : Nat) (eng : Nat) (seq : Nat) : Statement (.commandComplete core eng seq) :=
  of_none rfl

theorem decodeChunkRelease (core : Nat) (seq : Nat) : Statement (.decodeChunkRelease core seq) :=
  of_none rfl

theorem completionRecordPlace (core : Nat) (eng : Nat) (seq : Nat) : Statement (.completionRecordPlace core eng seq) :=
  of_none rfl

theorem syncWaitWake (hart : Nat) : Statement (.syncWaitWake hart) :=
  of_none rfl

theorem syncWaitTimeout (hart : Nat) : Statement (.syncWaitTimeout hart) :=
  of_none rfl

theorem eqPopRecord (hart : Nat) : Statement (.eqPopRecord hart) :=
  of_none rfl

theorem eqPopTimeout (hart : Nat) : Statement (.eqPopTimeout hart) :=
  of_none rfl

theorem bar (a : BitVec 5) (b : XReg) (l : BitVec 2) : Statement (.bar a b l) :=
  by
  refine of_some rfl (fun _ => ?_) (fun _ => ?_)
  · simp [cand, candOne, candMaj38, regW, at_3_2_1]
  · rfl

theorem barArrive (a : BitVec 5) (b : XReg) (l : BitVec 2) : Statement (.barArrive a b l) :=
  by
  refine of_some rfl (fun _ => ?_) (fun _ => ?_)
  · simp [cand, candOne, candMaj38, regW, at_3_2_1]
  · rfl

theorem barWait (a : BitVec 5) (l : BitVec 2) : Statement (.barWait a l) :=
  by
  refine of_some rfl (fun _ => ?_) (fun _ => ?_)
  · simp [cand, candOne, candMaj38, regW, at_3_2_1]
  · rfl

theorem barrierRelease (hart : Nat) : Statement (.barrierRelease hart) :=
  of_none rfl

theorem futPut (a : XReg) (b : XReg) (c : XReg) : Statement (.futPut a b c) :=
  of_some rfl (fun _ => rfl) (fun _ => rfl)

theorem futGet (a : XReg) (b : XReg) : Statement (.futGet a b) :=
  of_some rfl (fun _ => rfl) (fun _ => rfl)

theorem futureFillWake (hart : Nat) : Statement (.futureFillWake hart) :=
  of_none rfl

theorem futureWaitTimeout (hart : Nat) : Statement (.futureWaitTimeout hart) :=
  of_none rfl

theorem qpush (b : XReg) (n : BitVec 2) : Statement (.qpush b n) :=
  by
  refine of_some rfl (fun _ => ?_) (fun _ => ?_)
  · simp [cand, candOne, candMaj38, regW, at_3_2_1]
  · rfl

theorem qpop (a : XReg) (n : BitVec 2) : Statement (.qpop a n) :=
  by
  refine of_some rfl (fun _ => ?_) (fun _ => ?_)
  · simp [cand, candOne, candMaj38, regW, at_3_2_1]
  · rfl

theorem queueWaitAdmit (hart : Nat) : Statement (.queueWaitAdmit hart) :=
  of_none rfl

theorem queueWaitTimeout (hart : Nat) : Statement (.queueWaitTimeout hart) :=
  of_none rfl

theorem vwait (a : XReg) (b : VReg) (c : XReg) (p : PReg) : Statement (.vwait a b c p) :=
  of_some rfl (fun _ => rfl) (fun _ => rfl)

theorem vwaitWake (hart : Nat) : Statement (.vwaitWake hart) :=
  of_none rfl

theorem waitm (a : XReg) (b : XReg) (c : XReg) (d : XReg) (t : ElemTy) (s : Scope) : Statement (.waitm a b c d t s) :=
  by
  refine of_some rfl (fun _ => ?_) (fun _ => ?_)
  · exact bind_of ((congrArg Scope.ofCode (at_1_3_1 0#1 s.toCode)).trans (scope_code s)) (bind_of (elem_code t) rfl)
  · have h : ∀ y : BitVec 3, y.toNat < 6 → (0#1 ++ y).toNat < 6 := by decide
    have h2 : s.toCode.toNat < 6 := by cases s <;> decide
    simp [shapeOk, nativeExtW0, regW, modW, h _ h2]

theorem monitorWake (hart : Nat) : Statement (.monitorWake hart) :=
  of_none rfl

theorem waitmTimeout (hart : Nat) : Statement (.waitmTimeout hart) :=
  of_none rfl

theorem lease (a : XReg) (b : XReg) (c : XReg) : Statement (.lease a b c) :=
  of_some rfl (fun _ => rfl) (fun _ => rfl)

theorem arbiterServe (core : Nat) : Statement (.arbiterServe core) :=
  of_none rfl

theorem leaseWaitGrant (hart : Nat) : Statement (.leaseWaitGrant hart) :=
  of_none rfl

theorem farm (a : XReg) (b : XReg) : Statement (.farm a b) :=
  of_some rfl (fun _ => rfl) (fun _ => rfl)

theorem wpush (a : XReg) (b : XReg) (c : XReg) : Statement (.wpush a b c) :=
  of_some rfl (fun _ => rfl) (fun _ => rfl)

theorem wpop (a : XReg) (b : XReg) : Statement (.wpop a b) :=
  of_some rfl (fun _ => rfl) (fun _ => rfl)

theorem wprio (a : XReg) (b : XReg) (c : XReg) : Statement (.wprio a b c) :=
  of_some rfl (fun _ => rfl) (fun _ => rfl)

theorem yield (b : XReg) : Statement (.yield b) :=
  of_some rfl (fun _ => rfl) (fun _ => rfl)

theorem commit : Statement .commit :=
  of_some rfl (fun _ => rfl) (fun _ => rfl)

theorem tend : Statement .tend :=
  of_some rfl (fun _ => rfl) (fun _ => rfl)

theorem wterm (a : XReg) (b : XReg) : Statement (.wterm a b) :=
  of_some rfl (fun _ => rfl) (fun _ => rfl)

theorem wpopWaitSelect (hart : Nat) : Statement (.wpopWaitSelect hart) :=
  of_none rfl

theorem wpopWaitExpiry (hart : Nat) : Statement (.wpopWaitExpiry hart) :=
  of_none rfl

theorem wtermConfirm (hart : Nat) : Statement (.wtermConfirm hart) :=
  of_none rfl

theorem wtermWaitExpiry (hart : Nat) : Statement (.wtermWaitExpiry hart) :=
  of_none rfl

theorem frameHeaderRead (ctx : Nat) (die : Nat) (bin : Nat) (idx : Nat) : Statement (.frameHeaderRead ctx die bin idx) :=
  of_none rfl

theorem spillRefill (ctx : Nat) (die : Nat) (bin : Nat) : Statement (.spillRefill ctx die bin) :=
  of_none rfl

theorem parkFloorTimeout (hart : Nat) : Statement (.parkFloorTimeout hart) :=
  of_none rfl

theorem rackRequest (ctx : Nat) (die : Nat) : Statement (.rackRequest ctx die) :=
  of_none rfl

theorem rackArrival (ctx : Nat) (die : Nat) : Statement (.rackArrival ctx die) :=
  of_none rfl

theorem deviceRack (ctx : Nat) (ask : Option Nat) (recs : List (Word64 × Word64)) : Statement (.deviceRack ctx ask recs) :=
  of_none rfl

theorem preemption (hart : Nat) : Statement (.preemption hart) :=
  of_none rfl

theorem commitWindowExpiry (hart : Nat) : Statement (.commitWindowExpiry hart) :=
  of_none rfl

theorem terminationWave (ctx : Nat) : Statement (.terminationWave ctx) :=
  of_none rfl

theorem launchComplete (ctx : Nat) : Statement (.launchComplete ctx) :=
  of_none rfl

theorem launch (h : GyskoHdr) (r : LaunchReq) : Statement (.launch h r) :=
  of_none rfl

theorem ctxcfg (h : GyskoHdr) (ctx : Nat) (cfg : CtxCfg) : Statement (.ctxcfg h ctx cfg) :=
  of_none rfl

theorem ctxrel (h : GyskoHdr) (ctx : Nat) : Statement (.ctxrel h ctx) :=
  of_none rfl

theorem switch (h : GyskoHdr) (ctx : Nat) : Statement (.switch h ctx) :=
  of_none rfl

theorem inval (h : GyskoHdr) (ctx : Nat) (lo : Word64) (hi : Word64) : Statement (.inval h ctx lo hi) :=
  of_none rfl

theorem query (h : GyskoHdr) (ctx : Nat) : Statement (.query h ctx) :=
  of_none rfl

theorem write (h : GyskoHdr) (ctx : Nat) (va : Word64) (bytes : List Byte) : Statement (.write h ctx va bytes) :=
  of_none rfl

theorem read (h : GyskoHdr) (ctx : Nat) (va : Word64) (len : Nat) : Statement (.read h ctx va len) :=
  of_none rfl

theorem cellarld (h : GyskoHdr) (ctx : Nat) (pidx : Nat) (off : Nat) (bytes : List Byte) : Statement (.cellarld h ctx pidx off bytes) :=
  of_none rfl

theorem hwrite (h : GyskoHdr) (off : Nat) (bytes : List Byte) : Statement (.hwrite h off bytes) :=
  of_none rfl

theorem hread (h : GyskoHdr) (off : Nat) (len : Nat) : Statement (.hread h off len) :=
  of_none rfl

theorem summary (h : GyskoHdr) : Statement (.summary h) :=
  of_none rfl

theorem flr (h : GyskoHdr) : Statement (.flr h) :=
  of_none rfl

theorem assign (h : GyskoHdr) (presses : List Nat) (ranges : List Nat) : Statement (.assign h presses ranges) :=
  of_none rfl

theorem power (h : GyskoHdr) (plim : Option Nat) (run : Option Bool) : Statement (.power h plim run) :=
  of_none rfl

theorem fwupdate (h : GyskoHdr) (head : SlotHead) (size : Word64) (image : List Byte) (digest : List Byte) (sig : List Byte) : Statement (.fwupdate h head size image digest sig) :=
  of_none rfl

theorem spdm (h : GyskoHdr) (msg : List Byte) : Statement (.spdm h msg) :=
  of_none rfl

theorem getVersion (q : SpdmReq) : Statement (.getVersion q) :=
  of_none rfl

theorem getCapabilities (q : SpdmReq) : Statement (.getCapabilities q) :=
  of_none rfl

theorem negotiateAlgorithms (q : SpdmReq) (xmss : Bool) (sha : Bool) (dhe : Bool) (aead : Bool) : Statement (.negotiateAlgorithms q xmss sha dhe aead) :=
  of_none rfl

theorem getDigests (q : SpdmReq) : Statement (.getDigests q) :=
  of_none rfl

theorem getCertificate (q : SpdmReq) (off : Nat) (len : Nat) : Statement (.getCertificate q off len) :=
  of_none rfl

theorem challenge (q : SpdmReq) (nonce : Nat) : Statement (.challenge q nonce) :=
  of_none rfl

theorem getMeasurements (q : SpdmReq) (index : Nat) (sign : Bool) (nonce : Nat) : Statement (.getMeasurements q index sign nonce) :=
  of_none rfl

theorem keyExchange (q : SpdmReq) (share : Nat) : Statement (.keyExchange q share) :=
  of_none rfl

theorem finish (q : SpdmReq) (mac : Nat) : Statement (.finish q mac) :=
  of_none rfl

theorem heartbeat (q : SpdmReq) : Statement (.heartbeat q) :=
  of_none rfl

theorem keyUpdate (q : SpdmReq) : Statement (.keyUpdate q) :=
  of_none rfl

theorem endSession (q : SpdmReq) : Statement (.endSession q) :=
  of_none rfl

theorem vendorDefinedRequest (q : SpdmReq) (body : VendorMsg) : Statement (.vendorDefinedRequest q body) :=
  of_none rfl

theorem memoryKeyInstall (q : SpdmReq) (vf : Nat) (key : Option Nat) : Statement (.memoryKeyInstall q vf key) :=
  of_none rfl

theorem getTdispVersion (q : SpdmReq) (vf : Nat) : Statement (.getTdispVersion q vf) :=
  of_none rfl

theorem getTdispCapabilities (q : SpdmReq) (vf : Nat) : Statement (.getTdispCapabilities q vf) :=
  of_none rfl

theorem lockInterfaceRequest (q : SpdmReq) (vf : Nat) : Statement (.lockInterfaceRequest q vf) :=
  of_none rfl

theorem getDeviceInterfaceReport (q : SpdmReq) (vf : Nat) : Statement (.getDeviceInterfaceReport q vf) :=
  of_none rfl

theorem getDeviceInterfaceState (q : SpdmReq) (vf : Nat) : Statement (.getDeviceInterfaceState q vf) :=
  of_none rfl

theorem startInterfaceRequest (q : SpdmReq) (vf : Nat) (nonce : Nat) : Statement (.startInterfaceRequest q vf nonce) :=
  of_none rfl

theorem stopInterfaceRequest (q : SpdmReq) (vf : Nat) : Statement (.stopInterfaceRequest q vf) :=
  of_none rfl

theorem tdispUnsupportedMessage (q : SpdmReq) (vf : Nat) (code : Nat) : Statement (.tdispUnsupportedMessage q vf code) :=
  of_none rfl

theorem contextSwitchOut (ctx : Nat) : Statement (.contextSwitchOut ctx) :=
  of_none rfl

theorem contextSwitchIn (ctx : Nat) : Statement (.contextSwitchIn ctx) :=
  of_none rfl

theorem sliceExpiry (ctx : Nat) : Statement (.sliceExpiry ctx) :=
  of_none rfl

theorem pageWalk (core : Nat) (va : Word64) : Statement (.pageWalk core va) :=
  of_none rfl

theorem linkPacketReceive (port : Nat) (mode : Delivery) (slot : Bool) (psn : Nat) (packet : Packet) : Statement (.linkPacketReceive port mode slot psn packet) :=
  of_none rfl

theorem flitReceive (die : Nat) (fails : Nat) (key : Nat) (n : Nat) : Statement (.flitReceive die fails key n) :=
  of_none rfl

theorem linkKeyRotation (port : Nat) (key : Nat) (salt : Nat) : Statement (.linkKeyRotation port key salt) :=
  of_none rfl

theorem linkSlotRetire (port : Nat) : Statement (.linkSlotRetire port) :=
  of_none rfl

theorem psnLimit (port : Nat) : Statement (.psnLimit port) :=
  of_none rfl

theorem cxlPortDown (port : Nat) : Statement (.cxlPortDown port) :=
  of_none rfl

theorem cxlPortRetrain (port : Nat) : Statement (.cxlPortRetrain port) :=
  of_none rfl

theorem patrolScrub (key : Nat) : Statement (.patrolScrub key) :=
  of_none rfl

theorem pageQuarantine (ctrl : Nat) : Statement (.pageQuarantine ctrl) :=
  of_none rfl

theorem selfTestStart (u : TestUnit) : Statement (.selfTestStart u) :=
  of_none rfl

theorem selfTestResult (u : TestUnit) (pass : Bool) : Statement (.selfTestResult u pass) :=
  of_none rfl

theorem supervisorCause (hart : Nat) : Statement (.supervisorCause hart) :=
  of_none rfl

theorem powerStateUpdate (die : Nat) (mw : Nat) (tj : Nat) (ph : Option Nat) (pl : Option Nat) : Statement (.powerStateUpdate die mw tj ph pl) :=
  of_none rfl

theorem powerBudgetUpdate (other : Nat) : Statement (.powerBudgetUpdate other) :=
  of_none rfl

theorem criticalThrottle (die : Nat) : Statement (.criticalThrottle die) :=
  of_none rfl

theorem criticalStop (die : Nat) : Statement (.criticalStop die) :=
  of_none rfl

theorem wearUpdate (pcore : Nat) (m : WearSample) : Statement (.wearUpdate pcore m) :=
  of_none rfl

theorem clockChange (press : Nat) : Statement (.clockChange press) :=
  of_none rfl

theorem wearRecordWrite : Statement .wearRecordWrite :=
  of_none rfl

theorem repairPoint (press : Nat) : Statement (.repairPoint press) :=
  of_none rfl

theorem coldReset : Statement .coldReset :=
  of_none rfl

theorem warmReset : Statement .warmReset :=
  of_none rfl

theorem pressReset (press : Nat) : Statement (.pressReset press) :=
  of_none rfl

theorem debugUnlock : Statement .debugUnlock :=
  of_none rfl

theorem dcmdHalt (core : Nat) (mask : BitVec 8) : Statement (.dcmdHalt core mask) :=
  of_none rfl

theorem dcmdResume (core : Nat) (mask : BitVec 8) : Statement (.dcmdResume core mask) :=
  of_none rfl

theorem dcmdStep (core : Nat) (mask : BitVec 8) : Statement (.dcmdStep core mask) :=
  of_none rfl

theorem dcmdHaltRole (core : Nat) (mask : BitVec 4) : Statement (.dcmdHaltRole core mask) :=
  of_none rfl

theorem dcmdStopPress (core : Nat) : Statement (.dcmdStopPress core) :=
  of_none rfl

theorem dcmdStopDie (core : Nat) : Statement (.dcmdStopDie core) :=
  of_none rfl

theorem stopHalt (hart : Nat) : Statement (.stopHalt hart) :=
  of_none rfl

theorem stepHalt (hart : Nat) : Statement (.stepHalt hart) :=
  of_none rfl

theorem illegalInstruction (w : Word32) : Statement (.illegalInstruction w) :=
  of_none rfl

theorem fetchFault (va : Word64) (cause : Nat) : Statement (.fetchFault va cause) :=
  of_none rfl

theorem powerLoss (indexWritten : Bool) : Statement (.powerLoss indexWritten) :=
  of_none rfl

theorem resetComplete : Statement .resetComplete :=
  of_none rfl

theorem sessionFault (vf : Nat) : Statement (.sessionFault vf) :=
  of_none rfl

theorem memoryKeyLoss (vf : Nat) : Statement (.memoryKeyLoss vf) :=
  of_none rfl

theorem unknownOp (h : GyskoHdr) (op : BitVec 16) : Statement (.unknownOp h op) :=
  of_none rfl

end Sys2Proof.Laws.RoundTrip
end

