-- ==== Sys2Proof/Tests/Slice0.lean ====
section
/-!
SUPPORT. Tests: words of every encodable instruction written out from the encoding chapter, ill-formed terms that WellFormed
refuses, single steps whose results are worked out by hand from the rules named, and a state and operands that meet the
hypotheses of each obligation.
-/
namespace Sys2Proof.Tests

open Sys2Proof Sys2Proof.Machine Sys2Proof.Claims

/-! Decoding. -/

noncomputable def reads (ws : List Word32) : Option Instr :=
  match decodeWords ws with
  | .ok d => some d.instr
  | .error _ => none

noncomputable def readsAll (l : List (List Word32)) : Option (List Instr) := l.mapM reads

/-- MAJ 0x00 (R61). -/
theorem test_decode_integer : readsAll [
    [0x001CC500], [0x081CC500], [0x101CC500], [0x181CC500], [0x201CC500], [0x281CC500], [0x301CC500], [0x381CC500],
    [0x401CC500], [0x481CC500], [0x501CC500], [0x581CC500], [0x601CC500], [0x681CC500], [0x701CC500], [0x781CC500],
    [0x801CC500], [0x881CC500], [0x901CC500], [0x981CC500], [0xA01CC500], [0xA800C500], [0xB000C500], [0xB800C500]] = some [
    .add 5 6 7, .sub 5 6 7, .mul 5 6 7, .mulh 5 6 7, .mulhz 5 6 7, .div 5 6 7, .divz 5 6 7, .rem 5 6 7, .remz 5 6 7,
    .and 5 6 7, .or 5 6 7, .xor 5 6 7, .sll 5 6 7, .srl 5 6 7, .sra 5 6 7, .slt 5 6 7, .sltz 5 6 7, .min 5 6 7, .max 5 6 7,
    .minz 5 6 7, .maxz 5 6 7, .clz 5 6, .ctz 5 6, .popc 5 6] := by decide

/-- MAJ 0x01 to 0x08 (R61, R52, R53). -/
theorem test_decode_immediate : readsAll [
    [0xFFF4C504], [0x0000C505, 0x56789ABC, 0x00001234], [0xFFF4C508], [0x0000C509, 0x56789ABC, 0x00001234], [0xFFF4C50C],
    [0x0000C50D, 0x56789ABC, 0x00001234], [0xFFF4C510], [0x0000C511, 0x56789ABC, 0x00001234], [0x00A4C514], [0x40A4C514],
    [0x80A4C514], [0x181CC518], [0x8000091C], [0x0000091D, 0x56789ABC, 0x00001234], [0x7FFC0920],
    [0x00000921, 0x56789ABC, 0x00001234]] = some [
    .addi 5 6 (-3), .addiLit 5 6 0x123456789ABC, .andi 5 6 (-3), .andiLit 5 6 0x123456789ABC, .ori 5 6 (-3),
    .oriLit 5 6 0x123456789ABC, .xori 5 6 (-3), .xoriLit 5 6 0x123456789ABC, .slli 5 6 41, .srli 5 6 41, .srai 5 6 41,
    .lea 5 6 7 3, .li 9 (-8192), .liLit 9 0x123456789ABC, .pcrel 9 8191, .pcrelLit 9 0x123456789ABC] := by decide

/-- MAJ 0x09 (R61). -/
theorem test_decode_float : readsAll [
    [0x069CC524], [0x001CC526, 0x00030B00, 0x00000000], [0x0E9CC524], [0x001CC526, 0x00030B01, 0x00000000], [0x169CC524],
    [0x001CC526, 0x00030B02, 0x00000000], [0x1E9CC524], [0x001CC526, 0x00030B03, 0x00000000], [0x2680C524],
    [0x0000C526, 0x00030B04, 0x00000000], [0x2E9CC524], [0x001CC526, 0x00030B05, 0x00000000], [0x369CC524],
    [0x001CC526, 0x00030B06, 0x00000000], [0x3E9CC524], [0x001CC526, 0x00030B07, 0x00000000], [0x469CC524],
    [0x001CC526, 0x00030B08, 0x00000000], [0x4E9CC524], [0x001CC526, 0x00030B09, 0x00000000], [0x569CC524],
    [0x001CC526, 0x00030B0A, 0x00000000], [0x5E0CC524], [0x0000C526, 0x0001A60B, 0x00000000],
    [0x001CC526, 0x40010D0C, 0x00000000]] = some [
    .sfadd 5 6 7 .f64, .sfaddExt 5 6 7 .bf16 .rup, .sfsub 5 6 7 .f64, .sfsubExt 5 6 7 .bf16 .rup, .sfmul 5 6 7 .f64,
    .sfmulExt 5 6 7 .bf16 .rup, .sfdiv 5 6 7 .f64, .sfdivExt 5 6 7 .bf16 .rup, .sfsqrt 5 6 .f64, .sfsqrtExt 5 6 .bf16 .rup,
    .sfmin 5 6 7 .f64, .sfminExt 5 6 7 .bf16 .rup, .sfmax 5 6 7 .f64, .sfmaxExt 5 6 7 .bf16 .rup, .sfcmpEq 5 6 7 .f64,
    .sfcmpEqExt 5 6 7 .bf16 .rup, .sfcmpLt 5 6 7 .f64, .sfcmpLtExt 5 6 7 .bf16 .rup, .sfcmpLe 5 6 7 .f64,
    .sfcmpLeExt 5 6 7 .bf16 .rup, .sfcmpUn 5 6 7 .f64, .sfcmpUnExt 5 6 7 .bf16 .rup, .sfcvt 5 6 .z16 .f32,
    .sfcvtExt 5 6 .s64 .f16 .rtz, .sffma 5 6 7 8 .f64 .rtz] := by decide

/-- MAJ 0x0A to 0x0E (R61). -/
theorem test_decode_branch : readsAll [
    [0x801CC028], [0x001CC029, 0x56789ABC, 0x00001234], [0x801CC128], [0x001CC129, 0x56789ABC, 0x00001234], [0x801CC228],
    [0x001CC229, 0x56789ABC, 0x00001234], [0x801CC328], [0x001CC329, 0x56789ABC, 0x00001234], [0x801CC428],
    [0x001CC429, 0x56789ABC, 0x00001234], [0x801CC528], [0x001CC529, 0x56789ABC, 0x00001234], [0x8000012C],
    [0x0000012D, 0xFFFFFFFC, 0xFFFFFFFF], [0xFFF8C130], [0x0028A334], [0x00140135, 0x00000007, 0x00000000],
    [0xFFF0003A, 0x00000000, 0x00000000], [0xFFF0003B, 0x00000000, 0x000F8C41, 0xFFF80004, 0x0010000C]] = some [
    .beq 6 7 (-256), .beqLit 6 7 0x123456789ABC, .bne 6 7 (-256), .bneLit 6 7 0x123456789ABC, .blt 6 7 (-256),
    .bltLit 6 7 0x123456789ABC, .bge 6 7 (-256), .bgeLit 6 7 0x123456789ABC, .blo 6 7 (-256), .bloLit 6 7 0x123456789ABC,
    .bhs 6 7 (-256), .bhsLit 6 7 0x123456789ABC, .jal 1 (-262144), .jalLit 1 (-4), .jalr 1 6 (-2), .loop 3 5 10,
    .loopLit 1 5 7, .smb (-4), .smbStrides (-4) 1 2 3 31 4 (-8) 12 16] := by decide

/-- MAJ 0x0F, 0x3C, 0x3D (R61, R65). -/
theorem test_decode_system : readsAll [
    [0x1EC40A3C], [0x5EC5403C], [0x9EC5403C], [0xDEC5403C], [0x000000F0], [0x080000F0], [0x100000F0], [0x180000F0],
    [0x200004F0], [0x280004F0], [0x300004F0], [0x380004F0], [0x401CC0F0], [0x7FFC00F4]] = some [
    .csrr 10 0x7B1, .csrw 10 0x7B1, .csrs 10 0x7B1, .csrc 10 0x7B1, .nop, .tret, .brk, .halt, .fenceSv .device,
    .fenceVs .device, .fenceVv .device, .fenceAll .device, .flush 6 7, .trap 8191] := by decide

/-- MAJ 0x30 to 0x34 (R64). -/
theorem test_decode_memory : readsAll [
    [0x8008C5C0], [0x0034C5C1, 0xFFFFFFF8, 0xFFFFFFFF], [0x1A9CC5C4], [0x7FF0C5C8], [0x0010C5C9, 0xFFFFFFF8, 0xFFFFFFFF],
    [0x701CC5CC], [0x1980C5D0], [0x3280C5D0]] = some [
    .ld 5 6 .s16 (-512), .ldLit 5 6 .f64 (-8), .ldIndexed 5 6 7 .z32 3, .st 5 6 3 511, .stLit 5 6 1 (-8),
    .stIndexed 5 6 7 2 3, .ldAcq 5 6 .die 3, .stRel 5 6 .system 2] := by decide

/-- MAJ 0x35 (R64). -/
theorem test_decode_atomic : readsAll [
    [0x811CC5D4], [0x409CC0D4], [0x8D1CC5D4], [0x489CC0D4], [0x951CC5D4], [0x509CC0D4], [0x991CC5D4], [0x589CC0D4],
    [0xA11CC5D4], [0x609CC0D4], [0xA91CC5D4], [0x689CC0D4], [0xB11CC5D4], [0xBA1CC5D6, 0x40000007, 0x00000000]] = some [
    .amoAdd 5 6 7 .press 1, .redAdd 6 7 .core 0, .amoMin 5 6 7 .press 1 1, .redMin 6 7 .core 0 0, .amoMax 5 6 7 .press 1 1,
    .redMax 6 7 .core 0 0, .amoAnd 5 6 7 .press 1, .redAnd 6 7 .core 0, .amoOr 5 6 7 .press 1, .redOr 6 7 .core 0,
    .amoXor 5 6 7 .press 1, .redXor 6 7 .core 0, .amoSwap 5 6 7 .press 1, .amoCas 5 6 7 8 .device 1] := by decide

/-- MAJ 0x10 (R62). -/
theorem test_decode_vectorF32 : readsAll [
    [0x049CC540], [0x0C9CC540], [0x149CC540], [0x1C9CC540], [0x249CC540], [0x549CC540], [0x5C9CC540], [0x2C80C540],
    [0x3480C540], [0x3C80C540], [0x4480C540], [0x4C80C540], [0x6480C540], [0x6C80C540]] = some [
    .vaddF32 5 6 7 9, .vsubF32 5 6 7 9, .vmulF32 5 6 7 9, .vfmaF32 5 6 7 9, .vdivF32 5 6 7 9, .vminF32 5 6 7 9,
    .vmaxF32 5 6 7 9, .vsqrtF32 5 6 9, .vrsqrtF32 5 6 9, .vrcpF32 5 6 9, .vexp2F32 5 6 9, .vlog2F32 5 6 9, .vabsF32 5 6 9,
    .vnegF32 5 6 9] := by decide

/-- MAJ 0x11 (R62). -/
theorem test_decode_vectorF64 : readsAll [
    [0x049CC544], [0x0C9CC544], [0x149CC544], [0x1C9CC544], [0x249CC544], [0x549CC544], [0x5C9CC544], [0x2C80C544],
    [0x3480C544], [0x3C80C544], [0x4480C544], [0x4C80C544], [0x6480C544], [0x6C80C544]] = some [
    .vaddF64 5 6 7 9, .vsubF64 5 6 7 9, .vmulF64 5 6 7 9, .vfmaF64 5 6 7 9, .vdivF64 5 6 7 9, .vminF64 5 6 7 9,
    .vmaxF64 5 6 7 9, .vsqrtF64 5 6 9, .vrsqrtF64 5 6 9, .vrcpF64 5 6 9, .vexp2F64 5 6 9, .vlog2F64 5 6 9, .vabsF64 5 6 9,
    .vnegF64 5 6 9] := by decide

/-- MAJ 0x12 (R62). -/
theorem test_decode_vectorS32 : readsAll [
    [0x049CC548], [0x0C9CC548], [0x149CC548], [0x1C9CC548], [0x549CC548], [0x5C9CC548], [0x749CC548], [0x7C9CC548],
    [0x849CC548], [0x8C9CC548], [0x949CC548], [0x9C9CC548], [0x6480C548], [0x6C80C548]] = some [
    .vaddS32 5 6 7 9, .vsubS32 5 6 7 9, .vmulS32 5 6 7 9, .vfmaS32 5 6 7 9, .vminS32 5 6 7 9, .vmaxS32 5 6 7 9,
    .vandS32 5 6 7 9, .vorS32 5 6 7 9, .vxorS32 5 6 7 9, .vshlS32 5 6 7 9, .vshrS32 5 6 7 9, .vsraS32 5 6 7 9,
    .vabsS32 5 6 9, .vnegS32 5 6 9] := by decide

/-- MAJ 0x13 (R62). -/
theorem test_decode_vectorAny : readsAll [
    [0x049CC54E, 0x00020A00, 0x00000000], [0x049CC54E, 0x00020A01, 0x00000000], [0x049CC54E, 0x00020A02, 0x00000000],
    [0x049CC54E, 0x40020A03, 0x00000000], [0x049CC54E, 0x00020A04, 0x00000000], [0x049CC54E, 0x00020A0A, 0x00000000],
    [0x049CC54E, 0x00020A0B, 0x00000000], [0x049CC54E, 0x0000030E, 0x00000000], [0x049CC54E, 0x0000030F, 0x00000000],
    [0x049CC54E, 0x00000310, 0x00000000], [0x049CC54E, 0x00000311, 0x00000000], [0x049CC54E, 0x00000312, 0x00000000],
    [0x049CC54E, 0x00000313, 0x00000000], [0x0480C54E, 0x00070D05, 0x00000000], [0x0480C54E, 0x00070D06, 0x00000000],
    [0x0480C54E, 0x00070D07, 0x00000000], [0x0480C54E, 0x00070C08, 0x00000000], [0x0480C54E, 0x00070C09, 0x00000000],
    [0x0480C54E, 0x0000000C, 0x00000000], [0x0480C54E, 0x0000000D, 0x00000000], [0x0480C54E, 0x0000CA20, 0x00000000]] = some [
    .vaddExt 5 6 7 .f16 .rdn 9, .vsubExt 5 6 7 .f16 .rdn 9, .vmulExt 5 6 7 .f16 .rdn 9, .vfmaExt 5 6 7 8 .f16 .rdn 9,
    .vdivExt 5 6 7 .f16 .rdn 9, .vminExt 5 6 7 .f16 .rdn 9, .vmaxExt 5 6 7 .f16 .rdn 9, .vandExt 5 6 7 .z16 .rne 9,
    .vorExt 5 6 7 .z16 .rne 9, .vxorExt 5 6 7 .z16 .rne 9, .vshlExt 5 6 7 .z16 .rne 9, .vshrExt 5 6 7 .z16 .rne 9,
    .vsraExt 5 6 7 .z16 .rne 9, .vsqrtExt 5 6 .f64 .dyn 9, .vrsqrtExt 5 6 .f64 .dyn 9, .vrcpExt 5 6 .f64 .dyn 9,
    .vexp2Ext 5 6 .f32 .dyn 9, .vlog2Ext 5 6 .f32 .dyn 9, .vabsExt 5 6 .s8 .rne 9, .vnegExt 5 6 .s8 .rne 9,
    .vcvt 5 6 .f16 .f32 .rne 9] := by decide

/-- MAJ 0x14, 0x15, 0x17, 0x18 (R62). -/
theorem test_decode_vectorMoves : readsAll [
    [0xEC9CC550], [0x049CC552, 0x00000D06, 0x00000000], [0x049CC554], [0x0C80C554], [0x1480C554], [0x181CC554],
    [0x24800554], [0x0480C55C], [0x0C80C55C], [0x149CC55C], [0x1C9CC55C], [0x249CC55C], [0x2C9CC55C], [0x001CC560],
    [0x081CC560], [0x101CC560], [0x1800C560], [0x2000C560], [0x2800C560], [0x3000C560]] = some [
    .vcmp 5 6 7 9 .ge 3, .vcmpExt 5 6 7 .un .f64 9, .vsel 5 6 7 9, .vmov 5 6 9, .vbcast 5 6 9, .vext 5 6 7, .vid 5 9,
    .vcompress 5 6 9, .vexpand 5 6 9, .vperm 5 6 7 9, .vslide 5 6 7 9, .vpass 5 6 7 9, .vrand 5 6 7 9, .pand 5 6 7,
    .por 5 6 7, .pxor 5 6 7, .pnot 5 6, .pset 5 6, .pfirst 5 6, .ppop 5 6] := by decide

/-- MAJ 0x16 (R62). -/
theorem test_decode_reductions : readsAll [
    [0x0480C55A, 0x00010C00, 0x00000000], [0x0480C55A, 0x38000402, 0x00000001], [0x0480C55A, 0x00000001, 0x00000006],
    [0x0480C55A, 0x38070D00, 0x00000003]] = some [
    .vred .add 5 6 .f32 .rtz 9, .vsred .max 5 6 7 .s32 .rne 9, .vscan .min true 5 6 .s8 .rne 9,
    .vsscan .add false 5 6 7 .f64 .dyn 9] := by decide

/-- MAJ 0x19 to 0x1C (R62). -/
theorem test_decode_vectorMemory : readsAll [
    [0x1480C564], [0x3C9CC564], [0x4C80C564], [0x649CC564], [0x1480C566, 0x00000000, 0x3FFFFFFC],
    [0x3C9CC566, 0x00000000, 0x00000008], [0x4C80C566, 0x00000000, 0x3FFFFFFC], [0x649CC566, 0x00000000, 0x00000008],
    [0x7480C568], [0xF480C56C], [0x149CC570], [0x3C9CC570]] = some [
    .vld 5 6 9 2, .vlds 5 6 7 9 3, .vst 5 6 9 1, .vsts 5 6 7 9 0, .vldOff 5 6 2 (-4) 9, .vldsOff 5 6 7 3 8 9,
    .vstOff 5 6 1 (-4) 9, .vstsOff 5 6 7 0 8 9, .vldg 5 6 9 2 3, .vstg 5 6 9 2 7, .vldx 5 6 7 9 2, .vstx 5 6 7 9 3] := by decide

/-- MAJ 0x20 to 0x23 (R63). -/
theorem test_decode_functions : readsAll [
    [0x0000C580], [0x0800C580], [0x149CC580], [0x1C9CC580], [0x249CC580], [0x2C9CC580], [0x349CC580], [0x3C80C580],
    [0x0480C586, 0x00070C00, 0x00000010], [0x0480C586, 0x00070D01, 0x00000000], [0x0480C586, 0x00070C02, 0x00000020],
    [0x0480C586, 0x00070C03, 0x00000003], [0x0480C586, 0x00070C04, 0x00000009], [0x0480C586, 0x00070C05, 0x00000040],
    [0x0480C586, 0x04670C06, 0x00000000], [0x049CC586, 0x40070C07, 0x00000000], [0xFFE0C588], [0x0020C58C]] = some [
    .fset 5 6, .fget 5 6, .fadd 5 6 7 9, .fsub 5 6 7 9, .fmul 5 6 7 9, .fscale 5 6 7 9, .fdot 5 6 7 9, .fnorm 5 6 9,
    .fdiff 5 6 1 .f32 .dyn 9, .fint 5 6 .f64 .dyn 9, .fanti 5 6 2 .f32 .dyn 9, .fproj 5 6 3 .f32 .dyn 9,
    .fraise 5 6 9 .f32 .dyn 9, .fcvt 5 6 1 .f32 .dyn 9, .ftrace 5 6 3 4 .f32 .dyn 9, .feval 5 6 7 8 .f32 .dyn 9,
    .fld 5 6 (-8), .fst 5 6 8] := by decide

/-- MAJ 0x28 to 0x2A (R63, R173 to R196). -/
theorem test_decode_matrix : readsAll [
    [0x001CC5A0], [0x080000A0], [0x100001A0], [0x181CC5A0], [0x2004C5A0], [0x2800C1A0], [0x3000C0A0],
    [0x0000C1A6, 0x0000AA00, 0x00001B04], [0x0000C2A6, 0x00008801, 0x00002183], [0x000001AA, 0x00030B00, 0x00000006],
    [0x001CC5AA, 0x00000601, 0x0000000D], [0x001CC1AA, 0x00040802, 0x000001E5], [0x0000C0AA, 0x00000002, 0x00000303],
    [0x0000C1AA, 0x00000003, 0x0000001C]] = some [
    .mattach 5 6 7, .mdetach, .mzero 1, .mldb 1 0 1 6 7, .msign 5 6 1, .msave 1 6, .mrest 0 6,
    .mmacc 1 0 6 .f16 .f16 3 1 2 4, .msmacc 0 1 6 .f8a .f8a 4 0 3 3, .mresolve 1 .bf16 .rup 1 2, .mcmp 5 6 7 .s64 .ge 1,
    .mdrain 1 6 7 .f8a .rna true true true 2 1 1, .mdrainRaw 0 6 true 0 3, .mdrainp 1 6 true 3 0] := by decide

/-- MAJ 0x36 (R64). -/
theorem test_decode_engines : readsAll [
    [0x0000C5D8], [0x0800C5D8], [0x1000C5D8], [0x181CC0D8], [0x201CC5D8], [0x2800C5D8], [0x3004C5D8]] = some [
    .cpCopy 5 6, .cpGather 5 6, .cpDec 5 6, .swInit 6 7, .swWait 5 6 7, .eqPush 5 6, .eqPop 5 6 1] := by decide

/-- MAJ 0x38, 0x39 (R65). -/
theorem test_decode_sync : readsAll [
    [0x0008CFE0], [0x0804CFE0], [0x10000FE0], [0x181CC5E0], [0x2000C5E0], [0x280CC0E0], [0x300805E0], [0x3C9CC5E0],
    [0x019CC5E6, 0x40000500, 0x00000000]] = some [
    .bar 15 6 2, .barArrive 15 6 1, .barWait 15 0, .futPut 5 6 7, .futGet 5 6, .qpush 6 3, .qpop 5 2, .vwait 5 6 7 9,
    .waitm 5 6 7 8 .z32 .die] := by decide

/-- MAJ 0x3A (R65). -/
theorem test_decode_tasks : readsAll [
    [0x001CC5E8], [0x0800C5E8], [0x101CC5E8], [0x1800C5E8], [0x201CC5E8], [0x2800C0E8], [0x300000E8], [0x380000E8],
    [0x4000C5E8]] = some [
    .lease 5 6 7, .farm 5 6, .wpush 5 6 7, .wpop 5 6, .wprio 5 6 7, .yield 6, .commit, .tend, .wterm 5 6] := by decide

/-! WellFormed: one ill-formed term per check. -/

/-- Types, RM and saturation (R74, R77, R78, R108, R111, R115, R139, R181, R186 to R188, R249). -/
theorem test_wf_refuses_types : ([
    .sfadd 5 6 7 .s32, .sfaddExt 5 6 7 .f8a .rne, .sfcvt 5 6 .t2 .f32, .sfcvt 5 6 .f32 .f8a, .sffma 5 6 7 8 .z64 .rne,
    .ld 5 6 .f8b 0, .ldLit 5 6 .t2 0, .ldIndexed 5 6 7 .t2 0, .vaddExt 1 2 3 .t2 .rne 0, .vaddExt 1 2 3 .s32 .rup 0,
    .vminExt 1 2 3 .s32 .rtz 0, .vdivExt 1 2 3 .s32 .rne 0, .vandExt 1 2 3 .f32 .rne 0, .vcvt 1 2 .t2 .f32 .rne 0,
    .vcmp 1 2 3 0 .un 2, .vcmpExt 1 2 3 .un .s32 0, .vred .min 5 1 .f32 .rne 0, .vred .and 5 1 .f32 .rne 0,
    .vscan .add false 1 2 .s32 .dyn 0, .fdiff 1 2 0 .f16 .dyn 0, .fint 1 2 .s32 .dyn 0, .mmacc 0 0 6 .s8 .f16 0 0 0 0,
    .msmacc 0 0 6 .f16 .f16 0 0 0 3, .mresolve 0 .s8 .rne 0 0, .mcmp 1 6 7 .f16 .eq 0, .mcmp 1 6 7 .s32 .un 0,
    .mdrain 0 6 0 .s64 .rne false false false 0 0 0, .mdrain 0 6 0 .s32 .rne false false true 0 0 0,
    .mdrain 0 6 0 .s32 .rne false true false 0 0 0, .waitm 5 6 7 8 .s32 .core] : List Instr).all
      (fun i => !i.wf) = true := by decide

/-- Operand fields (R53, R57, R84, R119, R152, R158, R180, R185, R188, R206, R248). -/
theorem test_wf_refuses_fields : ([
    .beqLit 6 7 2, .jalLit 1 (1 <<< 47), .loop 0 0 4, .loop 0 6 1, .loopLit 0 3 9,
    .smbStrides 0 0 0 0 0 0 0 0 0, .smbStrides 0 5 5 0 0 1 1 0 0, .smbStrides 0 5 0 0 0 1 1 0 0, .csrr 5 0x005, .csrw 5 0xFFF,
    .csrs 5 0x012, .csrc 5 0x053, .trap 0x2000, .vldg 1 6 0 0 0, .vldg 31 6 0 0 1, .vstg 25 6 0 0 7, .fdiff 1 2 3 .f32 .dyn 0,
    .fanti 1 2 3 .f64 .dyn 0, .ftrace 1 2 6 0 .f32 .dyn 0, .msign 15 6 0, .mmacc 0 0 6 .s8 .s8 0 1 3 0,
    .mmacc 0 0 6 .s8 .s8 127 0 0 1, .mmacc 0 0 6 .t2 .s8 31 0 0 1, .msmacc 0 0 6 .s8 .s8 2 0 0 3,
    .msmacc 0 0 6 .s8 .s8 0 0 0 2, .mdrain 0 6 0 .s32 .rne false false false 3 0 0, .bar 0 6 3, .barArrive 0 6 3,
    .barWait 0 3] : List Instr).all (fun i => !i.wf) = true := by decide

/-- Units the device does not have (R1, R297). -/
theorem test_wf_refuses_units : ([
    .matrixCommandStart 512, .tileArrival 4096, .engineCommandStart 0 2 0, .commandComplete 512 0 0,
    .decodeChunkRelease 512 0, .completionRecordPlace 0 2 0, .barrierRelease 4096, .arbiterServe 512,
    .frameHeaderRead 64 0 0 0, .spillRefill 0 4 0, .frameHeaderRead 0 0 256 0, .rackRequest 0 4, .rackArrival 64 0,
    .deviceRack 64 none [], .terminationWave 64, .launchComplete 64] : List Instr).all (fun i => !i.wf) = true := by decide

/-- Well-formed terms at the ends of the same ranges. -/
theorem test_wf_accepts : ([
    .loop 3 6 2, .loopLit 3 4 0xFFFFFFFF, .smbStrides 0 5 6 7 8 1 2 3 4, .csrr 5 0xF03, .trap 0x1FFF, .vldg 24 6 0 0 7,
    .ftrace 1 2 5 7 .f64 .dyn 0, .msign 14 6 0, .mmacc 0 0 6 .s8 .s8 127 0 3 0, .mmacc 0 0 6 .t2 .s8 31 3 0 0,
    .msmacc 1 1 6 .f8a .f8b 124 0 0 3, .tileArrival 4095, .commandComplete 511 1 0, .frameHeaderRead 63 3 255 0,
    .beqLit 6 7 (0 - 4), .vcmp 1 2 3 0 .un 1] : List Instr).all Instr.wf = true := by decide

/-! Single steps. `base` runs hart 0 of core 0 in context 0 at 0x10000000; its own scratchpad lies at storage key 2^56. -/

def base : State := State.reset.probe

/-- `base` with a handler at 0x20000000. -/
def handled : State := base.setMe { base.me with csr := { base.me.csr with etvec := 0x20000000 } }

def withCsr (f : HartCsr → HartCsr) (s : State) : State := s.setMe { s.me with csr := f s.me.csr }

/-- A function register whose elements hold the given words. -/
def vreg (l : List Nat) : VRegister := l.zipIdx.foldl (fun v e => v.setElem e.2 e.1) { VRegister.zero with rows := 1, held := 1 }

/-- `base` with one lane cluster and VL = 2. -/
def vec : State := base.setMe { base.me with grant := 1, lmap := [0], csr := { base.me.csr with vl := 2 } }

def withV (r : VReg) (l : List Nat) (s : State) : State := s.setMe (s.me.setV r (vreg l))
def withP (r : PReg) (b : BitVec 256) (s : State) : State := s.setMe (s.me.setP r b)

/-- Bytes in the own scratchpad of core 0 from an offset up. -/
def withBytes (off : Nat) (l : List Byte) (s : State) : State := s.setBytes (2 ^ 56 + off) l

/-- One step of the instruction with these bits. -/
noncomputable def run {α : Type} (nbits w : Nat) (s : State) (f : State → α) (d : α) : α :=
  match step (s.withFetchWord nbits w) with
  | .next t => f t
  | _ => d

/-- An event, or a write event, on its own. -/
noncomputable def after {α : Type} (i : Instr) (s : State) (f : State → α) (d : α) : α :=
  match exec i s with
  | .next t => f t
  | _ => d

set_option maxRecDepth 20000

/-- R71: the sum modulo 2^64, the next address. -/
theorem test_add_wraps : run 32 0x001CC500 ((base.setX 6 (-1)).setX 7 1) (fun t => (t.x 5, t.me.pc)) (9, 9) = (0, 0x10000004) := by
  decide

/-- R71: division by zero gives −1; the most negative number over −1 is itself. -/
theorem test_div_corners :
    (run 32 0x281CC500 ((base.setX 6 7).setX 7 0) (fun t => t.x 5) 9,
      run 32 0x281CC500 ((base.setX 6 (1 <<< 63)).setX 7 (-1)) (fun t => t.x 5) 9) = ((-1, 1 <<< 63) : Word64 × Word64) := by
  decide

/-- R72: the immediate is signed. -/
theorem test_addi_negative : run 32 0xFFF4C504 (base.setX 6 2) (fun t => t.x 5) 9 = -1 := by decide

/-- R32, R37: 1 + 2^-53 is a tie, to even, inexact (NX is bit 0). -/
theorem test_sfadd_tie :
    run 32 0x069CC524 ((base.setX 6 0x3FF0000000000000).setX 7 0x3CA0000000000000) (fun t => (t.x 5, t.me.csr.fflags)) (9, 9) =
      (0x3FF0000000000000, 1) := by decide

/-- R81: −1 < 0 signed; the offset is in words. -/
theorem test_blt_taken : run 32 0x801CC228 ((base.setX 6 (-1)).setX 7 0) (fun t => t.me.pc) 9 = 0x10000000 - 1024 := by decide

/-- R82: the target 4 − 2 is not a multiple of 4; x1 is not written. -/
theorem test_jalr_misaligned : run 32 0xFFF8C130 ((handled.setX 6 4).setX 1 77)
    (fun t => (t.me.csr.ecause, t.me.csr.eval, t.x 1, t.me.pc)) (0, 0, 0, 0) = (3, 2, 77, 0x20000000) := by decide

/-- R84: `loop 1, 7` of three words with imm14 5. -/
theorem test_loop_setup : run 96 0x0000000000000007_00140135 base
    (fun t => ((t.me.level 1).start, (t.me.level 1).stop, (t.me.level 1).count, (t.me.level 1).active, t.me.pc))
    (0, 0, 0, false, 0) = (0x1000000C, 0x10000014, 6, true, 0x1000000C) := by decide

/-- R85: the last instruction of a body with one iteration left goes back to its start. -/
theorem test_loop_back : run 32 0x001CC500 (base.setMe (base.me.setLevel 0 { LoopLevel.zero with
      start := 0x0FFFFFF0, stop := 0x10000004, count := 1, active := true, first := true }))
    (fun t => (t.me.pc, (t.me.level 0).count, (t.me.level 0).active)) (0, 9, false) = (0x0FFFFFF0, 0, true) := by decide

/-- R21, R89: FRM takes FTZ and keeps the mode where 5 is written. -/
theorem test_csrw_frm : run 32 0x4021403C (base.setX 10 13) (fun t => (t.me.csr.rm, t.me.csr.ftz)) (9, false) = (0, true) := by
  decide

/-- R21: VL is held to 16 elements per granted cluster. -/
theorem test_csrw_vl : run 32 0x4001403C (vec.setX 10 300) (fun t => t.me.csr.vl) 9 = 16 := by decide

/-- R57, R94: a word that is no instruction. -/
theorem test_illegal_word : run 32 0xFFFFFFFF handled
    (fun t => (t.me.csr.ecause, t.me.csr.eval, t.me.csr.epc, t.me.pc, t.me.handler)) (0, 0, 0, 0, false) =
      (1, 0xFFFFFFFF, 0x10000000, 0x20000000, true) := by decide

/-- R96: `brk` in handler mode is a double trap, cause 19 with cause 18 in EVAL. -/
theorem test_double_trap : run 32 0x100000F0 (handled.setMe { handled.me with handler := true })
    (fun t => (t.me.sup.map fun u => (u.cause, u.eval), t.me.pc)) (none, 0) = (some (19, 18), 0x10000000) := by decide

/-- R97. -/
theorem test_tret : run 32 0x080000F0 (handled.setMe { handled.me with
      handler := true, csr := { handled.me.csr with epc := 0x20000040 } })
    (fun t => (t.me.pc, t.me.handler)) (0, true) = (0x20000040, false) := by decide

/-- R78: an s16 at 0x440 − 1024, little-endian, sign-extended. -/
theorem test_ld_s16 : run 32 0x8008C5C0 (withBytes 0x40 [0xFE, 0xFF] (base.setX 6 0x440)) (fun t => t.x 5) 9 = -2 := by decide

/-- R78: eight bytes at 8 + 511 × 8, the lowest first, and none beside them. -/
theorem test_st_eight : run 32 0x7FF0C5C8 ((base.setX 6 8).setX 5 0x0102030405060708)
    (fun t => [4095, 4096, 4103, 4104].map fun o => t.byte (2 ^ 56 + o)) [] = [0, 8, 1, 0] := by decide

/-- R244: the old value comes back, the sum is stored. -/
theorem test_amo_add : run 32 0x811CC5D4 (withBytes 0x100 [5] ((base.setX 6 0x100).setX 7 (-1)))
    (fun t => (t.x 5, t.byte (2 ^ 56 + 0x100))) (9, 9) = (5, 4) := by decide

/-- R244: a compare that fails stores nothing. -/
theorem test_cas_fails : run 96 0x00000000_40000007_BA1CC5D6 (withBytes 0x100 [5] (((base.setX 6 0x100).setX 7 6).setX 8 9))
    (fun t => (t.x 5, t.byte (2 ^ 56 + 0x100))) (9, 9) = (5, 5) := by decide

/-- R103, R110: element 1 is predicated off and keeps its value. -/
theorem test_vadd_s32 : run 32 0x049CC548 (withP 9 1 (withV 5 [1, 2] (withV 6 [7, 7] (withV 7 [0xFFFFFFF7, 1] vec))))
    (fun t => ((t.me.getV 5).elem 0, (t.me.getV 5).elem 1)) (0, 0) = (0xFFFFFFFE, 2) := by decide

/-- R116: 1.0 + 2.0 in f32, into an x register. -/
theorem test_vred_sum : run 96 0x00000000_00010C00_0480C55A (withP 9 3 (withV 6 [0x3F800000, 0x40000000] vec))
    (fun t => t.x 5) 9 = 0x40400000 := by decide

/-- R36's worked values: 15.0 is exact in f8a, 15.5 ties to 16, 250 overflows, to infinity or toward zero to 240. -/
theorem test_convert_f8a :
    [convert .rne false .f8a .f32 0x41700000, convert .rne false .f8a .f32 0x41780000, convert .rne false .f8a .f32 0x437A0000,
      convert .rtz false .f8a .f32 0x437A0000] = [(0x57, 0), (0x58, 1), (0x78, 0b101), (0x77, 1)] := by decide

/-- R46, R116: segments [4, 2, 7], [1, 3] and [5, 2, 6] scanned exclusively. -/
theorem test_vsscan_excl : run 96 0x00000007_18000400_0080A65A
      (withCsr (fun c => { c with vl := 8 }) (withP 1 0xFF (withP 3 0b00101001 (withV 5 [4, 2, 7, 1, 3, 5, 2, 6] vec))))
    (fun t => (List.range 8).map fun e => (t.me.getV 6).elem e) [] = [0, 4, 6, 0, 1, 0, 5, 7] := by decide

/-- R121: element 1 at base + 4. -/
theorem test_vld : run 32 0x1480C564 (withBytes 0x200 [1, 0, 0, 0, 2, 3] (withP 9 3 (vec.setX 6 0x200)))
    (fun t => ((t.me.getV 5).elem 0, (t.me.getV 5).elem 1)) (0, 0) = (1, 0x302) := by decide

/-- R121: the low 16 bits of each element. -/
theorem test_vst : run 32 0x4C80C564 (withV 5 [0x11223344, 0x55667788] (withP 9 3 (vec.setX 6 0x200)))
    (fun t => (List.range 5).map fun o => t.byte (2 ^ 56 + 0x200 + o)) [] = [0x44, 0x33, 0x88, 0x77, 0] := by decide

/-- R114: no element below VL is set, so VL. -/
theorem test_pfirst_none : run 32 0x2800C560 (withP 6 4 vec) (fun t => t.x 5) 9 = 2 := by decide

/-- R146, R164: a degree without a shape is illegal, class 1 reason 7. -/
theorem test_fset_illegal : run 32 0x0000C580 (handled.setX 6 1) (fun t => (t.me.csr.ecause, t.me.csr.eval)) (0, 0) =
    (1, 0x010700000000C580) := by decide

/-- R138: the f32 constants of E(3→3) at the points −1/√5 and 1. -/
theorem test_constants_E33 : [(fxConsts .f32 (matE 3 3)).getD 1 [], (fxConsts .f32 (matE 3 3)).getD 3 []] =
    [[some 0x3F800000, some 0xBEE4F92E, some 0xBE4CCCCD, some 0x3EE4F92E],
      [some 0x3F800000, some 0x3F800000, some 0x3F800000, some 0x3F800000]] := by decide +kernel

/-- P_1 × P_1 on a modal line into a register of CAP `cap` and POLICY `policy`. -/
def squared (cap : BitVec 4) (policy : BitVec 2) : State :=
  let set := fun (r : VReg) (d : Desc) (n : Nat) (s : State) =>
    s.setMe (s.me.setV r ((({ VRegister.zero with desc := d, rows := n, held := 1 } : VRegister).setCoef 0 0 0).setCoef 0 1 0x3F800000))
  set 5 { Desc.zero with cap := cap, policy := policy } 1 <| set 6 { Desc.zero with shape := 1, deg := 1 } 2 <|
    set 7 { Desc.zero with shape := 1, deg := 1 } 2 <| withP 9 1 vec

/-- R143's table: degree 2 under CAP 2; under CAP 1 collocated on GLL(1). -/
theorem test_fmul_policies :
    (run 32 0x249CC580 (squared 2 0) (fun t => ((List.range 3).map fun k => (t.me.getV 5).coef 0 k)) [],
      run 32 0x249CC580 (squared 1 2) (fun t => ((List.range 2).map fun k => (t.me.getV 5).coef 0 k)) []) =
    ([0x3EAAAAAB, 0, 0x3F2AAAAB], [0x3F800000, 0]) := by decide +kernel

/-- R173: sixteen rows are the home block. -/
theorem test_mattach : run 32 0x001CC5A0 (base.setX 6 16) (fun t => (t.x 5, t.myCore.blocks)) (0, []) = (16, [0]) := by decide

/-- R225, R227: the push returns SEQ 0 and enters the FIFO. -/
theorem test_cp_copy : run 32 0x0000C5D8 (withBytes 0x203 [0, 16] (base.setX 6 0x200))
    (fun t => (t.x 5, t.myCore.eng0.fifo.map fun c => c.len)) (9, []) = (0, [16]) := by decide

/-- R213, R214: a pop of an empty queue waits at its instruction. -/
theorem test_qpop_waits : run 32 0x300805E0 base (fun t => (t.me.wait, t.me.pc)) (.none, 0) = (.queuePop 2 5, 0x10000000) := by
  decide

/-- R248: a barrier of one participant passes at once. -/
theorem test_bar_one : run 32 0x0008C3E0 (base.setX 6 1) (fun t => t.me.pc) 9 = 0x10000004 := by decide

/-- R250: an empty future word takes the value and its FULL bit. -/
theorem test_fut_put : run 32 0x181CC5E0 ((base.setX 6 0x300).setX 7 0x55)
    (fun t => (t.x 5, t.byte (2 ^ 56 + 0x300), t.byte (2 ^ 56 + 0x308))) (9, 9, 9) = (0, 0x55, 1) := by decide

/-- R202, R203: two clusters free and preferred. -/
theorem test_lease : run 32 0x001CC5E8 ((base.setX 6 1).setX 7 2) (fun t => (t.x 5, t.me.grant)) (9, 9) = (2, 2) := by decide

/-- R207: no strip is left after this one; the stride 4 of x1 times VL 2. -/
theorem test_smb_ends : run 160 0x0010000C_FFF80004_000F8C41_00000000_FFF0003B
      (withCsr (fun c => { c with vrem := 2 }) (vec.setX 1 100))
    (fun t => (t.x 1, t.me.csr.vrem, t.me.pc)) (0, 9, 0) = (108, 0, 0x10000014) := by decide

/-- R283: the record of a frame at 0x20000040 enters bin 1. -/
theorem test_wpush : run 32 0x101CC5E8 ((base.setX 6 (1 <<< 56 ||| 0x20000040)).setX 7 0)
    (fun t => (t.x 5, (myBin t 1).chip.map fun r => r.d0)) (9, []) = ((0, [1 <<< 56 ||| 0x20000040]) : Word64 × List Word64) := by decide

/-- R288: outside a task `tend` ends the hart. -/
theorem test_tend : run 32 0x380000E8 base (fun t => t.me.life) .off = .ended := by decide

/-- R324: a correctable flaw found by the scrubber is corrected and counted, the byte as it was. -/
theorem test_scrub_corrects : after (.patrolScrub (2 ^ 56)) (withBytes 0 [7] { base with flaws := [(poisonUnit (2 ^ 56), 1)] })
    (fun t => (t.flaws, t.byte (2 ^ 56))) ([], 0) = ([], 7) := by decide

/-- R368, R323: the packet whose key slot is empty for the eighth time in a row is delivered poisoned, a link error. -/
theorem test_link_retry : after (.linkPacketReceive 0 .rud false 1 { bytes := [], tag := 0 }) (base.setLink 0 { Link.reset with fails := 7 })
    (fun t => (counterOf t 4 5, (t.link 0).dropped, (t.link 0).poisoned, (t.link 0).fails)) (0, 0, 0, 0) = (1, 0, 1, 0) := by
  decide

/-- R340: a second at full activity, nominal voltage and 95 °C gains 2 386 092 units and carries the rest. -/
theorem test_wear_second : after (.wearUpdate 5 { act := 1000, of := 1, tj := 950, dv := 0, ageing := 0, em := 0 }) base
    (fun t => ((t.wearOf 5).w, (t.wearOf 5).frac * 100 / (2 ^ 64 * 3600000))) (0, 0) = (2386092, 94) := by decide +kernel

/-- R374: a halt command halts the harts its mask names, with source 3. -/
theorem test_dcmd_halt : after (.dcmdHalt 0 1) { base with hub := { base.hub with debugUnlocked := true } }
    (fun t => (t.me.csr.halt, t.me.csr.stop)) (false, 0) = (true, 3) := by decide

/-! Witnesses: for each obligation with hypotheses, states and operands that meet them, clause by clause. -/

/-- Where the code of `base` lies. -/
abbrev code : Word64 := 0x10000000

theorem witness_DecodeEncode :
    (Instr.smbStrides (-4) 1 2 3 31 4 (-8) 12 16).wf = true ∧ (encodeEnc (.smbStrides (-4) 1 2 3 31 4 (-8) 12 16)).isSome = true ∧
    (Instr.add 31 0 31).wf = true ∧ (encodeEnc (.add 31 0 31)).isSome = true := by decide

theorem witness_ReservedMajorsRefused :
    ∀ m ∈ [0x1D, 0x1E, 0x1F, 0x24, 0x25, 0x26, 0x27, 0x2B, 0x2C, 0x2D, 0x2E, 0x2F, 0x37, 0x3B, 0x3E, 0x3F],
      ((BitVec.ofNat 32 (m * 4)).extractLsb 7 2).toNat = m := by decide

theorem witness_IntegerResults :
    intResult (.div 5 6 7) base = some (5, -1) ∧ intResult (.lea 31 6 7 3) base = some (31, 0) ∧
    intResult (.addi 0 6 (-8192)) base = some (0, -8192) := by decide

theorem witness_ScalarFloatResults :
    ∃ rd v fl, (Instr.sfadd 5 6 7 .f32).wf = true ∧ fpResult (.sfadd 5 6 7 .f32) base = some (rd, v, fl) :=
  ⟨_, _, _, by decide, rfl⟩

theorem witness_ConstantRegisters : (1 : XReg) ≠ 0 ∧ (31 : XReg) ≠ 0 ∧ (1 : PReg) ≠ 0 ∧ (15 : PReg) ≠ 0 := by decide

theorem witness_Branches :
    (∃ taken off, branchOf (.beq 6 7 255) base = some (taken, off) ∧ taken) ∧
    ∃ taken off, branchOf (.bltLit 6 7 (-4)) base = some (taken, off) ∧ ¬ taken :=
  ⟨⟨_, _, rfl, rfl⟩, ⟨_, _, rfl, by decide⟩⟩

theorem witness_Jumps :
    jumpOf (.jalr 1 6 4) base = some (1, 4) ∧ (4 : Word64).toNat % 4 = 0 ∧
    jumpOf (.jal 0 (-1)) base = some (0, code - 4) ∧ (code - 4).toNat % 4 = 0 := by decide

theorem witness_JumpMisaligned :
    (base.x 6 + immS (1 : BitVec 14)).toNat % 4 ≠ 0 ∧ (base.x 6 + immS (-1 : BitVec 14)).toNat % 4 ≠ 0 := by decide

theorem witness_LoopSetup :
    loopOf (.loop 3 5 2) base = some (3, 0, code + 8) ∧ base.me.handler = false ∧
    loopOf (.loopLit 0 4 0xFFFFFFFF) base = some (0, 0xFFFFFFFF, code + 16) ∧
    loopOf (.loop 0 5 2) (base.setMe { base.me with handler := true }) = some (0, 0, code + 8) ∧
    (base.setMe { base.me with handler := true }).me.handler = true := by decide

/-- A hart of which level `n` is active over [0x0FFFFFF0, stop). -/
def looping (n : Nat) (stop : BitVec 48) (count : Word32) : Hart :=
  { base.me.setLevel n { LoopLevel.zero with start := 0x0FFFFFF0, stop := stop, count := count, active := true } with
    npc := code + 4 }

theorem innermost_of (h : Hart) (n : Nat) (hn : n < 4) (ha : (h.level n).active = true)
    (hd : ∀ m, m < 4 → n < m → (h.level m).active = false) : Innermost h n :=
  ⟨hn, ha, fun m h1 h2 => hd m h2 h1⟩

theorem witness_LoopEndTest :
    (base.me.handler = false ∧ ∀ n, n < 4 → (base.me.level n).active = false) ∧
    (Innermost (looping 0 0x10000004 1) 0 ∧ EndsBody (looping 0 0x10000004 1) 0 ∧
      ((looping 0 0x10000004 1).level 0).heldCount.getD ((looping 0 0x10000004 1).level 0).count ≠ 0) ∧
    (Innermost (looping 3 0x10000004 0) 3 ∧ EndsBody (looping 3 0x10000004 0) 3 ∧
      ((looping 3 0x10000004 0).level 3).heldCount.getD ((looping 3 0x10000004 0).level 3).count = 0) ∧
    (Innermost (looping 0 0x10000008 1) 0 ∧ ¬ EndsBody (looping 0 0x10000008 1) 0) :=
  ⟨by decide, ⟨innermost_of _ _ (by decide) (by decide) (by decide), by unfold EndsBody; decide, by decide⟩,
    ⟨innermost_of _ _ (by decide) (by decide) (by decide), by unfold EndsBody; decide, by decide⟩,
    ⟨innermost_of _ _ (by decide) (by decide) (by decide), by unfold EndsBody; decide⟩⟩

theorem witness_CsrWrites :
    csrWriteOf (.csrw 10 0x008) = some (10, 0x008, .write) ∧ (csrValue base 0x008).isSome = true ∧
    csrWriteOf (.csrc 10 0xF03) = some (10, 0xF03, .clear) ∧ (csrValue base 0xF03).isSome = true ∧
    csrWriteOf (.csrs 10 0x005) = some (10, 0x005, .set) ∧ csrValue base 0x005 = none := by decide

theorem witness_WriteEvents :
    writeEvent (.vlWrite .write 5) = some (0x000, .write, 5) ∧
    writeEvent (.lsLeWrite true 3 .clear 5) = some (0x02B, .clear, 5) := by decide

theorem witness_PlainRegisterWrites :
    (plainWrite 0x004 .set 5 base.me.csr).isSome = true ∧ (plainWrite 0x7B1 .write 0xFF00 base.me.csr).isSome = true ∧
    plainWrite 0xF03 .write 5 base.me.csr = some base.me.csr := by decide

/-- A hart inside the body of active level 2. -/
def inBody : State := base.setMe (looping 2 0x10000004 1)

theorem witness_LoopRegisterWrites :
    (inBody.me.handler = false ∧ (inBody.me.level 2).active = true ∧ (inBody.me.level 2).start ≤ inBody.me.pc.setWidth 48 ∧
      inBody.me.pc.setWidth 48 < (inBody.me.level 2).stop) ∧
    (base.me.handler = false ∧ (base.me.level 2).active = false) ∧
    (handled.setMe { handled.me with handler := true }).me.handler = true := by decide

/-- In the handler, with EPC at the end of active level 1. -/
def returning : State :=
  base.setMe { base.me.setLevel 1 { LoopLevel.zero with start := 0x0FFFFFF0, stop := 0x10000004, count := 1, active := true } with
    handler := true, csr := { base.me.csr with epc := 0x10000004 } }

theorem witness_TrapReturn :
    (returning.me.handler = true ∧ ∃ n, n < 4 ∧ (returning.me.level n).active = true ∧
      (returning.me.level n).stop = returning.me.csr.epc ∧ (returning.me.level n).start ≤ returning.me.csr.epc - 1 ∧
      returning.me.csr.epc - 1 < returning.me.csr.epc) ∧
    ((base.setMe { base.me with handler := true }).me.handler = true ∧
      ∀ n, n < 4 → ((base.setMe { base.me with handler := true }).me.level n).active = false) ∧
    base.me.handler = false :=
  ⟨⟨by decide, 1, by decide⟩, by decide, by decide⟩

/-- Debug unlocked, breakpoint halting on. -/
def debugged : State := ({ base with hub := { base.hub with debugUnlocked := true } }).setCore 0 { Core.reset with brken := true }

theorem witness_SoftwareTraps :
    base.hub.debugUnlocked = false ∧ debugged.hub.debugUnlocked = true ∧ debugged.myCore.brken = true := by decide

theorem witness_NothingButRetire :
    let s := (base.setX 6 code).setX 7 1
    s.flaws = [] ∧ ∀ a, Z (s.x 6) ≤ a → a < Z (s.x 6) + Z (s.x 7) → flushSkips a = true ∨
      ((a / 2 ^ 47 = 0 ∨ a / 2 ^ 47 = 2 ^ 17 - 1) ∧ ¬ (0x7F0000000000 ≤ a ∧ a < 0x800000000000) ∧
        ∃ e, s.leafOf s.myCtxId (a % 2 ^ 48) (fun _ => true) = .ok e) := by
  intro s
  refine ⟨by decide, fun a h1 h2 => ?_⟩
  have e : Z (s.x 6) = 0x10000000 ∧ Z (s.x 7) = 1 := by decide
  obtain rfl : a = 0x10000000 := by omega
  exact .inr ⟨by decide, by decide, (0x80000017, 65536), by decide⟩

/-! Memory. -/

/-- The own scratchpad with word 0x40 poisoned. -/
def poisoned : State := base.markPoison (2 ^ 56 + 0x40)

/-- A kernel with 4 KiB of scratchpad. -/
def small : State := base.setMe { base.me with header := { KHeader.max with spad := 4096 } }

/-- What `BeyondSpad` asks, for `decide`. -/
theorem beyond_of (s : State) (key n : Nat) (h : 2 ^ 56 + s.myCoreId * 2 ^ 20 ≤ key ∧ key < 2 ^ 56 + s.myCoreId * 2 ^ 20 + 2 ^ 20 ∧
    key < 2 ^ 57 ∧ 2 ^ 56 + s.myCoreId * 2 ^ 20 + s.me.header.spad < key + n) : BeyondSpad s key n := h

theorem within_of (s : State) (key n : Nat) (h : ¬ (2 ^ 56 + s.myCoreId * 2 ^ 20 ≤ key ∧
    key < 2 ^ 56 + s.myCoreId * 2 ^ 20 + 2 ^ 20 ∧ key < 2 ^ 57 ∧ 2 ^ 56 + s.myCoreId * 2 ^ 20 + s.me.header.spad < key + n)) :
    ¬ BeyondSpad s key n := h

theorem witness_AccessChecks :
    0x41 % 8 ≠ 0 ∧ (0x40 % 8 = 0 ∧ (base.meetWalk base.myCtxId (2 ^ 47)).resolveMe (2 ^ 47) .load = .error { order := 1, cause := 4 }) ∧
    (4088 % 8 = 0 ∧ (small.meetWalk small.myCtxId 4088).resolveMe 4088 .load = .ok (2 ^ 56 + 4088) ∧
      BeyondSpad small (2 ^ 56 + 4088) 16 ∧ ¬ BeyondSpad small (2 ^ 56 + 4088) 8) ∧
    (Quiet base ∧ base.resolveMe 0x40 .load = .ok (2 ^ 56 + 0x40) ∧ ¬ BeyondSpad base (2 ^ 56 + 0x40) 8 ∧
      base.poisonedAt (2 ^ 56 + 0x40) 8 = none) ∧
    (Quiet poisoned ∧ poisoned.resolveMe 0x40 .load = .ok (2 ^ 56 + 0x40) ∧ ¬ BeyondSpad poisoned (2 ^ 56 + 0x40) 8 ∧
      (poisoned.poisonedAt (2 ^ 56 + 0x40) 8).isSome = true) ∧
    ∃ u key, base.access 0x40 8 8 .load true false true = .ok u key :=
  ⟨by decide, ⟨by decide, rfl⟩, ⟨by decide, by decide, beyond_of _ _ _ (by decide), within_of _ _ _ (by decide)⟩,
    ⟨⟨rfl, rfl, rfl⟩, rfl, within_of _ _ _ (by decide), by decide⟩,
    ⟨⟨rfl, rfl, rfl⟩, rfl, within_of _ _ _ (by decide), by decide⟩, _, _, rfl⟩

/-- The context that also has press 1. -/
def two : State := base.setCtx 0 { base.ctx 0 with cfg := { CtxCfg.zero with presses := [0, 1] } }

theorem witness_AddressWindows :
    (Acc.load ≠ .fetch ∧ 2 ^ 47 / 2 ^ 47 ≠ 0 ∧ 2 ^ 47 / 2 ^ 47 ≠ 2 ^ 17 - 1) ∧
    ((small.press (pressOfCore 0)).enabled = true ∧ small.myCtx.cfg.presses.contains (pressOfCore 0) = true ∧
      small.me.header.spad ≤ 4096 ∧ ¬ small.me.header.spad ≤ 4095) ∧
    (3 ≠ small.cur / 8 % 4 ∧ (small.press (pressOfCore 3)).enabled = true ∧
      small.myCtx.cfg.presses.contains (pressOfCore 3) = true) ∧
    (7 ≠ two.cur / 8 % 128 ∧ (two.press (pressOfCore 7)).enabled = true ∧
      two.myCtx.cfg.presses.contains (pressOfCore 7) = true) ∧
    ((two.press (two.cur / 8 / 128 * 32 + 1)).enabled = true ∧
      two.myCtx.cfg.presses.contains (two.cur / 8 / 128 * 32 + 1) = true) ∧
    (∀ va ∈ [0x7F0000400000, 0x7F000FFFFFFF, 0x7F0018000000, 0x7F00FFFFFFFF, 0x7F0140000000, 0x7F01FFFFFFFF, 0x7F0200010000,
        0x7FFFFFFFFFFF], (0x7F0000400000 ≤ va ∧ va < 0x7F0010000000) ∨ (0x7F0018000000 ≤ va ∧ va < 0x7F0100000000) ∨
      (0x7F0140000000 ≤ va ∧ va < 0x7F0200000000) ∨ (0x7F0200010000 ≤ va ∧ va < 0x800000000000)) := by decide

/-- A two-level table at 0x80000000 in owned range 2: a 1 GiB page for reading and writing. -/
def paged (e1 e2 : List Byte) : State :=
  let s := { base with tlb := [] }
  let c := (s.ctx 0).cfg
  ((s.setCtx 0 { s.ctx 0 with cfg := { c with tbase := 0x80000000 } }).setBytes 0x80000000 e1).setBytes 0x80001000 e2

theorem witness_PageTranslation :
    ((paged [] []).ctx 0).cfg.tbase % 4096 = 0 ∧ (paged [] []).ownsPa 0 ((paged [] []).ctx 0).cfg.tbase = true ∧
    (((paged [] []).tlb.find? fun t => t.ctx == 0 && decide (t.va ≤ 8) && decide (8 < t.va + t.size)) = none) ∧
    (ofZ ((paged [] []).readLe ((paged [] []).ctx 0).cfg.tbase 8)).getLsbD 0 = false ∧
    (let e := ofZ ((paged [3] []).readLe 0x80000000 8); e.getLsbD 0 = true ∧ e.getLsbD 1 = true) ∧
    (let s := paged [1, 0x10, 0, 0x80] [0x0F, 0, 0, 0x80]
      let e1 := ofZ (s.readLe 0x80000000 8)
      let e2 := ofZ (s.readLe 0x80001000 8)
      (s.ctx 0).cfg.tbase = 0x80000000 ∧ e1.getLsbD 0 = true ∧ e1.getLsbD 1 = false ∧ pteZeroOk e1 = true ∧
        pteAddr e1 = 0x80001000 ∧ pteAddr e1 % 4096 = 0 ∧ s.ownsPa 0 (pteAddr e1) = true ∧ s.badAt 0x80000000 8 = false ∧
        s.badAt 0x80001000 8 = false ∧ e2.getLsbD 0 = true ∧ e2.getLsbD 1 = true ∧ e2.getLsbD 7 = false ∧
        pteZeroOk e2 = true ∧ pteAddr e2 % 2 ^ 30 = 0 ∧ s.ownsPa 0 (pteAddr e2) = true) := by decide

theorem witness_Loads :
    (Instr.ld 5 6 .s64 511).wf = true ∧ loadOf (.ld 5 6 .s64 511) base = some (5, 4088, .s64) ∧
    ∃ u key, base.access 4088 (bytesOf .s64) (bytesOf .s64) .load true false true = .ok u key :=
  ⟨by decide, by decide, _, _, rfl⟩

theorem witness_Stores :
    storeOf (.st 5 6 3 511) base = some (5, 4088, 8) ∧ ∃ u key, base.access 4088 8 8 .store false true true = .ok u key :=
  ⟨by decide, _, _, rfl⟩

theorem witness_FailedAccesses :
    (loadOf (.ldLit 5 6 .s64 1) base = some (5, 1, .s64) ∧ ∃ u c e, base.access 1 8 8 .load true false true = .bad u c e) ∧
    (storeOf (.stLit 5 6 3 1) base = some (5, 1, 8) ∧ ∃ u c e, base.access 1 8 8 .store false true true = .bad u c e) ∧
    (amoOf (.amoAdd 5 6 7 .press 1) = some (.add, false, 5, 6, 7, 1) ∧
      ∃ u c e, (base.setX 6 1).access 1 8 8 .atomic true true true = .bad u c e) :=
  ⟨⟨by decide, _, _, _, rfl⟩, ⟨by decide, _, _, _, rfl⟩, ⟨by decide, _, _, _, rfl⟩⟩

theorem witness_Atomics :
    amoOf (.amoMin 5 6 7 .press 1 1) = some (.min, true, 5, 6, 7, 1) ∧
    ∃ u key, base.access (base.x 6).toNat (atomBytes 1) (atomBytes 1) .atomic true true true = .ok u key :=
  ⟨by decide, _, _, rfl⟩

theorem witness_CompareAndSwap :
    Quiet base ∧ (base.x 6).toNat % atomBytes 0 = 0 ∧ base.resolveMe (base.x 6).toNat .atomic = .ok (2 ^ 56) ∧
    ¬ BeyondSpad base (2 ^ 56) (atomBytes 0) ∧ base.poisonedAt (2 ^ 56) (atomBytes 0) = none ∧
    leValue base (2 ^ 56) (atomBytes 0) = (base.x 7).toNat % 256 ^ atomBytes 0 ∧
    leValue base (2 ^ 56) (atomBytes 0) ≠ ((base.setX 7 1).x 7).toNat % 256 ^ atomBytes 0 :=
  ⟨⟨rfl, rfl, rfl⟩, by decide, rfl, within_of _ _ _ (by decide), by decide, by decide, by decide⟩

theorem witness_HomeReductions :
    redOf (.redMax 6 7 .core 0 1) = some (.max, false, 6, 7, 1) ∧ Quiet poisoned ∧
    (((poisoned.setX 6 0x40).x 6).toNat % atomBytes 1 = 0 ∧
      (poisoned.setX 6 0x40).resolveMe ((poisoned.setX 6 0x40).x 6).toNat .atomic = .ok (2 ^ 56 + 0x40) ∧
      ¬ BeyondSpad (poisoned.setX 6 0x40) (2 ^ 56 + 0x40) (atomBytes 1) ∧
      ((poisoned.setX 6 0x40).poisonedAt (2 ^ 56 + 0x40) (atomBytes 1)).isSome = true) ∧
    poisoned.poisonedAt (2 ^ 56) (atomBytes 1) = none :=
  ⟨by decide, ⟨rfl, rfl, rfl⟩, ⟨by decide, rfl, within_of _ _ _ (by decide), by decide⟩, by decide⟩

/-- Step 12 of the search in the face jump (R259, R260): v1, v2 and v9 on quadrilaterals of these degrees, v3 to v6 with 14 rows. -/
def searching (d1 d2 d9 : BitVec 4) : State :=
  let h := [(1, d1), (2, d2), (9, d9)].foldl (init := vec.me) fun (h : Hart) (e : VReg × BitVec 4) =>
    h.setV e.1 { VRegister.zero with
      desc := { Desc.zero with cap := 15, shape := 2, deg := e.2 }, rows := (e.2.toNat + 1) ^ 2, held := 1 }
  let h := [(3, 2), (4, 4), (5, 4), (6, 4)].foldl (init := h) fun (h : Hart) (e : VReg × Nat) =>
    h.setV e.1 { VRegister.zero with rows := e.2, held := 1 }
  vec.setMe { h with csr := { h.csr with etvec := 0x20000000 } }

/-- R259: lines 41 and 42 take 25 rows each, of 66 and 41 free; R260: line 43, which finds 16, faults with its request in EVAL. -/
theorem test_face_jump_rows :
    after (.fset 9 20) ((searching 11 11 11).setX 20 0xF02C) (fun t => (t.me.getV 9).rows) 0 = 169 ∧
    (searching 11 11 12).rowCheck [1] 169 = none ∧ (searching 12 11 12).rowCheck [2] 169 = some (7, 25) ∧
    after (.fadd 2 2 9 0) (searching 12 11 12) (fun t => (t.me.csr.ecause, t.me.csr.eval, t.me.csr.vri, (t.me.getV 2).rows)) (0, 0, 0, 0) =
      (7, 25, 0, 144) := by decide

/-! Vector instructions. -/

/-- `vec` with values in v5 to v7 and p9 true below 256. -/
def vec3 : State := withP 9 (BitVec.allOnes 256) (withV 5 [1, 2] (withV 6 [0x3F800000, 5] (withV 7 [0x40000000, 1] vec)))

/-- The same with nine elements and the bank word of element 8 of v6 poisoned. -/
def vecBad : State :=
  withCsr (fun c => { c with vl := 9 }) (vec3.setMe (vec3.me.setV 6 { vec3.me.getV 6 with bad := [(256, true)] }))

/-- `vec3` in protected mode, the copies of element 1 about to differ. -/
def vecApart : State := vec3.setMe { vec3.me with pmInForce := true, laneFault := some 1 }

/-- The same with VRI at 1, which an instruction that restarts whole takes no notice of. -/
def vecAgain : State := withCsr (fun c => { c with vri := 1 }) vec3

theorem rows_of (s : State) (vd : VReg) (rows : Nat) (h : s.me.csr.vl ≠ 0 ∧ s.me.laneFault = none ∧
    s.rowCheck [vd] rows = none) : RowsReady s vd rows := h

theorem ready_of (s : State) (vd : VReg) (rows : Nat) (h : (s.me.csr.vl ≠ 0 ∧ s.me.laneFault = none ∧
    s.rowCheck [vd] rows = none) ∧ s.me.csr.vri = 0) : VecReady s vd rows := h

theorem clean_of (s : State) (srcs : List VReg) (takes : Nat → Prop) (h : ∀ r ∈ srcs, (s.me.getV r).bad = []) :
    Clean s srcs takes := by
  intro e _ r hr
  simp [VRegister.badElem, VRegister.badRow, h r hr, fget]

theorem badElem_of (s : State) (srcs : List VReg) (n : Nat) (h : ∀ r ∈ srcs, (s.me.getV r).bad = []) :
    ∀ e, e < n → ∀ r ∈ srcs, (s.me.getV r).badElem e = false := by
  intro e _ r hr
  simp [VRegister.badElem, VRegister.badRow, h r hr, fget]

theorem witness_ElementwiseResults :
    (∃ q, (Instr.vaddS32 5 6 7 9).wf = true ∧ elementwise (.vaddS32 5 6 7 9) vec3 = some q ∧ VecReady vec3 q.vd (rowsOf q.t) ∧
      Clean vec3 q.srcs (TakesPart vec3.me q.p)) ∧
    ∃ q, (Instr.vcvt 31 6 .f64 .f32 .rne 9).wf = true ∧ elementwise (.vcvt 31 6 .f64 .f32 .rne 9) vec3 = some q ∧
      VecReady vec3 q.vd (rowsOf q.t) ∧ Clean vec3 q.srcs (TakesPart vec3.me q.p) :=
  ⟨⟨_, by decide, rfl, ready_of _ _ _ (by decide), clean_of _ _ _ (by decide)⟩,
    _, by decide, rfl, ready_of _ _ _ (by decide), clean_of _ _ _ (by decide)⟩

theorem witness_ElementFaults :
    ∃ q, (Instr.vaddS32 5 6 7 9).wf = true ∧ elementwise (.vaddS32 5 6 7 9) vecBad = some q ∧
      VecReady vecBad q.vd (rowsOf q.t) ∧ TakesPart vecBad.me q.p 8 ∧ (∃ r ∈ q.srcs, (vecBad.me.getV r).badElem 8 = true) ∧
      (∀ e, e < 8 → TakesPart vecBad.me q.p e → ∀ r ∈ q.srcs, (vecBad.me.getV r).badElem e = false) ∧
      vecBad.me.handler = false := by
  refine ⟨_, by decide, rfl, ready_of _ _ _ (by decide), ⟨by decide, by decide⟩, ⟨6, by decide, by decide⟩, ?_, rfl⟩
  intro e he _
  interval_cases e <;> decide

theorem witness_ElementMismatches :
    ∃ q, (Instr.vaddS32 5 6 7 9).wf = true ∧ elementwise (.vaddS32 5 6 7 9) vecApart = some q ∧ vecApart.me.csr.vl ≠ 0 ∧
      vecApart.me.csr.vri = 0 ∧ vecApart.rowCheck [q.vd] (rowsOf q.t) = none ∧ vecApart.me.pmInForce = true ∧
      vecApart.me.laneFault = some 1 ∧ TakesPart vecApart.me q.p 1 ∧
      ∀ e, e < 1 → TakesPart vecApart.me q.p e → ∀ r ∈ q.srcs, (vecApart.me.getV r).badElem e = false := by
  refine ⟨_, by decide, rfl, by decide, by decide, by decide, rfl, rfl, ⟨by decide, by decide⟩, ?_⟩
  intro e he _
  obtain rfl : e = 0 := by omega
  decide

theorem witness_ElementMoves :
    (∃ m, mover (.vsel 5 6 7 9) vec3 = some m ∧ m.restarts = false ∧ RowsReady vec3 m.vd (rowsByEtype m.etype) ∧
      vec3.me.csr.vri = 0 ∧ ∀ e, e < 512 → ∀ r ∈ m.srcs, (vec3.me.getV r).badElem e = false) ∧
    ∃ m, mover (.vslide 5 6 7 9) vecAgain = some m ∧ m.restarts = true ∧ RowsReady vecAgain m.vd (rowsByEtype m.etype) ∧
      vecAgain.me.csr.vri ≠ 0 ∧ ∀ e, e < 512 → ∀ r ∈ m.srcs, (vecAgain.me.getV r).badElem e = false :=
  ⟨⟨_, rfl, rfl, rows_of _ _ _ (by decide), by decide, badElem_of _ _ _ (by decide)⟩,
    _, rfl, rfl, rows_of _ _ _ (by decide), by decide, badElem_of _ _ _ (by decide)⟩

theorem witness_Compares :
    compareOf (.vcmp 5 6 7 9 .ge 3) = some (5, 6, 7, 9, .ge, .z32) ∧ vecAgain.me.csr.vl ≠ 0 ∧
    vecAgain.me.laneFault = none ∧ Clean vecAgain [6, 7] (TakesPart vecAgain.me 9) :=
  ⟨by decide, by decide, by decide, clean_of _ _ _ (by decide)⟩

theorem witness_PredicateOps : (∃ f, predOf (.pxor 0 9 9) vec3 = some (0, f)) ∧ vec3.me.csr.vl ≠ 0 ∧ vec3.me.laneFault = none :=
  ⟨⟨_, rfl⟩, by decide, by decide⟩

theorem witness_VectorToScalar : ∀ e, e < vec3.me.csr.vl.toNat → (vec3.me.getV 6).badElem e = false := by decide

theorem witness_IntegerReductions :
    ElemTy.isInt .s8 = true ∧ vec3.me.csr.vl.toNat ≤ 256 ∧ vec3.me.laneFault = none ∧
    Clean vec3 [6] (TakesPart vec3.me 9) :=
  ⟨by decide, by decide, by decide, clean_of _ _ _ (by decide)⟩

theorem witness_ReductionTree :
    (Instr.vred .min 5 6 .f32 .dyn 9).wf = true ∧ (Instr.vred .add 5 6 .s32 .rtz 9).wf = true ∧ vec3.me.csr.vl.toNat ≤ 2 ^ 1 ∧
    (1 = 0 ∨ 2 ^ (1 - 1) < vec3.me.csr.vl.toNat) ∧ vec3.me.laneFault = none ∧ Clean vec3 [6] (TakesPart vec3.me 9) ∧
    base.me.csr.vl.toNat ≤ 2 ^ 0 ∧ base.me.laneFault = none ∧ Clean base [6] (TakesPart base.me 9) :=
  ⟨by decide, by decide, by decide, by decide, by decide, clean_of _ _ _ (by decide), by decide, by decide,
    clean_of _ _ _ (by decide)⟩

theorem witness_Scans :
    (Instr.vscan .add false 5 6 .s32 .rne 9).wf = true ∧ treeOf (.vscan .add false 5 6 .s32 .rne 9) = some (5, 6, 9, .s32) ∧
    (Instr.vsscan .max true 5 6 7 .f64 .dyn 9).wf = true ∧ treeOf (.vsscan .max true 5 6 7 .f64 .dyn 9) = some (5, 6, 9, .f64) ∧
    RowsReady vec3 5 (rowsOf .s32) ∧ RowsReady vec3 5 (rowsOf .f64) ∧ Clean vec3 [6] (TakesPart vec3.me 9) :=
  ⟨by decide, by decide, by decide, by decide, rows_of _ _ _ (by decide), rows_of _ _ _ (by decide), clean_of _ _ _ (by decide)⟩

theorem witness_NoElements :
    (elementwise (.vaddS32 5 6 7 9) base).isSome = true ∧ (mover (.vid 5 9) base).isSome = true ∧
    (compareOf (.vcmp 5 6 7 9 .ge 3)).isSome = true ∧ (predOf (.pnot 5 6) base).isSome = true ∧
    (treeOf (.vscan .add false 5 6 .s32 .rne 9)).isSome = true ∧ (vmemOf (.vst 5 6 9 1) base).isSome = true ∧
    (fnOf (.fadd 5 6 7 9) base).isSome = true ∧ base.me.csr.vl = 0 :=
  ⟨rfl, rfl, rfl, rfl, rfl, rfl, rfl, rfl⟩

/-- Elements of a predicate register that take part, with VL = 2. -/
theorem two_take {s : State} {p : PReg} {e : Nat} (hv : s.me.csr.vl = 2) (h : TakesPart s.me p e) : e = 0 ∨ e = 1 := by
  have := h.1
  simp [hv] at this
  omega

/-- `vec3` with x6 at an address of the own scratchpad. -/
def vmem : State := vec3.setX 6 0x200

/-- The checks of an address that leaves its window, and of one that passes them. -/
theorem window_fails (s : State) (m : VMem) (a : Word64) (h : a.toNat % m.size = 0 ∧ m.index.isSome = true ∧
    inSpadWindow a.toNat = false) : AddressFails s m a 6 a := by
  unfold AddressFails
  rw [if_neg (by simp [h.1]), if_pos ⟨h.2.1, h.2.2⟩]
  exact ⟨rfl, rfl⟩

theorem address_passes (s : State) (m : VMem) (a : Word64) (key : Nat) (h : a.toNat % m.size = 0 ∧ inSpadWindow a.toNat = true ∧
    s.resolveMe a.toNat (if m.isLoad then .load else .store) = .ok key) (hb : ¬ BeyondSpad s key m.size) (c : Nat) (ev : Word64) :
    ¬ AddressFails s m a c ev := by
  unfold AddressFails
  rw [if_neg (by simp [h.1]), if_neg (by simp [h.2.1]), h.2.2]
  exact fun hf => hb hf.1

/-- Element 1 of the index far outside the windows; its bank word poisoned; the word the first element reads poisoned. -/
def vmemFar : State := withV 5 [1, 0x40000] vmem
def vmemBad : State := vmem.setMe (vmem.me.setV 5 { vmem.me.getV 5 with bad := [(0, true)] })
def vmemSpoiled : State := vmem.markPoison (2 ^ 56 + 0x204)

theorem witness_VectorLoads :
    ∃ (m : VMem) (key : Nat → Nat → Nat), vmemOf (.vldx 0 6 5 9 2) vmem = some m ∧ m.isLoad = true ∧ Quiet vmem ∧
      vmem.me.csr.vl ≠ 0 ∧ vmem.me.csr.vri = 0 ∧ vmem.me.laneFault = none ∧
      vmem.rowCheck ((List.range m.fields).map m.reg) (if m.size = 8 then 2 else 1) = none ∧
      ∀ e, TakesPart vmem.me m.p e → (∀ r ∈ m.index, (vmem.me.getV r).badElem e = false) ∧
        ∀ f, f < m.fields → VReads vmem m (m.addr e f) (key e f) := by
  refine ⟨_, fun e _ => 2 ^ 56 + 0x204 + 4 * e, rfl, rfl, ⟨rfl, rfl, rfl⟩, by decide, by decide, by decide, by decide, ?_⟩
  intro e he
  rcases two_take (by decide) he with rfl | rfl <;> refine ⟨by decide, fun f hf => ?_⟩ <;>
    (obtain rfl : f = 0 := Nat.lt_one_iff.mp hf) <;>
      refine ⟨by decide, .inr (by decide), by decide, within_of _ _ _ (by decide), by decide⟩

theorem witness_LoadFaults :
    (∃ (m : VMem) (key : Nat → Nat → Nat), vmemOf (.vldx 0 6 5 9 2) vmemFar = some m ∧ m.isLoad = true ∧ Quiet vmemFar ∧
      vmemFar.me.csr.vl ≠ 0 ∧ vmemFar.me.csr.vri = 0 ∧ vmemFar.me.laneFault = none ∧
      vmemFar.rowCheck ((List.range m.fields).map m.reg) (if m.size = 8 then 2 else 1) = none ∧
      chosenBelow vmemFar m.p 1 = [0] ∧ (∀ r ∈ m.index, (vmemFar.me.getV r).badElem 0 = false) ∧
      VReads vmemFar m (m.addr 0 0) (key 0 0) ∧ TakesPart vmemFar.me m.p 1 ∧ ElementFails vmemFar m 1 6 0x100200) ∧
    (∃ m, vmemOf (.vldx 0 6 5 9 2) vmemBad = some m ∧ Quiet vmemBad ∧ chosenBelow vmemBad m.p 0 = [] ∧
      TakesPart vmemBad.me m.p 0 ∧ ElementFails vmemBad m 0 10 0) ∧
    ∃ m, vmemOf (.vldx 0 6 5 9 2) vmemSpoiled = some m ∧ Quiet vmemSpoiled ∧ chosenBelow vmemSpoiled m.p 0 = [] ∧
      TakesPart vmemSpoiled.me m.p 0 ∧ ElementFails vmemSpoiled m 0 10 0x204 := by
  refine ⟨⟨_, fun e _ => 2 ^ 56 + 0x204 + 4 * e, rfl, rfl, ⟨rfl, rfl, rfl⟩, by decide, by decide, by decide, by decide, by decide,
      by decide, ⟨by decide, .inr (by decide), by decide, within_of _ _ _ (by decide), by decide⟩, ⟨by decide, by decide⟩,
      .inr (.inl ⟨by decide, 0, by decide, window_fails _ _ _ (by decide), nofun⟩)⟩,
    ⟨_, rfl, ⟨rfl, rfl, rfl⟩, by decide, ⟨by decide, by decide⟩, .inl ⟨by decide, rfl, rfl⟩⟩,
    _, rfl, ⟨rfl, rfl, rfl⟩, by decide, ⟨by decide, by decide⟩, .inr (.inr ⟨by decide, ?_, rfl, 0, by decide, by decide, nofun, 2 ^ 56 + 0x204, by decide, by decide⟩)⟩
  intro f hf c ev
  obtain rfl : f = 0 := Nat.lt_one_iff.mp hf
  exact address_passes _ _ _ (2 ^ 56 + 0x204) (by decide) (within_of _ _ _ (by decide)) c ev

/-- An address of the own scratchpad that is stored to at its key. -/
theorem stores_of (s : State) (indexed : Bool) (size : Nat) (a : Word64) (key : Nat) (h0 : a.toNat % size = 0)
    (ha : a.toNat < 0x100000) (h : s.resolveMe a.toNat .store = .ok key) (hb : ¬ BeyondSpad s key size) :
    VStores s indexed size a key :=
  ⟨h0, .inr (by simp [inSpadWindow, ha]), h, hb⟩

theorem witness_VectorStores :
    ∃ (m : VMem) (key : Nat → Nat → Nat), vmemOf (.vstx 6 6 5 9 2) vmem = some m ∧ m.isLoad = false ∧ Quiet vmem ∧
      vmem.me.csr.vl ≠ 0 ∧ vmem.me.csr.vri = 0 ∧ vmem.me.laneFault = none ∧
      ∀ e, TakesPart vmem.me m.p e → (∀ r ∈ m.index, (vmem.me.getV r).badElem e = false) ∧
        ∀ f, f < m.fields → (vmem.me.getV (m.reg f)).badElem e = false ∧
          VStores vmem m.index.isSome m.size (m.addr e f) (key e f) := by
  refine ⟨_, fun e _ => 2 ^ 56 + 0x204 + 4 * e, rfl, rfl, ⟨rfl, rfl, rfl⟩, by decide, by decide, by decide, ?_⟩
  intro e he
  rcases two_take (by decide) he with rfl | rfl <;> refine ⟨by decide, fun f hf => ?_⟩ <;>
    (obtain rfl : f = 0 := Nat.lt_one_iff.mp hf) <;>
      exact ⟨by decide, stores_of _ _ _ _ _ (by decide) (by decide) (by decide) (within_of _ _ _ (by decide))⟩

theorem witness_StoreFaults :
    (∃ (m : VMem) (key : Nat → Nat → Nat), vmemOf (.vstx 6 6 5 9 2) vmemFar = some m ∧ m.isLoad = false ∧ Quiet vmemFar ∧
      vmemFar.me.csr.vl ≠ 0 ∧ vmemFar.me.csr.vri = 0 ∧ vmemFar.me.laneFault = none ∧ chosenBelow vmemFar m.p 1 = [0] ∧
      (∀ r ∈ m.index, (vmemFar.me.getV r).badElem 0 = false) ∧ (vmemFar.me.getV (m.reg 0)).badElem 0 = false ∧
      VStores vmemFar m.index.isSome m.size (m.addr 0 0) (key 0 0) ∧ TakesPart vmemFar.me m.p 1 ∧
      ElementFails vmemFar m 1 6 0x100200) ∧
    ∃ m, vmemOf (.vstx 5 6 5 9 2) vmemBad = some m ∧ Quiet vmemBad ∧ chosenBelow vmemBad m.p 0 = [] ∧
      TakesPart vmemBad.me m.p 0 ∧ ElementFails vmemBad m 0 10 0 :=
  ⟨⟨_, fun e _ => 2 ^ 56 + 0x204 + 4 * e, rfl, rfl, ⟨rfl, rfl, rfl⟩, by decide, by decide, by decide, by decide, by decide, by decide,
      stores_of _ _ _ _ _ (by decide) (by decide) (by decide) (within_of _ _ _ (by decide)), ⟨by decide, by decide⟩,
      .inr (.inl ⟨by decide, 0, by decide, window_fails _ _ _ (by decide), nofun⟩)⟩,
    _, rfl, ⟨rfl, rfl, rfl⟩, by decide, ⟨by decide, by decide⟩, .inl ⟨by decide, rfl, rfl⟩⟩

/-! Functions. -/

/-- v6 on a line, v7 on a square; v5 with POLICY 3, v4 with CAP 0, v3 with CAP 15. -/
def shaped : State :=
  let set := fun (r : VReg) (d : Desc) (s : State) => s.setMe (s.me.setV r { s.me.getV r with desc := d, rows := 4 })
  set 3 { Desc.zero with cap := 15 } <| set 6 { Desc.zero with shape := 1, deg := 1 } (set 7 { Desc.zero with shape := 2, deg := 1 } (set 5 { Desc.zero with policy := 3 } vec3))

theorem badAny_of (v : VRegister) (e : Nat) (h : v.bad = []) : v.badAny e = false := by
  simp [VRegister.badAny, VRegister.badIn, h]

theorem witness_Descriptors :
    descIllegal (descFrom 1) ∧
    (¬ descIllegal (descFrom 0) ∧ (shaped.me.getV 5).desc.policy = 3 ∧ (vec3.me.getV 5).desc.policy ≠ 3) ∧
    (¬ descIllegal (descFrom 0x2F) ∧ (descFrom 0x2F).deg.toNat ≤ degreeMax (descFrom 0x2F).shape (descFrom 0x2F).etype ∧
      ¬ sameLayout (descFrom 0x2F) (vec3.me.getV 5).desc ∧
      vec3.rowCheck [5] (coefCount (descFrom 0x2F) * rowsByEtype (descFrom 0x2F).etype) = none) ∧
    (¬ descIllegal (descFrom 0x36) ∧ degreeMax (descFrom 0x36).shape (descFrom 0x36).etype < (descFrom 0x36).deg.toNat) ∧
    (sameLayout (descFrom 0) (vec3.me.getV 5).desc ∧ zeroLayout (descFrom 0)) ∧
    (vecApart.rowCheck [5] (coefCount (descFrom 0x2F) * rowsByEtype (descFrom 0x2F).etype) = none ∧
      ¬ zeroLayout (descFrom 0x2F) ∧ ¬ sameLayout (descFrom 0x2F) (vecApart.me.getV 5).desc ∧ vecApart.me.pmInForce = true ∧
      vecApart.me.laneFault = some 1 ∧ 1 < vecApart.me.csr.vl.toNat) := by
  simp only [descIllegal, sameLayout, zeroLayout]
  exact ⟨by decide, by decide, by decide, by decide, by decide, by decide⟩

theorem ready_fn (s : State) (f : FnForm) (h : (s.me.csr.vl ≠ 0 ∧ s.me.laneFault = none ∧
      s.rowCheck [f.vd] (f.rows s) = none) ∧ s.me.csr.vri = 0) (hl : f.legal) (hp : (s.me.getV f.vd).desc.policy ≠ 3)
    (hd : (s.me.getV f.vd).desc.policy = 0 → f.degree s = f.nat) (hb : ∀ r ∈ f.srcs ++ f.coords, (s.me.getV r).bad = []) :
    f.Ready s := by
  refine ⟨h, hl, hp, hd, fun e _ => ⟨fun r hr => ?_, fun r hr => ?_⟩⟩
  · exact badAny_of _ e (hb r (List.mem_append_left _ hr))
  · simp [VRegister.badElem, VRegister.badRow, hb r (List.mem_append_right _ hr), fget]

theorem witness_FunctionResults :
    (∃ f, (Instr.fadd 5 6 7 9).wf = true ∧ fnOf (.fadd 5 6 7 9) vec3 = some f ∧ f.Ready vec3) ∧
    ∃ f, (Instr.feval 5 6 7 8 .f64 .rne 9).wf = true ∧ fnOf (.feval 5 6 7 8 .f64 .rne 9) vec3 = some f ∧ f.Ready vec3 :=
  ⟨⟨_, by decide, rfl, ready_fn _ _ (by decide) (.inl (by decide)) (by decide) (by decide) (by decide)⟩,
    _, by decide, rfl, ready_fn _ _ (by decide) ⟨by decide, by decide, by decide⟩ (by decide) (by decide) (by decide)⟩

theorem witness_FunctionFaults :
    (∃ f, fnOf (.fadd 4 6 7 9) shaped = some f ∧ shaped.me.csr.vl ≠ 0 ∧ ¬ f.legal) ∧
    (∃ f, fnOf (.fdiff 4 6 1 .f32 .rne 9) shaped = some f ∧ ¬ f.legal) ∧
    (∃ f, fnOf (.fadd 5 6 6 9) shaped = some f ∧ f.legal ∧ (shaped.me.getV f.vd).desc.policy = 3) ∧
    ∃ f, fnOf (.fmul 4 6 6 9) shaped = some f ∧ f.legal ∧ (shaped.me.getV f.vd).desc.policy = 0 ∧ f.degree shaped < f.nat := by
  refine ⟨⟨_, rfl, by decide, ?_⟩, ⟨_, rfl, ?_⟩, ⟨_, rfl, .inr (.inr rfl), by decide⟩, _, rfl, .inr (.inr rfl), by decide, by decide⟩
  · show ¬ (_ ∨ _); decide
  · show ¬ _; decide

theorem witness_FunctionCoefficients :
    (TakesPart vec3.me 9 1 ∧ (vec3.me.getV 6).desc.etype ≠ 2 ∧ sameLayout (vec3.me.getV 6).desc (vec3.me.getV 7).desc) ∧
    (∃ f t, fnOf (.fsub 5 6 7 9) vec3 = some f ∧ f.Ready vec3 ∧ f.degree vec3 = f.nat ∧ exec (.fsub 5 6 7 9) vec3 = .next t ∧
      0 < coefCount (vec3.me.getV 6).desc) ∧
    (∃ f t, fnOf (.fscale 5 6 7 9) vec3 = some f ∧ f.Ready vec3 ∧ f.degree vec3 = f.nat ∧
      exec (.fscale 5 6 7 9) vec3 = .next t) ∧
    ∃ f t, (Instr.fproj 5 6 0 .f32 .rne 9).wf = true ∧ f.t = .f32 ∧ fnEtype f.t = (vec3.me.getV 6).desc.etype ∧
      fnOf (.fproj 5 6 0 .f32 .rne 9) vec3 = some f ∧ f.Ready vec3 ∧ f.degree vec3 = f.nat ∧
      exec (.fproj 5 6 0 .f32 .rne 9) vec3 = .next t ∧ (vec3.me.getV 6).desc.basis = 0 ∧
      0 < (f.nat + 1) ^ (vec3.me.getV 6).desc.shape.toNat :=
  ⟨⟨⟨by decide, by decide⟩, by decide, by decide, by decide, by decide, by decide⟩,
    ⟨_, _, rfl, ready_fn _ _ (by decide) (.inl (by decide)) (by decide) (by decide) (by decide), by decide, rfl, by decide⟩,
    ⟨_, _, rfl, ready_fn _ _ (by decide) trivial (by decide) (by decide) (by decide), by decide, rfl⟩,
    _, _, by decide, rfl, by decide, rfl, ready_fn _ _ (by decide) trivial (by decide) (by decide) (by decide), by decide, rfl,
    by decide, by decide⟩

theorem witness_FunctionArithmetic :
    (∃ f, (Instr.fmul 3 6 6 9).wf = true ∧ fnOf (.fmul 3 6 6 9) shaped = some f ∧ f.Ready shaped ∧ TakesPart shaped.me f.p 1 ∧
      [2].length = f.shape.toNat ∧ ∀ k ∈ [2], k ≤ f.degree shaped) ∧
    ∃ f, (Instr.ftrace 3 7 3 1 .f32 .rne 9).wf = true ∧ fnOf (.ftrace 3 7 3 1 .f32 .rne 9) shaped = some f ∧ f.Ready shaped ∧
      TakesPart shaped.me f.p 0 ∧ [1].length = f.shape.toNat ∧ ∀ k ∈ [1], k ≤ f.degree shaped :=
  ⟨⟨_, by decide, rfl, ready_fn _ _ (by decide) (.inr (.inr rfl)) (by decide) (by decide) (by decide), ⟨by decide, by decide⟩,
      by decide, by decide⟩,
    _, by decide, rfl, ready_fn _ _ (by decide) ⟨by decide, by decide, by decide⟩ (by decide) (by decide) (by decide),
    ⟨by decide, by decide⟩, by decide, by decide⟩

theorem witness_FunctionMemory :
    let key := fun e k : Nat => 2 ^ 56 + 0x200 + 4 * (e + k)
    (Quiet vmem ∧ vmem.me.csr.vl ≠ 0 ∧ vmem.me.csr.vri = 0 ∧ vmem.me.laneFault = none ∧ vmem.rowCheck [5] 1 = none ∧
      coefCount (vmem.me.getV 5).desc * rowsByEtype (vmem.me.getV 5).desc.etype = 1 ∧
      ∀ e, e < vmem.me.csr.vl.toNat → (vmem.x 6 + immS (0 : BitVec 14) + ofZ (e * 4)).toNat % 4 = 0 ∧
        vmem.resolveMe (vmem.x 6 + immS (0 : BitVec 14) + ofZ (e * 4)).toNat .load = .ok (key e 0) ∧
        ¬ BeyondSpad vmem (key e 0) 4 ∧ vmem.poisonedAt (key e 0) 4 = none) ∧
    (shaped.me.getV 5).desc.policy = 3 ∧
    (∀ e, (vmem.me.getV 5).badAny e = false) ∧
    ∀ e k, e < vmem.me.csr.vl.toNat → k < 1 →
      VStores vmem false 4 (vmem.x 6 + immS (0 : BitVec 14) + ofZ ((e * 1 + k) * 4)) (key e k) := by
  intro key
  have two : vmem.me.csr.vl.toNat = 2 := by decide
  refine ⟨⟨⟨rfl, rfl, rfl⟩, by decide, by decide, by decide, by decide, by decide, fun e he => ?_⟩, by decide,
    fun e => badAny_of _ e (by decide), fun e k he hk => ?_⟩
  · rcases (by omega : e = 0 ∨ e = 1) with rfl | rfl <;>
      exact ⟨by decide, by decide, within_of _ _ _ (by decide), by decide⟩
  · obtain rfl : k = 0 := by omega
    rcases (by omega : e = 0 ∨ e = 1) with rfl | rfl <;>
      exact stores_of _ _ _ _ _ (by decide) (by decide) (by decide) (within_of _ _ _ (by decide))

/-! Strips, leases, waits. -/

/-- `base` with its hart waiting. -/
def waiting (w : Wait) (t : Nat) (wake : Option Word64) : State :=
  base.setMe { base.me with wait := w, waited := t, wake := wake }

/-- Hart 1 of core 0 waiting. -/
def peerWaits (w : Wait) (t : Nat) (wake : Option Word64) : State :=
  base.setHart 1 { base.me with wait := w, waited := t, wake := wake }

/-- An empty strip after an empty strip. -/
def emptyTwice : State := base.setMe { base.me with stall := true, csr := { base.me.csr with vrem := 5 } }

theorem witness_StripMine :
    (∃ target rs, smbOf (.smb (-4)) emptyTwice = some (target, rs) ∧ emptyTwice.me.csr.vl.toNat = 0 ∧
      emptyTwice.me.csr.vrem ≠ 0 ∧ emptyTwice.me.stall = true ∧ emptyTwice.suspended emptyTwice.cur = false) ∧
    ∃ target rs, smbOf (.smbStrides (-4) 1 2 3 31 4 (-8) 12 16) base = some (target, rs) ∧ base.me.csr.vrem = 0 :=
  ⟨⟨_, _, rfl, by decide⟩, _, _, rfl, by decide⟩

/-- Hart 1 waits for two clusters. -/
def leasing : State :=
  base.setHart 1 { base.me with wait := .lease 5, csr := { base.me.csr with leaseMin := 2, leasePref := 16 } }

theorem witness_Leases :
    (base.waitingAt base.myCoreId = [] ∧ base.myCore.withdrawn = 0 ∧ base.me.lmap.length = base.me.grant ∧
      min (Z (base.x 6)) 16 ≤ base.me.grant) ∧
    (((peerWaits (.lease 5) 0 (some 3)).hart 1).wait = .lease 5 ∧ ((peerWaits (.lease 5) 0 (some 3)).hart 1).wake.isSome = true ∧
      ((peerWaits (.lease 5) 0 (some 3)).hart 1).csr.halt = false) ∧
    (leasing.waitingAt 0 = [1] ∧ (leasing.hart 1).grant = 0 ∧ (leasing.hart 1).csr.halt = false ∧ (leasing.hart 1).csr.leaseMin.toNat ≤ (leasing.usable 1).length) ∧
    (Quiet base ∧ Z (base.x 6) % 16 = 0 ∧ base.resolveMe (base.x 6).toNat .atomic = .ok (2 ^ 56) ∧
      ¬ BeyondSpad base (2 ^ 56) 16 ∧ base.poisonedAt (2 ^ 56) 16 = none) :=
  ⟨by decide, by decide, by decide, ⟨rfl, rfl, rfl⟩, by decide, by decide, within_of _ _ _ (by decide), by decide⟩

theorem word_at (s : State) (va : Word64) (key : Nat) (h : (s.hub.debugUnlocked = false ∧ s.flaws = [] ∧ s.me.flit = false) ∧
    va.toNat % 16 = 0 ∧ va.toNat < 0x100000 ∧ s.resolveMe va.toNat .store = .ok key ∧ s.resolveMe va.toNat .load = .ok key ∧
    s.poisonedAt key 16 = none) (hb : ¬ BeyondSpad s key 16) : WordAt s va key :=
  ⟨h.1, h.2.1, .inl h.2.2.1, h.2.2.2.1, h.2.2.2.2.1, hb, h.2.2.2.2.2⟩

/-- `base` with a full future word at 0 of the own scratchpad. -/
def filled : State := withBytes 8 [1] base

theorem witness_SyncAndFutureWords :
    (WordAt base (base.x 6) (2 ^ 56) ∧ leValue base (2 ^ 56 + 8) 4 = Z (base.x 7) % 2 ^ 32 ∧
      (base.byte (2 ^ 56 + 8)).getLsbD 0 = false ∧ base.parksUsed (2 ^ 56) < 8) ∧
    (WordAt filled (filled.x 6) (2 ^ 56) ∧ leValue filled (2 ^ 56 + 8) 4 ≠ Z (filled.x 7) % 2 ^ 32 ∧
      (filled.byte (2 ^ 56 + 8)).getLsbD 0 = true) ∧
    (WordAt (peerWaits (.futGet (2 ^ 56) 5 true) 0 none) 0 (2 ^ 56) ∧ 1 ≠ base.cur ∧
      ((peerWaits (.futGet (2 ^ 56) 5 true) 0 none).hart 1).wait = .futGet (2 ^ 56) 5 true ∧
      ((peerWaits (.futGet (2 ^ 56) 5 true) 0 none).hart 1).wake = none) ∧
    ((peerWaits (.swWait (2 ^ 56) 0 5) 0 (some 1)).hart 1).wait = .swWait (2 ^ 56) 0 5 ∧
    ((peerWaits (.swWait (2 ^ 56) 0 5) 0 (some 1)).hart 1).wake = some 1 ∧
    ((peerWaits (.futGet (2 ^ 56) 5 true) 0 (some 1)).hart 1).wake = some 1 ∧
    (let h := (peerWaits (.swWait (2 ^ 56) 0 5) (2 ^ 20) none).hart 1; h.wake = none ∧ h.csr.halt = false ∧ 2 ^ 20 ≤ h.waited) ∧
    (let h := (peerWaits (.futGet (2 ^ 56) 5 true) (2 ^ 20) none).hart 1; h.wake = none ∧ h.csr.halt = false ∧ 2 ^ 20 ≤ h.waited) :=
  ⟨⟨word_at _ _ _ (by decide) (within_of _ _ _ (by decide)), by decide, by decide, by decide⟩, ⟨word_at _ _ _ (by decide) (within_of _ _ _ (by decide)), by decide, by decide⟩,
    ⟨word_at _ _ _ (by decide) (within_of _ _ _ (by decide)), by decide, by decide, by decide⟩, by decide, by decide, by decide, by decide, by decide⟩

/-- A context with T1, its hart with one element and no active predicate. -/
def t1 : State :=
  let s := base.setCtx 0 { base.ctx 0 with cfg := { (base.ctx 0).cfg with t1 := 1 } }
  withP 9 1 (s.setMe { s.me with csr := { s.me.csr with vl := 1 } })

theorem witness_MonitoredWaits :
    Quiet base ∧
    ((Instr.waitm 5 6 7 8 .z64 .core).wf = true ∧ Z (base.x 6) % bytesOf .z64 = 0 ∧
      base.resolveMe (base.x 6).toNat .load = .ok (2 ^ 56) ∧ ¬ BeyondSpad base (2 ^ 56) (bytesOf .z64) ∧
      base.poisonedAt (2 ^ 56) (bytesOf .z64) = none ∧
      leValue base (2 ^ 56) (bytesOf .z64) = Z (base.x 7) % 256 ^ bytesOf .z64 ∧ base.x 8 = 0 ∧ (base.setX 8 1).x 8 ≠ 0 ∧
      (base.setX 8 1).monitorsUsed (dieOfHart base.cur) (2 ^ 56) < monitorSlots (2 ^ 56)) ∧
    ((peerWaits (.waitm (2 ^ 56) 8 5 7 true) 0 (some 1)).hart 1).wake = some 1 ∧
    (let s := peerWaits (.waitm (2 ^ 56) 8 5 7 true) 7 none;
      (s.hart 1).wait = .waitm (2 ^ 56) 8 5 7 true ∧ (s.hart 1).csr.halt = false ∧ (s.hart 1).wake = none ∧
        (7 : Word64).toNat ≤ (s.hart 1).waited ∧ s.poisonedAt (2 ^ 56) 8 = none) ∧
    base.myCtx.cfg.t1 ≠ 1 ∧
    (t1.myCtx.cfg.t1 = 1 ∧ t1.me.csr.vri = 0 ∧ chosen t1 9 = [0] ∧
      (∀ e ∈ t1.harts, ∀ die k, e.2.monitorsIn e.1 die k = 0) ∧
      ((t1.me.getV 6).badElem 0 = false ∧ (t1.me.getV 6).elem 0 % 2 ^ 32 = 0 ∧ t1.resolveMe 0 .load = .ok (2 ^ 56) ∧
        ¬ BeyondSpad t1 (2 ^ 56) 8 ∧ t1.poisonedAt (2 ^ 56) 8 = none) ∧
      leValue t1 (2 ^ 56) 8 = Z (t1.x 7) ∧ leValue (t1.setX 7 1) (2 ^ 56) 8 ≠ Z ((t1.setX 7 1).x 7)) ∧
    (let s := peerWaits (.vwait [2 ^ 56] none 1 3 5) 0 none;
      (s.hart 1).wait = .vwait [2 ^ 56] none 1 3 5 ∧ (s.hart 1).csr.halt = false ∧
        (∀ k ∈ [2 ^ 56], leValue s k 8 ≠ (1 : Word64).toNat) ∧ (s.hart 1).csr.vri = 0) := by
  refine ⟨⟨rfl, rfl, rfl⟩,
    ⟨by decide, by decide, by decide, within_of _ _ _ (by decide), by decide, by decide, by decide, by decide, by decide⟩,
    by decide, by decide, by decide,
    ⟨by decide, by decide, by decide, ?_, ⟨by decide, by decide, by decide, within_of _ _ _ (by decide), by decide⟩, by decide,
      by decide⟩, by decide⟩
  intro e he die k
  have h : t1.harts.map (fun e => e.2.wait) = [.none] := by decide
  have : e.2.wait = .none := by
    have := List.mem_map_of_mem (f := fun e : Nat × Hart => e.2.wait) he
    rw [h] at this
    simpa using this
  simp [Hart.monitorsIn, this]

/-- A core queue with `n` values, and one with a poisoned value first. -/
def queued (n : Nat) : State := withQueue base 2 (List.replicate n (7, false))
def queuedBad : State := withQueue base 2 [(7, true)]

theorem witness_CoreQueues :
    ((queueOf (queued 15) 2).length < 16 ∧ (queued 15).firstWaiter (queued 15).myCoreId false 2 = none) ∧
    16 ≤ (queueOf (queued 16) 2).length ∧
    (queueOf (queued 1) 2 = [(7, false)] ∧ (queued 1).firstWaiter (queued 1).myCoreId true 2 = none) ∧
    queueOf queuedBad 2 = [(7, true)] ∧ queueOf base 2 = [] ∧
    (let s := peerWaits (.queuePush 2 7) (2 ^ 20) none;
      (s.hart 1).wait = .queuePush 2 7 ∧ (s.hart 1).csr.halt = false ∧
        (s.actAs 1).firstWaiter (s.actAs 1).myCoreId false 2 = some 1 ∧ (queueOf (s.actAs 1) 2).length < 16) ∧
    (let s := withQueue (peerWaits (.queuePop 2 5) 0 none) 2 [(7, false)];
      (s.hart 1).wait = .queuePop 2 5 ∧ (s.actAs 1).firstWaiter (s.actAs 1).myCoreId true 2 = some 1 ∧
        queueOf (s.actAs 1) 2 = [(7, false)]) ∧
    (let s := peerWaits (.queuePop 2 5) (2 ^ 20) none;
      (s.hart 1).wait = .queuePop 2 5 ∧ queueOf (s.actAs 1) 2 = [] ∧ (s.hart 1).wake = none ∧ 2 ^ 20 ≤ (s.hart 1).waited) := by
  decide

/-- Barrier 0 of the core bound to id 3 of context 0 with one of two arrivals in. -/
def barred : State :=
  base.setCore 0 { base.core 0 with bars := [(0, { bound := some (0, 0, 3), expect := 2, count := 1, gen := 4 })] }

/-- Every core barrier bound by another context whose arrivals are in. -/
def barsFull : State :=
  base.setCore 0 { base.core 0 with
    bars := (List.range 16).map fun n => (n, { bound := some (1, 0, n), expect := 2, count := 1, gen := 0 }) }

theorem passed_of (s : State) (l : BitVec 2) (id : BitVec 5) (h : s.me.pending l.toNat id.toNat = none) : Passed s l id := by
  intro g hg; rw [h] at hg; cases hg

theorem witness_BarrierArrivals :
    (base.boundBar 0 3 = none ∧ base.freeBar 0 = some 0) ∧ ((base.x 6).toNat < 1 ∧ barLimit 0 < ((base.setX 6 9).x 6).toNat) ∧
    (1 ≤ ((base.setX 6 8).x 6).toNat ∧ ((base.setX 6 8).x 6).toNat ≤ barLimit 0) ∧
    (barred.boundBar 0 3 = some 0 ∧ 0 < barsPerUnit 0 ∧ barred.me.pending 0 3 ≠ some (barOf barred 0 0).gen ∧
      (barOf barred 0 0).count ≠ 0 ∧ barred.x 6 ≠ (barOf barred 0 0).expect.setWidth 64 ∧
      (barred.setX 6 2).x 6 = (barOf barred 0 0).expect.setWidth 64) ∧
    (barsFull.boundBar 0 3 = none ∧ barsFull.freeBar 0 = none) ∧ barred.me.barAt ≠ some barred.me.pc ∧
    (base.setMe { base.me with barAt := some code }).me.barAt = some (base.setMe { base.me with barAt := some code }).me.pc ∧
    (withPending barred 0 3 (some 4)).me.pending 0 3 = some (barOf (withPending barred 0 3 (some 4)) 0 0).gen ∧
    Passed base 0 3 ∧ ¬ Passed (withPending barred 0 3 (some 4)) 0 3 ∧
    (let s := peerWaits (.bar 0 3) 0 none;
      (s.hart 1).wait = .bar 0 3 ∧ (s.hart 1).csr.halt = false ∧ Passed (s.actAs 1) 0 3) := by
  refine ⟨by decide, by decide, by decide, by decide, by decide, by decide, by decide, by decide, passed_of _ _ _ (by decide), ?_,
    by decide, by decide, passed_of _ _ _ (by decide)⟩
  intro h
  exact h 4 (by decide) 0 (by decide) (by decide)

/-! Engines. -/

/-- A descriptor for a copy of 16 bytes at 0x200, its address in x6. -/
def describing : State := withBytes 0x200 [0, 0, 0, 0, 16] (base.setX 6 0x200)

/-- Sixteen commands in the FIFO. -/
def fifoFull : State :=
  describing.setCore 0 { describing.core 0 with
    eng0 := { Engine.reset with fifo := List.replicate 16 (cmdIn 0 0 0 0 0 0 0) } }

theorem witness_EnginePushes :
    pushOf (.cpCopy 5 6) = some (5, 6, [0]) ∧ Quiet describing ∧
    (Z (describing.x 6) % 32 = 0 ∧ describing.rangeFailMe (describing.x 6).toNat 32 .load = none ∧
      describing.resolveMe (describing.x 6).toNat .load = .ok (2 ^ 56 + 0x200) ∧ describing.ownSpad (2 ^ 56 + 0x200) = true ∧
      describing.poisonedAt (2 ^ 56 + 0x200) 32 = none ∧ (describing.myCore.eng 0).fifo.length < 16) ∧
    DescriptorOk [0] describing.me.header.spad (leValue describing (2 ^ 56 + 0x200) 8) (leValue describing (2 ^ 56 + 0x208) 8)
      (leValue describing (2 ^ 56 + 0x210) 8) (leValue describing (2 ^ 56 + 0x218) 8) ∧
    16 ≤ (fifoFull.myCore.eng 0).fifo.length ∧
    leValue describing (2 ^ 56 + 0x200) 8 % 256 ∉ [1] ∧
    (let s := peerWaits (.enginePush 0 (cmdIn 1 0 0 0 0 0 0) 5) 0 none;
      (s.hart 1).wait = .enginePush 0 (cmdIn 1 0 0 0 0 0 0) 5 ∧ (s.hart 1).csr.halt = false ∧
        (((s.actAs 1).myCore).eng 0).fifo.length < 16) := by
  refine ⟨by decide, ⟨rfl, rfl, rfl⟩, by decide, ?_, by decide, by decide, by decide⟩
  unfold DescriptorOk
  decide

/-- A completion record of status `st`, trapping or not, at engine 0 of the acting hart. -/
def recorded (st : BitVec 8) (trapf : Bool) : State :=
  withRecords base 0 [{ seq := 3, tag := 1, status := st, kind := 0, detail := 0, trapf := trapf }]

theorem witness_CompletionRecords :
    (recorded 0 false).me.out 0 = [{ seq := 3, tag := 1, status := 0, kind := 0, detail := 0, trapf := false }] ∧
    ((6 : XReg) ≠ 0 ∧ Quiet (recorded 0 false) ∧ Z ((recorded 0 false).x 6) % 16 = 0 ∧
      (recorded 0 false).rangeFailMe ((recorded 0 false).x 6).toNat 16 .store = none ∧
      (recorded 0 false).resolveMe ((recorded 0 false).x 6).toNat .store = .ok (2 ^ 56) ∧
      (recorded 0 false).ownSpad (2 ^ 56) = true) ∧
    (let s := recorded 1 true; s.me.out 0 = [{ seq := 3, tag := 1, status := 1, kind := 0, detail := 0, trapf := true }] ∧
      s.me.handler = false) ∧
    base.me.out 0 = [] ∧
    (let s := base.setHart 1 { (recorded 0 false).me with wait := .eqPop 0 5 0 };
      (s.hart 1).wait = .eqPop 0 5 0 ∧ (s.hart 1).out 0 ≠ [] ∧ (s.hart 1).csr.halt = false) ∧
    (let s := peerWaits (.eqPop 0 5 0) (2 ^ 20) none;
      (s.hart 1).out 0 = [] ∧ (s.hart 1).wake = none ∧ 2 ^ 20 ≤ (s.hart 1).waited) := by
  refine ⟨by decide, ⟨by decide, ⟨rfl, rfl, rfl⟩, by decide, by decide, by decide, by decide⟩, by decide, by decide, by decide, by decide⟩

/-- A copy command of 16 bytes from 0x100 to 0x200, SEQ 0; its execution. -/
def copying : Cmd := cmdIn 0 0 0 (16 * 2 ^ 32) 0x200 0x100 0
def started (c : Cmd) : Running :=
  { cmd := c, index := [], chunks := 0, outBytes := 0, inBytes := 0, plan := none, result := none, recordWait := false }

/-- Core 0 with a command in its FIFO; with one running; with a decode running on engine 1. -/
def inFifo : State := base.setCore 0 { base.core 0 with eng0 := { Engine.reset with fifo := [copying] } }
def runs (r : Running) : State := base.setCore 0 { base.core 0 with eng0 := { Engine.reset with running := [r] } }
def decodes (c : Cmd) : State := base.setCore 0 { base.core 0 with eng1 := { Engine.reset with running := [started c] } }

theorem witness_EngineWork_start :
    Quiet inFifo ∧ inFifo.engFrozen 0 = false ∧ ((inFifo.core 0).eng 0).fifo = [copying] ∧
    (∀ x ∈ (inFifo.core 0).cmds, copying.order ≤ x.order) ∧ inFifo.poisonedAt (2 ^ 56) (4 * 0) = none :=
  ⟨⟨rfl, rfl, rfl⟩, by decide, by decide, by decide, by decide⟩

/-- No table entry is read for a range in windows. -/
theorem apart_of (s : State) (ctx va n : Nat) (keys : List Nat) (h : ∀ i, i < n → inWindow ((va + i) % 2 ^ 64) = true) :
    TablesApart s ctx va n keys := fun i hi hw => by rw [h i hi] at hw; cases hw

theorem witness_EngineWork_copy :
    (let s := runs (started copying)
      let dst := segKeys (s.engSegs 0 copying.dst copying.len.toNat .store)
      (Quiet s ∧ s.engFrozen 0 = false ∧ Fresh s 0 0 (started copying) ∧ copying.kind = 0) ∧
        TablesApart s (s.ctxOfCore 0) copying.src.toNat copying.len.toNat dst ∧
        TablesApart s (s.ctxOfCore 0) copying.dst.toNat copying.len.toNat dst ∧
        s.sourceFail 0 copying.src copying.len.toNat = none ∧ s.engFail 0 copying.dst copying.len.toNat .store = none ∧ dst.Nodup) ∧
    (let c := cmdIn 0 0 0 (16 * 2 ^ 32) 0x200 0x7F0000400000 0
      let s := runs (started c)
      (Fresh s 0 0 (started c) ∧ c.kind = 0) ∧
        s.sourceFail 0 c.src c.len.toNat = some (1, 0x7F0000400000) ∧ s.engFail 0 c.dst c.len.toNat .store = none) ∧
    (let c := cmdIn 0 0 0 (16 * 2 ^ 32) 0x7F0000400000 0x100 0
      let s := runs (started c)
      (Fresh s 0 0 (started c) ∧ c.kind = 0) ∧
        s.engFail 0 c.dst c.len.toNat .store = some (1, 0x7F0000400000) ∧ s.sourceFail 0 c.src c.len.toNat = none) := by
  refine ⟨⟨⟨⟨rfl, rfl, rfl⟩, by decide, ?_, by decide⟩, apart_of _ _ _ _ _ (by decide), apart_of _ _ _ _ _ (by decide), by decide,
    by decide, by decide⟩, ⟨⟨?_, by decide⟩, by decide, by decide⟩, ⟨?_, by decide⟩, by decide, by decide⟩ <;>
    (unfold Fresh; decide)

/-- Core 0 gathers rows 1 and 0 of 16 bytes each from 0x100. -/
def gathering : Running := { started (cmdIn 0 0 0 (1 + 2 * 2 ^ 32) 0x200 0x100 (15 * 2 ^ 52)) with index := [1, 0] }

theorem witness_EngineWork_gather :
    let r := gathering
    let s := runs r
    let c := r.cmd
    let len := c.rszm1 + 1
    let from_ := fun (i : Nat) => c.src + ofZ (r.index.getD i 0 * len)
    let to_ := fun (i : Nat) => c.dst + ofZ (i * len)
    let dst := (List.range r.index.length).flatMap fun i => segKeys (s.engSegs 0 (to_ i) len .store)
    (Quiet s ∧ s.engFrozen 0 = false ∧ Fresh s 0 0 r ∧ c.kind = 1) ∧
      (∀ i, i < r.index.length → s.sourceFail 0 (from_ i) len = none ∧ s.engFail 0 (to_ i) len .store = none ∧
        TablesApart s (s.ctxOfCore 0) (from_ i).toNat len dst ∧ TablesApart s (s.ctxOfCore 0) (to_ i).toNat len dst ∧
        ∀ k ∈ segKeys (s.engSegs 0 (from_ i) len .load), k ∉ dst) ∧ dst.Nodup := by
  refine ⟨⟨⟨rfl, rfl, rfl⟩, by decide, by unfold Fresh; decide, by decide⟩, fun i hi => ?_, by decide⟩
  rcases (show i = 0 ∨ i = 1 by have : i < 2 := hi; omega) with rfl | rfl <;>
    exact ⟨by decide, by decide, apart_of _ _ _ _ _ (by decide), apart_of _ _ _ _ _ (by decide), by decide⟩

theorem witness_EngineWork_record :
    let r := { started copying with recordWait := true, result := some (0, 0) }
    let s := runs r
    Quiet s ∧ s.engFrozen 0 = false ∧ (((s.core 0).eng 0).running.find? fun x => x.cmd.seq == copying.seq) = some r ∧
    r.recordWait = true ∧ r.result = some (0, 0) ∧ copying.norec = false ∧ ((s.hart copying.hart).out 0).length < 16 :=
  ⟨⟨rfl, rfl, rfl⟩, by decide, by decide, by decide, by decide, by decide, by decide⟩

/-- A decode of a stream of `n` bytes at `src` to `dst`, its output of at most `most` bytes. -/
def decoding (src dst n most : Nat) : Cmd := cmdIn 0 0 0 (2 + n * 2 ^ 32) dst src (most * 2 ^ 32)

/-- That decode on core 0, with bytes at `off` of its scratchpad. -/
def streamed (c : Cmd) (off : Nat) (l : List Byte) : State := withBytes off l (decodes c)

/-- One chunk of one literal byte 0x61, its CRC-32C worked out by hand. -/
def chunk : List Byte := [1, 0, 2, 0, 0x30, 0x43, 0xD0, 0xC1, 0, 0x61]

/-- A decode that has released nothing; the header of its first chunk; a chunk that fits. -/
def Begun (s : State) (c : Cmd) : Prop :=
  Quiet s ∧ s.engFrozen 0 = false ∧ (((s.core 0).eng 1).running.find? fun x => x.cmd.seq == BitVec.ofNat 32 0) = some (started c) ∧
    (s.hart c.hart).flit = false
def Headed (s : State) (c : Cmd) (header : Nat) : Prop :=
  8 ≤ c.len.toNat ∧ s.sourceFail 0 (c.src + ofZ 0) 8 = none ∧ bytesNat (readBy s 0 (c.src + ofZ 0) 8) = header
def Fitting (s : State) (c : Cmd) (olen clen crc : Nat) : Prop :=
  Headed s c (olen + clen * 2 ^ 16 + crc * 2 ^ 32) ∧ (olen ≠ 0 ∧ olen ≤ 4096 ∧ clen ≠ 0) ∧ 8 + clen ≤ c.len.toNat ∧ olen ≤ c.dstmax

theorem witness_EngineWork_decode :
    (let c := decoding 0x100 0x200 0 4; Begun (streamed c 0x100 chunk) c ∧ c.len.toNat ≤ (started c).inBytes) ∧
    (let c := decoding 0x100 0x200 7 4; Begun (streamed c 0x100 chunk) c ∧ c.len.toNat = 7) ∧
    (let c := decoding 0x7F0000400000 0x200 10 4; let s := streamed c 0x100 chunk
      Begun s c ∧ s.sourceFail 0 (c.src + ofZ 0) 8 = some (1, 0x7F0000400000)) ∧
    (let c := decoding 0x100 0x200 10 4; let s := streamed c 0x100 []; Begun s c ∧ Headed s c 0) ∧
    (let c := decoding 0x100 0x200 9 4; let s := streamed c 0x100 chunk
      Begun s c ∧ Headed s c 0xC1D0433000020001 ∧ c.len.toNat < 8 + 2) ∧
    (let c := decoding 0x100 0x200 10 0; let s := streamed c 0x100 chunk
      Begun s c ∧ Headed s c 0xC1D0433000020001 ∧ 8 + 2 ≤ c.len.toNat ∧ c.dstmax < 1) ∧
    (let c := decoding 0x7F00003FFFF8 0x200 10 4; let s := streamed c 0x3FFFF8 (chunk.take 8)
      Begun s c ∧ Fitting s c 1 2 0xC1D04330 ∧ s.sourceFail 0 (c.src + ofZ 0 + 8) 2 = some (1, 0x7F0000400000)) ∧
    (let c := decoding 0x100 0x200 9 4; let s := streamed c 0x100 [1, 0, 1, 0]
      Begun s c ∧ Fitting s c 1 1 0 ∧ s.sourceFail 0 (c.src + ofZ 0 + 8) 1 = none ∧
        ¬ ∃ out, Codes (readBy s 0 (c.src + ofZ 0 + 8) 1) out ∧ out.length = 1) ∧
    (let c := decoding 0x100 0x200 10 4; let s := streamed c 0x100 [1, 0, 2, 0, 0, 0, 0, 0, 0, 0x61]
      Begun s c ∧ Fitting s c 1 2 0 ∧ s.sourceFail 0 (c.src + ofZ 0 + 8) 2 = none ∧
        Codes (readBy s 0 (c.src + ofZ 0 + 8) 2) [0x61] ∧ crc32c [0x61] ≠ 0) ∧
    (let c := decoding 0x100 0x7F0000400000 10 4; let s := streamed c 0x100 chunk
      Begun s c ∧ Fitting s c 1 2 0xC1D04330 ∧ s.sourceFail 0 (c.src + ofZ 0 + 8) 2 = none ∧
        Codes (readBy s 0 (c.src + ofZ 0 + 8) 2) [0x61] ∧ crc32c [0x61] = 0xC1D04330 ∧
        s.engFail 0 (c.dst + ofZ 0) 1 .store = some (1, 0x7F0000400000)) ∧
    let c := decoding 0x100 0x200 10 4; let s := streamed c 0x100 chunk
    Begun s c ∧ Fitting s c 1 2 0xC1D04330 ∧ s.sourceFail 0 (c.src + ofZ 0 + 8) 2 = none ∧
      Codes (readBy s 0 (c.src + ofZ 0 + 8) 2) [0x61] ∧ crc32c [0x61] = 0xC1D04330 ∧
      s.engFail 0 (c.dst + ofZ 0) 1 .store = none ∧ (segKeys (s.engSegs 0 (c.dst + ofZ 0) 1 .store)).Nodup ∧
      TablesApart s (s.ctxOfCore 0) (c.dst + ofZ 0).toNat 1 (segKeys (s.engSegs 0 (c.dst + ofZ 0) 1 .store)) := by
  have codes : Codes [0, 0x61] [0x61] := .literals 0 [0x61] [] [] (by decide) rfl .nil
  refine ⟨⟨⟨⟨rfl, rfl, rfl⟩, by decide⟩, by decide⟩, ⟨⟨⟨rfl, rfl, rfl⟩, by decide⟩, by decide⟩,
    ⟨⟨⟨rfl, rfl, rfl⟩, by decide⟩, by decide⟩, ⟨⟨⟨rfl, rfl, rfl⟩, by decide⟩, by unfold Headed; decide⟩,
    ⟨⟨⟨rfl, rfl, rfl⟩, by decide⟩, by unfold Headed; decide, by decide⟩,
    ⟨⟨⟨rfl, rfl, rfl⟩, by decide⟩, by unfold Headed; decide, by decide, by decide⟩,
    ⟨⟨⟨rfl, rfl, rfl⟩, by decide⟩, by unfold Fitting Headed; decide, by decide⟩,
    ⟨⟨⟨rfl, rfl, rfl⟩, by decide⟩, by unfold Fitting Headed; decide, by decide, ?_⟩,
    ⟨⟨⟨rfl, rfl, rfl⟩, by decide⟩, by unfold Fitting Headed; decide, by decide, ?_, by decide⟩,
    ⟨⟨⟨rfl, rfl, rfl⟩, by decide⟩, by unfold Fitting Headed; decide, by decide, ?_, by decide, by decide⟩,
    ⟨⟨rfl, rfl, rfl⟩, by decide⟩, by unfold Fitting Headed; decide, by decide, ?_, by decide, by decide, by decide,
    apart_of _ _ _ _ _ (by decide)⟩
  · have : readBy (streamed (decoding 0x100 0x200 9 4) 0x100 [1, 0, 1, 0]) 0 ((decoding 0x100 0x200 9 4).src + ofZ 0 + 8) 1 = [0] := by
      decide
    rw [this]
    rintro ⟨out, h, -⟩
    generalize e : [(0 : Byte)] = l at h
    cases h with
    | nil => cases e
    | literals c lits body out _ hl _ =>
      have := congrArg List.length e
      rw [List.length_cons (a := c), List.length_append, hl] at this
      simp only [List.length_cons, List.length_nil] at this
      omega
    | run c b body out _ _ => cases e
  all_goals
    refine (congrArg (Codes · [0x61]) ?_).mpr codes
    decide

/-! The matrix engine. -/

/-- Core 0 with row block 0; with a queued `mzero`; with its press held back. -/
def attached : State := base.setCore 0 { base.core 0 with blocks := [0] }
def zeroQueued : State := attached.setCore 0 { attached.core 0 with mq := [(0, .zero 1)] }
def heldBack : State := attached.setPress 0 { attached.press 0 with stallMatrix := true }

theorem no_tile (k : Nat) (hk : coreOfHart k = 0) (x p m r c) : (zeroQueued.hart k).wait ≠ .tile x p m r c := by
  have h8 : k < 8 := by unfold coreOfHart at hk; omega
  have : (zeroQueued.hart k).wait = .none := by interval_cases k <;> decide
  rw [this]; nofun

theorem witness_MatrixQueue :
    matOf (.mzero 1) base = some (.zero 1) ∧ base.hub.debugUnlocked = false ∧ ¬ Unsure base (.zero 1) ∧
    (let s := base.setCore 0 { base.core 0 with blocks := [0], mq := [(1, .drainp 1 0x40 true 0 0)] };
      matOf (.mdrainRaw 1 6 false 0 0) s = some (.drainRaw 1 (s.x 6) false 0 0) ∧ Unsure s (.drainRaw 1 (s.x 6) false 0 0)) ∧
    (base.afterQueue.matFail (.zero 1)).isSome = true ∧
    (heldBack.afterQueue.matFail (.zero 1) = none ∧ heldBack.matrixBusy heldBack.myCoreId = true) ∧
    (zeroQueued.core 0).mq = [(0, .zero 1)] ∧ coreOfHart 0 = 0 ∧ (zeroQueued.press (pressOfCore 0)).stallMatrix = false ∧
    ∀ k, coreOfHart k = 0 → ∀ x p m r c, (zeroQueued.hart k).wait ≠ .tile x p m r c := by
  refine ⟨by decide, by decide, ?_, ⟨by decide, .inl ⟨_, _, _, _, _, rfl⟩, .inl ⟨1, 1, 0x40, 0, 0, List.mem_cons_self⟩⟩, by decide,
    by decide, by decide, by decide, by decide, no_tile⟩
  rintro ⟨⟨_, _, _, _, _, h⟩ | ⟨_, _, _, _, _, h⟩, -⟩ <;> cases h

/-- Block 0 of plane 1 with bank word `n` poisoned. -/
def spoiltBlock (n : Nat) : State :=
  attached.setPress 0 { attached.press 0 with blocks := [(4, { Block.zero with bad := [(n, true)] })] }

theorem witness_MatrixStates :
    QueueFree base ∧ QueueFree attached ∧ QueueFree (spoiltBlock 60) ∧
    (Z ((base.setX 6 64).x 6) ∈ [16, 32, 48, 64] ∧ base.myCore.blocks = []) ∧
    (attached.myCore.blocks ≠ [] ∧ ∀ k ∈ attached.myCore.blocks, k < 4) ∧
    ((Instr.mresolve 1 .f32 .rne 0 0).wf = true ∧ attached.myCore.blocks[(0 : BitVec 2).toNat]? = some 0 ∧
      (blkOf attached 1 0).res = none ∧ CleanBlock (blkOf attached 1 0)) ∧
    ((14 : PReg) ≠ 15 ∧ ((attached.setX 6 15).x 6).toNat < 16 * attached.myCore.blocks.length) ∧
    (let s := spoiltBlock 60; CleanRow (blkOf s 1 0) 0 ∧ ¬ CleanRow (blkOf s 1 0) 1 ∧ (blkOf s 1 0).res = none ∧
      ((s.setX 6 1).x 6).toNat < 16 * s.myCore.blocks.length) ∧
    ((Instr.mcmp 1 6 7 .f32 .un 1).wf = true ∧ ElemTy.isInt .f32 = false) := by
  unfold QueueFree CleanBlock CleanRow; decide

theorem own_range (s : State) (va : Word64) (n : Nat) (acc : Acc) (key : Nat) (h : s.cur < 4096 ∧ va.toNat + n ≤ 0x100000 ∧
    s.rangeFailMe va.toNat n acc = none ∧ key = 2 ^ 56 + s.myCoreId * 2 ^ 20 + va.toNat ∧ s.resolveMe va.toNat acc = .ok key) :
    OwnRange s va n acc key := h

/-- A packed source of one unit of `s8` zeros at 0 of the own scratchpad. -/
def packed : State := withBytes 4 [8, 0x02, 0x01, 0x5A] attached

theorem witness_MatrixData_load :
    QueueFree attached ∧ Quiet attached ∧
    (Z ((attached.setX 7 127).x 7) = (1 - 1) * 2 ^ 8 + 127 ∧ 127 + 1 ≤ 128 ∧ Z (attached.x 6) % 8 = 0 ∧
      OwnRange attached (attached.x 6) (768 * 1) .load (2 ^ 56) ∧
      attached.poisonedSegs (attached.segmentsMe (Z (attached.x 6)) (768 * 1) .load) 0 = none) ∧
    (Z ((attached.setX 7 0x7F00).x 7) = (128 - 1) * 2 ^ 8 + 0 ∧ 0 % 4 = 0 ∧ 128 % 4 = 0 ∧
      OwnRange attached (attached.x 6) (768 * 128 + 48 * 128) .load (2 ^ 56) ∧
      attached.poisonedSegs (attached.segmentsMe (Z (attached.x 6)) (768 * 128 + 48 * 128) .load) 0 = none) ∧
    (∃ stream, PackedAt packed (2 ^ 56) 1 false .s8 112 stream (2 ^ 56 + 112)) ∧
    OwnRange packed (packed.x 6) 112 .load (2 ^ 56) ∧
    packed.poisonedSegs (packed.segmentsMe (Z (packed.x 6)) 112 .load) 0 = none :=
  ⟨by unfold QueueFree; decide, ⟨rfl, rfl, rfl⟩, ⟨by decide, by decide, by decide, own_range _ _ _ _ _ (by decide), by decide⟩,
    ⟨by decide, by decide, by decide, own_range _ _ _ _ _ (by decide), by decide⟩,
    ⟨_, .inl (by decide), by decide, by decide, by decide, by decide, by decide, by decide +kernel, by decide, by decide, rfl⟩,
    own_range _ _ _ _ _ (by decide), by decide⟩

theorem clean_v31 (e : Nat) : (attached.me.getV 31).badRow e 0 = false := by
  have : (attached.me.getV 31).bad = [] := by decide
  rw [VRegister.badRow, this]; rfl

theorem witness_MatrixData_accumulate :
    (QueueFree attached ∧ Quiet attached ∧ HoldsRange attached 0 0 ∧
      (∀ o ∈ rangeOf attached 1 0 0, o.res = none ∧ CleanBlock o) ∧ Z (attached.x 6) % 8 = 0) ∧
    ((Instr.mmacc 1 0 6 .s8 .s8 127 0 0 0).wf = true ∧ OwnRange attached (attached.x 6) ((0 + 1) * 16 * 8) .load (2 ^ 56) ∧
      attached.poisonedSegs (attached.segmentsMe (Z (attached.x 6)) ((0 + 1) * 16 * 8) .load) 0 = none ∧
      CleanB (attached.myCore.buf 0) false .s8 .s8 127 1) ∧
    ((Instr.msmacc 1 0 6 .f8a .f8a 0 0 0 3).wf = true ∧
      OwnRange attached (attached.x 6) ((3 + 1) * 16 * 8) .load (2 ^ 56) ∧
      attached.poisonedSegs (attached.segmentsMe (Z (attached.x 6)) ((3 + 1) * 16 * 8) .load) 0 = none ∧
      CleanB (attached.myCore.buf 0) true .f8a .f8a 0 4 ∧ ∀ e, (attached.me.getV 31).badRow e 0 = false) ∧
    (((attached.myCore.blocks.drop 0).take (0 + 1))[0]? = some 0 ∧ cellAt (blkOf attached 1 0) 1535 = .fin 0 ∧
      let l := fun q => factors attached false (attached.myCore.buf 0) (2 ^ 56) 16 127 8 .s8 .s8 (16 * 0 + 1535 / 96) (1535 % 96) q
      (∀ q, q < 8 → ∀ x ∈ l q, isFinite x = true) ∧
        |(0 : BitVec 80).toInt| +
          (((List.range 8).map fun q => added (blkOf attached 1 0).shift.toInt (l q)).map fun x => |x|).sum < 2 ^ 79) ∧
    let l := fun q => factors attached true (attached.myCore.buf 0) (2 ^ 56) 16 0 32 .f8a .f8a (16 * 0 + 0 / 96) (0 % 96) q
    cellAt (blkOf attached 1 0) 0 = .fin 0 ∧ (∀ q, q < 32 → ∀ x ∈ l q, isFinite x = true) ∧
      |(0 : BitVec 80).toInt| +
        (((List.range 32).map fun q => added (blkOf attached 1 0).shift.toInt (l q)).map fun x => |x|).sum < 2 ^ 79 := by
  refine ⟨⟨by unfold QueueFree; decide, ⟨rfl, rfl, rfl⟩, by unfold HoldsRange; decide, by unfold CleanBlock; decide, by decide⟩,
    ⟨by decide, own_range _ _ _ _ _ (by decide), by decide, ⟨by decide, nofun⟩⟩,
    ⟨by decide, own_range _ _ _ _ _ (by decide), by decide, ⟨by decide, by decide⟩, clean_v31⟩,
    ⟨by decide, by decide, by decide, by decide⟩, by decide, by decide, by decide⟩

/-- Block 0 of plane 1 resolved to `t`. -/
def resolved (t : ElemTy) : State :=
  attached.setPress 0 { attached.press 0 with blocks := [(4, { Block.zero with res := some t })] }

/-- Core 0 with row blocks 0 and 1; in plane 1 block 0 is unresolved and block 1 resolved. -/
def attached2 : State :=
  (base.setCore 0 { base.core 0 with blocks := [0, 1] }).setPress 0 { base.press 0 with
    blocks := [(5, { Block.zero with res := some .f32 })] }

/-- A drain of a block of zeros has one value. -/
theorem drain_of_zeros (rm : Rm) (sat : Bool) (t : ElemTy) (scale : Option Word32) (p : Nat × Nat) (h : p ∈ places 16) :
    Claims.drained (resolved .f32) (rangeOf (resolved .f32) 1 0 0) rm sat t scale p.1 p.2 =
      Claims.drained (resolved .f32) (rangeOf (resolved .f32) 1 0 0) rm sat t scale 0 0 := by
  have hm : p.1 / 16 = 0 := by
    simp only [places, List.mem_map, List.mem_range] at h
    obtain ⟨i, hi, rfl⟩ := h
    show i / 96 / 16 = 0
    omega
  have hv : ∀ i, valAt ((rangeOf (resolved .f32) 1 0 0).getD 0 Block.zero) i = 0 := by
    have : ((rangeOf (resolved .f32) 1 0 0).getD 0 Block.zero).vals = [] := by decide
    intro i
    rw [valAt, this]; rfl
  simp only [Claims.drained, hm, hv, Nat.zero_div]

theorem witness_MatrixData_drain :
    let s := resolved .f32
    let value := fun (sat : Bool) (t : ElemTy) (scale : Option Word32) => Claims.drained s (rangeOf s 1 0 0) .rne sat t scale
    let kept := (places 16).filter fun p => decide ((value true .f16 (some (s.x 7 |>.setWidth 32)) p.1 p.2).1 ≠ 0)
    (QueueFree s ∧ Quiet s ∧ HoldsRange s 0 0 ∧ (∀ o ∈ rangeOf s 1 0 0, o.res.isSome = true ∧ CleanBlock o) ∧ Z (s.x 6) % 16 = 0) ∧
    ((Instr.mdrain 1 6 0 .f32 .rne true false false 1 0 0).wf = true ∧
      (∀ p ∈ places 16, (value false .f32 none p.1 p.2).1 < 256 ^ 4) ∧
      OwnRange s (s.x 6) (16 + 16 * 96 * 4) .store (2 ^ 56)) ∧
    (Instr.mdrain 1 6 7 .f16 .rne true true true 2 0 0).wf = true ∧
      (∀ p ∈ places 16, (value true .f16 (some (s.x 7 |>.setWidth 32)) p.1 p.2).1 < 256 ^ 2) ∧
      OwnRange s (s.x 6) (max (16 + 16 * 96 * 2) (16 + 192 + (kept.length * 2 + 7) / 8 * 8)) .store (2 ^ 56) := by
  have none_kept : (places 16).filter (fun p => decide ((Claims.drained (resolved .f32) (rangeOf (resolved .f32) 1 0 0) .rne true .f16
      (some ((resolved .f32).x 7 |>.setWidth 32)) p.1 p.2).1 ≠ 0)) = [] := by
    refine List.filter_eq_nil_iff.mpr fun p hp => ?_
    rw [drain_of_zeros _ _ _ _ p hp]; decide
  refine ⟨⟨by unfold QueueFree; decide, ⟨rfl, rfl, rfl⟩, by unfold HoldsRange; decide, by unfold CleanBlock; decide, by decide⟩,
    ⟨by decide, fun p hp => ?_, own_range _ _ _ _ _ (by decide)⟩, by decide, fun p hp => ?_, ?_⟩
  · beta_reduce; rw [drain_of_zeros _ _ _ _ p hp]; decide
  · beta_reduce; rw [drain_of_zeros _ _ _ _ p hp]; decide
  · rw [none_kept]; exact own_range _ _ _ _ _ (by decide)

theorem witness_MatrixData_image :
    (let s := attached.setCore 0 { attached.core 0 with blocks := [3, 1] };
      QueueFree s ∧ Quiet s ∧ HoldsRange s 0 1 ∧ (∀ o ∈ rangeOf s 1 0 1, o.res = none ∧ o.shift = 0 ∧ CleanBlock o) ∧
        Z (s.x 6) % 16 = 0 ∧ OwnRange s (s.x 6) (16 + 2 * 30720) .store (2 ^ 56)) ∧
    (let s := attached2;
      QueueFree s ∧ Quiet s ∧ s.myCore.blocks ≠ [] ∧ s.myCore.blocks.length ≤ 4 ∧
        (s.myCore.blocks.map (blkOf s 1)).map Block.res = [none, some .f32] ∧
        (∀ o ∈ s.myCore.blocks.map (blkOf s 1), CleanBlock o) ∧ Z (s.x 6) % 16 = 0 ∧
        OwnRange s (s.x 6) (32 + (([none, some .f32] : List (Option ElemTy)).map imageBytesOf).sum) .store (2 ^ 56)) :=
  ⟨⟨by unfold QueueFree; decide, ⟨rfl, rfl, rfl⟩, by unfold HoldsRange; decide, by unfold CleanBlock; decide, by decide,
      own_range _ _ _ _ _ (by decide)⟩,
    by unfold QueueFree; decide, ⟨rfl, rfl, rfl⟩, by decide, by decide, by decide, by unfold CleanBlock; decide, by decide,
    own_range _ _ _ _ _ (by decide)⟩

/-- An image of one unresolved block of zeros at 0 of the own scratchpad. -/
def imaged : State := withBytes 0 ([0, 0, 0, 0, 16, 0, 0x03, 0x5A] ++ [15, 0, 0, 0, 0, 0, 0, 0] ++ [3]) attached

theorem witness_MatrixData_restore :
    QueueFree imaged ∧ Quiet imaged ∧
    (imaged.myCore.blocks ≠ [] ∧ imaged.myCore.blocks.length ≤ 4 ∧ imaged.myCore.blocks.Nodup ∧ ∀ k ∈ imaged.myCore.blocks, k < 4) ∧
    ([none] : List (Option ElemTy)).length = imaged.myCore.blocks.length ∧
    (∀ r ∈ ([none] : List (Option ElemTy)), ∀ t, r = some t → (Instr.mresolve 0 t .rne 0 0).wf = true) ∧
    Z (imaged.x 6) % 16 = 0 ∧ OwnRange imaged (imaged.x 6) (32 + (([none] : List (Option ElemTy)).map imageBytesOf).sum) .load (2 ^ 56) ∧
    imaged.poisonedSegs (imaged.segmentsMe (Z (imaged.x 6)) 30752 .load) 0 = none ∧
    leValue imaged (2 ^ 56) 8 / 2 ^ 48 = 0x5A03 ∧ leValue imaged (2 ^ 56) 8 / 2 ^ 32 % 256 = 16 * 1 ∧
    ∀ j r, ([none] : List (Option ElemTy))[j]? = some r → leValue imaged (2 ^ 56 + 8) 8 / 16 ^ j % 16 = stateCode r := by
  refine ⟨by unfold QueueFree; decide, ⟨rfl, rfl, rfl⟩, by decide, by decide, ?_, by decide, own_range _ _ _ _ _ (by decide),
    by decide, by decide, by decide, fun j r h => ?_⟩
  · intro r hr t ht
    rw [List.mem_singleton.mp hr] at ht; cases ht
  · cases j with
    | zero => cases h; decide
    | succ j => cases h

/-- Hart 0 sends its block to core 1 of its own press, slot 0 of plane 0, whose window is open or not. -/
def sending (win : BitVec 4) : State :=
  let s := attached.setMe { attached.me with wait := .tile 0x40 1 0 0 false }
  s.setCore 1 { s.core 1 with blocks := [1], win0 := win }

theorem witness_MatrixData_tile :
    (HoldsRange attached 0 0 ∧ (∀ o ∈ rangeOf attached 1 0 0, o.res = none ∧ o.shift = 0 ∧ CleanBlock o) ∧
      Z (attached.x 6) < 2 ^ 11 ∧ Z (attached.x 6) % 64 < 32 ∧
      (attached.press (dieOfCore attached.myCoreId * 32 + Z (attached.x 6) % 64)).enabled = true ∧
      attached.myCtx.cfg.presses.contains (dieOfCore attached.myCoreId * 32 + Z (attached.x 6) % 64) = true) ∧
    (∀ w ∈ [0, 1], ((sending w).hart 0).wait = .tile 0x40 1 0 0 false ∧ ((sending w).hart 0).csr.halt = false ∧
      HoldsRange ((sending w).actAs 0) 0 0 ∧ (0x40 : Word64).toNat % 64 < 32 ∧ ((sending w).hart 0).flit = false) ∧
    (((sending 1).core 1).window 0).getLsbD 0 = true ∧ 0 < ((sending 1).core 1).blocks.length ∧
    ((sending 1).core 1).blocks.Nodup ∧ ((sending 1).press 0).resident = some ((sending 1).actAs 0).myCtxId ∧
    (let s := (sending 1).setHart 0 { (sending 1).hart 0 with flit := true }; (s.hart 0).flit = true) ∧
    (fget Block.zero ((sending 1).press 0).blocks 1).res = none ∧
    (fget Block.zero ((sending 1).press 0).blocks 1).shift = (blkOf ((sending 1).actAs 0) 1 0).shift ∧
    (blkOf ((sending 1).actAs 0) 1 0).res = none ∧
    cellAt (fget Block.zero ((sending 1).press 0).blocks 1) 0 = .fin 0 ∧
    (((sending 0).core 1).window 0).getLsbD 0 = false := by unfold HoldsRange CleanBlock; decide

/-! Worklists. -/

/-- A record's first doubleword: priority 0x01FF, frame 0x20000040. -/
abbrev rec0 : Word64 := 0x01FF000020000040

/-- A frame with nothing to restore, its PC at the code. -/
def frame0 : Frame := { pc := code, sp := 0, xmask := 0, regs := [] }

theorem record_ok (d0 d1 : Word64) (h : Z d1 < 2 ^ 12 ∧ Z (frameIn d0) % 64 = 0 ∧ 0x100000 ≤ Z (frameIn d0) ∧
    Z (frameIn d0) < 0x7F0000000000) : RecordOk d0 d1 :=
  ⟨h.1, h.2.1, .inl ⟨h.2.2.1, by have := h.2.2.2; omega⟩⟩

/-- The page at 0x20000000 readable and writable, at 0x80010000; an empty page table. -/
def framed : State :=
  let s := base.setCtx 0 { base.ctx 0 with cfg := { (base.ctx 0).cfg with tbase := 0x80000000 } }
  { s with tlb := s.tlb ++ [({ ctx := 0, va := 0x20000000, size := 65536, leaf := 0x8001000F } : TlbEntry)] }

/-- The record in bin 1 of the die. -/
def binned : State := framed.setCtx 0 { framed.ctx 0 with bins := [(1, { Bin.empty with chip := [record rec0 0 0] })] }

/-- The task's frame holds RESUME and names x5 and x8 in XMASK. -/
def resumed : State := (binned.setBytes 0x80010048 [0x10, 0, 0, 0x10]).setBytes 0x80010050 [0x20, 1]

/-- A bin 1 with a record in its ring, with or without an area to spill to. -/
def spilling (area : Word64) : State :=
  framed.setCtx 0 { framed.ctx 0 with
    spill := area, spilllog := 4, bins := [(1, { Bin.empty with ring := [(5, record rec0 0 0)], tail := 6 })] }

/-- The hart running that task, with or without its commit window. -/
def tasked (w : Option (Nat × Nat)) : State :=
  framed.setMe { framed.me with task := some { record := record rec0 0 0, xmask := 0, committed := false }, window := w }

/-- A batch with the record from die 1 on its way to die 0. -/
def batch (moves : List (BitVec 48 × BitVec 16)) : Batch := { src := 1, dst := 0, bin := 1, recs := [record rec0 0 0], moves := moves }
def arriving (moves : List (BitVec 48 × BitVec 16)) : State :=
  framed.setCtx 0 { framed.ctx 0 with cfg := { (framed.ctx 0).cfg with presses := [0, 32] }, flight := [batch moves] }

theorem witness_WorklistPush :
    2 ^ 12 ≤ Z (2 ^ 12) ∧ (Z (0 : Word64) < 2 ^ 12 ∧ ¬ RecordOk 0x0000800000000000 0 ∧ ¬ RecordOk 0x20000020 0) ∧
    (RecordOk rec0 0xFFF ∧ (myBin base (binIn rec0)).ring = [] ∧ (myBin base (binIn rec0)).chip.length < 1024 ∧
      base.storeFree base.myCtxId (myDie base) ≠ 0) ∧
    ((myBin (spilling 0x20000000) (binIn rec0)).ring ≠ [] ∧ (spilling 0x20000000).myCtx.spill ≠ 0 ∧
      (myBin (spilling 0x20000000) (binIn rec0)).ring.length < 2 ^ (spilling 0x20000000).myCtx.spilllog) ∧
    (myBin (spilling 0) (binIn rec0)).ring ≠ [] ∧ (spilling 0).myCtx.spill = 0 := by
  refine ⟨by decide, ⟨by decide, ?_, ?_⟩, ⟨record_ok _ _ (by decide), by decide, by decide, by decide⟩, by decide, by decide,
    by decide⟩ <;> (unfold RecordOk; decide)

/-- The core worn to Drained. -/
def drained : State := { binned with wear := [(0, { binned.wearOf 0 with life := .drained })] }

theorem witness_Selection :
    Drained drained 0 ∧ binned.pick 0 = some (record rec0 0 0) ∧
    (¬ Drained base (0 / 8) ∧ base.pick 0 = none) := by
  refine ⟨.inl (by decide), by decide, ?_, by decide⟩
  unfold Drained; decide

theorem frame_word (s : State) (core ctx : Nat) (va v : Word64) (key : Nat) (h : s.resolve core ctx (2 ^ 20) va.toNat .load = .ok key)
    (hp : s.poisonedAt key 8 = none) (hv : v = ofZ (leValue s key 8)) : FrameWord s core ctx va v := ⟨key, h, hp, hv⟩

theorem witness_FrameAtEntry :
    (binned.hub.debugUnlocked = false ∧ binned.flaws = []) ∧
    (FrameWord binned 0 0 0x20000040 0 ∧ FrameWord binned 0 0 (0x20000040 + 8) 0 ∧ FrameWord binned 0 0 (0x20000040 + 16) 0 ∧
      FrameWord binned 0 0 (0x20000040 + 32) 0 ∧ Z (0 : Word64) % 2 ^ 48 = 0) ∧
    (FrameWord resumed 0 0 0x20000040 0 ∧ FrameWord resumed 0 0 (0x20000040 + 8) 0x10000010 ∧
      FrameWord resumed 0 0 (0x20000040 + 16) 0x120 ∧ FrameWord resumed 0 0 (0x20000040 + 32) 0 ∧
      savedNames 0x120 = [5, 8] ∧ FrameWord resumed 0 0 (0x20000040 + 64 + ofZ (8 * 5)) 0 ∧
      FrameWord resumed 0 0 (0x20000040 + 64 + ofZ (8 * 8)) 0) ∧
    ∃ va ∈ [(0x30000040 : Word64), 0x30000040 + 8, 0x30000040 + 16, 0x30000040 + 32], ¬ ∃ v, FrameWord framed 0 0 va v := by
  refine ⟨by decide, ⟨frame_word _ _ _ _ _ 0x80010040 (by decide) (by decide) (by decide),
    frame_word _ _ _ _ _ 0x80010048 (by decide) (by decide) (by decide),
    frame_word _ _ _ _ _ 0x80010050 (by decide) (by decide) (by decide),
    frame_word _ _ _ _ _ 0x80010060 (by decide) (by decide) (by decide), by decide⟩,
    ⟨frame_word _ _ _ _ _ 0x80010040 (by decide) (by decide) (by decide),
    frame_word _ _ _ _ _ 0x80010048 (by decide) (by decide) (by decide),
    frame_word _ _ _ _ _ 0x80010050 (by decide) (by decide) (by decide),
    frame_word _ _ _ _ _ 0x80010060 (by decide) (by decide) (by decide), by decide,
    frame_word _ _ _ _ _ 0x800100A8 (by decide) (by decide) (by decide),
    frame_word _ _ _ _ _ 0x800100C0 (by decide) (by decide) (by decide)⟩, _, List.mem_cons_self, ?_⟩
  rintro ⟨v, key, h, -⟩
  have e : framed.resolve 0 0 (2 ^ 20) (0x30000040 : Word64).toNat .load = .error { order := 1, cause := 4 } := rfl
  rw [e] at h; cases h

theorem witness_WorklistPop :
    (tasked none).me.task.isSome = true ∧
    (base.me.task = none ∧ base.pick base.cur = none ∧ base.x 6 = 0 ∧ (base.setX 6 1).x 6 ≠ 0) ∧
    (binned.me.task = none ∧ binned.pick binned.cur = some (record rec0 0 0) ∧ ∃ w f,
      (binned.takeRec binned.myCtxId (myDie binned) (record rec0 0 0)).frameOf binned.myCoreId binned.myCtxId (record rec0 0 0).frame =
        (w, some f)) ∧
    (let s := binned.setHart 0 { binned.me with wait := .wpop 5 7, waited := 7 };
      (s.hart 0).wait = .wpop 5 7 ∧ (s.hart 0).csr.halt = false ∧ s.pick 0 = some (record rec0 0 0)) ∧
    (let s := base.setHart 0 { base.me with wait := .wpop 5 7, waited := 7 };
      (s.hart 0).wait = .wpop 5 7 ∧ (s.hart 0).csr.halt = false ∧ s.pick 0 = none ∧ (7 : Word64).toNat ≤ (s.hart 0).waited) :=
  ⟨by decide, by decide, ⟨by decide, by decide, _, _, rfl⟩, by decide, by decide⟩

theorem witness_WorklistPriority :
    2 ^ 16 ≤ Z (2 ^ 16) ∧
    (base.myCtx.bins = [] ∧ base.myCtx.flight = []) ∧
    ((arriving []).myCtx.bins = [] ∧ ∃ w ∈ (arriving []).myCtx.flight, ∃ r ∈ w.recs, (Z r.d0 % 2 ^ 48 == Z rec0 % 2 ^ 48) = true) ∧
    (let s := binned;
      (0 * 256 + 1, s.bin s.myCtxId 0 1) ∈ s.myCtx.bins ∧ record rec0 0 0 ∈ (s.bin s.myCtxId 0 1).chip ∧
        binIn (record rec0 0 0).d0 = 1 ∧ (s.myCtx.bins.flatMap fun e => (e.2.chip ++ e.2.ring.map Prod.snd).filter
          fun r => Z r.d0 % 2 ^ 48 == Z rec0 % 2 ^ 48) = [record rec0 0 0] ∧
        binIn (withPriority (record rec0 0 0) 0x0300).d0 = 3 ∧ (s.bin s.myCtxId 0 3).ring = [] ∧
        (s.bin s.myCtxId 0 3).chip.length < 1024 ∧ s.storeFree s.myCtxId 0 ≠ 0 ∧ s.myCtx.spill = 0) ∧
    (let s := binned.setCtx 0 { binned.ctx 0 with
        bins := (binned.ctx 0).bins ++ [(3, { Bin.empty with ring := [(0, record 0x0300000020000080 0 1)] })] };
      (s.bin s.myCtxId 0 3).ring ≠ [] ∧ s.myCtx.spill = 0) := by
  refine ⟨by decide, by decide, ⟨by decide, batch [], by decide, record rec0 0 0, by decide, by decide⟩, by decide, by decide⟩

theorem witness_WorklistTermination :
    (let s := base.setCtx 0 { base.ctx 0 with terminated := true }; s.myCtx.terminated = true ∧ s.me.task = none ∧
      base.myCtx.terminated = false ∧ base.x 6 = 0 ∧ (base.setX 6 1).x 6 ≠ 0) ∧
    (let s := (base.setCtx 0 { base.ctx 0 with terminated := true }).setMe { base.me with wait := .wterm 5 7, waited := 7 };
      (s.hart 0).wait = .wterm 5 7 ∧ (s.hart 0).csr.halt = false ∧ (s.actAs 0).myCtx.terminated = true ∧ (s.hart 0).task = none ∧
        (7 : Word64).toNat ≤ (s.hart 0).waited) := by decide

/-- A hart whose engine has a command under way. -/
def busy (s : State) : State := s.setCore 0 { s.core 0 with eng0 := { Engine.reset with running := [started copying] } }

theorem witness_TaskEnds :
    2 ^ 18 ≤ Z (2 ^ 18) ∧ (base.me.task = none ∧ Z (base.x 6) < 2 ^ 18 ∧ base.engineBusy base.cur = false) ∧
    ((busy base).me.task = none ∧ (busy base).engineBusy (busy base).cur = true) ∧
    (∃ k u, (tasked none).me.task = some k ∧ (tasked none).frameStores (yieldStores (tasked none) k) = .ok u ∧
      (tasked none).engineBusy (tasked none).cur = false ∧ ((tasked none).x 6).getLsbD 17 = false ∧
      (((tasked none).setX 6 0x20000).x 6).getLsbD 17 = true) ∧
    (tasked (some (0, 0))).me.window.isSome = true ∧
    ((tasked none).me.window = none ∧ (tasked none).hub.debugUnlocked = false ∧
      (tasked none).rangeFailMe (Z ((record rec0 0 0).frame + 24)) 8 .store = none ∧
      (tasked none).segmentsMe (Z ((record rec0 0 0).frame + 24)) 8 .store = [(0x80010058, 8)]) ∧
    (∃ k u, let s := busy (tasked none);
      s.me.task = some k ∧ s.frameStores (yieldStores s k) = .ok u ∧ s.engineBusy s.cur = true ∧
        s.rangeFailMe (Z ((record rec0 0 0).frame + 24)) 8 .store = none ∧
        s.segmentsMe (Z ((record rec0 0 0).frame + 24)) 8 .store = [(0x80010058, 8)]) :=
  ⟨by decide, by decide, by decide, ⟨_, _, rfl, rfl, by decide, by decide, by decide⟩, by decide, by decide, _, _, rfl, rfl, by decide⟩

theorem witness_BinService :
    (base.hub.debugUnlocked = false ∧ base.flaws = []) ∧
    ((spilling 0x20000000).hub.debugUnlocked = false ∧ (spilling 0x20000000).flaws = [] ∧
      inWindow ((0x20000000 + (1 * 2 ^ 4 + 5) * 16) % 2 ^ 48) = false ∧ decide (((spilling 0x20000000).ctx 0).st = .resident) = true) ∧
    (let s := spilling 0x7F0010000000; let va := 0x7F0010000000 + (1 * 2 ^ 4 + 5) * 16
      (s.bin 0 0 1).ring = [(5, record rec0 0 0)] ∧ inWindow (va % 2 ^ 48) = true ∧
        s.resolve (0 * 128) 0 (2 ^ 20) (va % 2 ^ 64) .load = .ok (2 ^ 56 + (1 * 2 ^ 4 + 5) * 16) ∧
        s.poisonedAt (2 ^ 56 + (1 * 2 ^ 4 + 5) * 16) 16 = none) ∧
    ((spilling 0x20000000).bin 0 0 1).ring = [(5, record rec0 0 0)] ∧ ((spilling 0x20000000).bin 0 0 1).chip.length < 1024 ∧
    (spilling 0x20000000).storeFree 0 0 ≠ 0 ∧
    (spilling 0x20000000).translate 0 ((0x20000000 + (1 * 2 ^ 4 + 5) * 16) % 2 ^ 48) .load true = .ok 0x80010150 ∧
    (spilling 0x20000000).poisonedAt 0x80010150 16 = none ∧
    (spilling 0x30000000).translate 0 ((0x30000000 + (1 * 2 ^ 4 + 5) * 16) % 2 ^ 48) .load true = .error { order := 1, cause := 4 } ∧
    ((base.setMe { base.me with parked := 257 }).hart 0).parked = 257 :=
  ⟨by decide, by decide, ⟨by decide, by decide, rfl, by decide⟩, by decide, by decide, by decide, by decide, by decide, rfl, by decide⟩

/-- Hart 0 waits at `wpop` in a context of two dies, with a record on the other die. -/
def racking : State :=
  let s := base.setMe { base.me with wait := .wpop 5 7 }
  s.setCtx 0 { s.ctx 0 with
    cfg := { (s.ctx 0).cfg with presses := [0, 32] }, bins := [(257, { Bin.empty with chip := [record rec0 0x400 0] })] }

/-- A context that spans two devices: hart 0 waits at `wpop`, with or without a record here. -/
def spanning (chip : List Rec) : State :=
  let s := (base.setVf 0 { base.vf 0 with remote := [(1, 0)] }).setMe { base.me with wait := .wpop 5 7 }
  s.setCtx 0 { s.ctx 0 with bins := [(1, { Bin.empty with chip := chip })] }

theorem witness_Racking :
    (racking.wpopWaits 0 0 = true ∧ racking.hasEligible 0 0 = false ∧ racking.roomFor 0 0 ≠ 0 ∧
      (∀ w ∈ (racking.ctx 0).flight, w.dst ≠ 0) ∧
      ((racking.ctx 0).dies.find? fun d => d != 0 && !(racking.movable 0 d fun _ => true).isEmpty) = some 1) ∧
    (((arriving []).ctx 0).st = .resident ∧ ((arriving []).ctx 0).flight = [batch []] ∧ (batch []).dst = 0 ∧
      ((arriving []).bin 0 0 (binIn rec0)).ring = [] ∧ (arriving []).storeFree 0 0 ≠ 0) ∧
    ((batch [(BitVec.ofNat 48 (Z rec0), 0x0300)]).moves = [(BitVec.ofNat 48 (Z (record rec0 0 0).d0), 0x0300)] ∧
      ((arriving [(BitVec.ofNat 48 (Z rec0), 0x0300)]).bin 0 0 (binIn (withPriority (record rec0 0 0) 0x0300).d0)).ring = []) ∧
    (base.ctx 1).st ≠ .resident ∧
    (((spanning []).ctx 0).st = .resident ∧ (((spanning []).vf (0 / 4)).remote.map Prod.fst).eraseDups ≠ [] ∧
      (∃ d ∈ ((spanning []).ctx 0).dies, (spanning []).wpopWaits 0 d = true) ∧
      ∀ d ∈ ((spanning []).ctx 0).dies, (spanning []).hasEligible 0 d = false) ∧
    (let s := spanning [record rec0 0x400 0];
      (s.ctx 0).st = .resident ∧ ((s.ctx 0).dies.find? fun d => !(s.movable 0 d Rec.xdev).isEmpty) = some 0) ∧
    (let s := (spanning []).setCtx 0 { (spanning []).ctx 0 with asked := 1 };
      (s.ctx 0).asked ≠ 0 ∧ ((s.ctx 0).dies.find? fun d => s.wpopWaits 0 d) = some 0 ∧ (0x400 : Word64).getLsbD 10 = true ∧
        (s.bin 0 0 (binIn rec0)).ring = [] ∧ s.storeFree 0 0 ≠ 0) := by
  refine ⟨by decide, by decide, by decide, by decide, by decide, by decide, by decide⟩

theorem witness_Preemption :
    (∃ k, ((tasked none).hart 0).task = some k ∧ (tasked none).canPreempt 0 = true ∧ (tasked none).engineBusy 0 = false ∧
      (busy (tasked none)).canPreempt 0 = true ∧ (busy (tasked none)).engineBusy 0 = true) ∧
    (∃ k, let s := (tasked none).setMe { (tasked none).me with handler := true }; (s.hart 0).task = some k ∧ s.canPreempt 0 = false) ∧
    ∃ k, let s := tasked (some (36000, 0));
      (s.hart 0).task = some k ∧ (s.hart 0).window = some (36000, 0) ∧ (s.hart 0).sup = none ∧ (s.actAs 0).myCtx.cwin = 0 ∧
        20 * 1800 ≤ 36000 :=
  ⟨⟨_, rfl, by decide⟩, ⟨_, rfl, by decide⟩, _, rfl, by decide⟩

/-- A context whose one hart waits at `wpop`, with nothing queued; its VF has memory on the devices of `remote`. -/
def quiet (remote : List (Nat × Nat)) (f : Ctx → Ctx) : State :=
  let s := (base.setVf 0 { base.vf 0 with remote := remote }).setMe { base.me with wait := .wpop 5 7 }
  s.setCtx 0 (f (s.ctx 0))

theorem witness_Termination :
    (let s := quiet [] fun c => { c with waveClean := true };
      (s.ctx 0).st = .resident ∧ (s.ctx 0).dies ≠ [] ∧ (∀ d ∈ (s.ctx 0).dies, s.dieIdle 0 d = true) ∧ (s.ctx 0).pushed = false ∧
        (s.ctx 0).waveClean = true ∧ (s.vf 0).remote = [] ∧
        (s.ctx 0).waveTotals = (((s.ctx 0).sent.map Prod.snd).sum, ((s.ctx 0).received.map Prod.snd).sum)) ∧
    (let s := quiet [] id; (∀ d ∈ (s.ctx 0).dies, s.dieIdle 0 d = true) ∧ (s.ctx 0).pushed = false ∧ (s.ctx 0).waveClean = false) ∧
    (let s := quiet [(1, 0)] fun c => { c with alone := true, peer := some (true, 3, 3), xwave := some (3, 3) };
      (∀ d ∈ (s.ctx 0).dies, s.dieIdle 0 d = true) ∧ (s.ctx 0).pushed = false ∧ (s.vf 0).remote ≠ [] ∧ (s.ctx 0).alone = true ∧
        (s.ctx 0).peer = some (true, 3, 3) ∧ (s.ctx 0).xsent + 3 = (s.ctx 0).xreceived + 3) ∧
    ((binned.ctx 0).st = .resident ∧ binned.dieIdle 0 ((binned.ctx 0).dies.headD 0) = false) ∧
    (let s := (base.setCtx 0 { base.ctx 0 with terminated := true }).setMe { base.me with life := .ended };
      (s.ctx 0).st = .resident ∧ (s.ctx 0).terminated = true ∧ ∀ k ∈ (s.ctx 0).hartList, (s.hart k).life ≠ .running) := by
  refine ⟨by decide, by decide, by decide, by decide, by decide⟩

/-! The host. -/

/-- Sessions of VF 0 and of the host secured, VF 0 in RUN. -/
def hosted : State :=
  let s := withSession (withSession base 0 { SpdmSession.reset with secured := true }) 16 { SpdmSession.reset with secured := true }
  s.setVf 0 { s.vf 0 with tdisp := .run }

def hdrVf : GyskoHdr := { tag := 7, vf := 0, mgmt := false, len := 8, zero := 0, session := .vf 0 }
def hdrMgmt (v : Nat) : GyskoHdr := { tag := 7, vf := v, mgmt := true, len := 4096, zero := 0, session := .mgmt }

theorem from_vf (s : State) (h : GyskoHdr) (e : h.session = .vf h.vf ∧ (s.session h.vf).secured = true ∧ h.mgmt = false ∧ h.vf < 16 ∧
    h.zero = 0 ∧ s.hub.power = .run ∧ (s.vf h.vf).tdisp = .run ∧ (s.vf h.vf).resetting = false) : FromVf s h := e

theorem from_mgmt (s : State) (h : GyskoHdr) (e : h.session = .mgmt ∧ (s.session 16).secured = true ∧ h.mgmt = true ∧ h.vf < 16 ∧
    h.zero = 0 ∧ (s.hub.power = .standby ∨ s.hub.power = .run)) : FromMgmt s h := e

theorem none_before (s : State) (h : GyskoHdr) (ctx : Nat) (e : s.hub.data = []) : NoneBefore s h ctx := by
  intro d hd; rw [e] at hd; cases hd

/-- A context of VF 0 ready for a launch, its kernel record of one row and five x registers at the code. -/
def launchable : State :=
  let s := (hosted.setPress 0 { Press.reset with vf := some 0 }).setCtx 0 { Ctx.reset with
    st := .idle, cfg := { CtxCfg.zero with presses := [0] } }
  s.setBytes 0x80000000 [0, 0x80, 0, 0, 0, 5, 0x5A, 0xCD]

def launching : LaunchReq :=
  { ctx := 0, krec := code, globals := 9, hartmask := 1, spill := 0, spilllog := 4, cwin := 0, bound := 255, recs := [(rec0, 0)] }

def launchHeader : KHeader :=
  { xregs := 5, vregs := 0, preds := 1, queues := 0, rows := 1, barc := 0, barp := 0, bard := 0, spad := 0 }

def goodCfg : CtxCfg := { CtxCfg.zero with presses := [0], tbase := 0x80000000, savebase := 0x80000000 }

theorem witness_ContextCommands :
    KernelRight hosted hdrVf ∧ KernelRight hosted (hdrMgmt 1) ∧ NoneBefore hosted hdrVf 0 ∧ NoneBefore hosted (hdrMgmt 1) 7 ∧
      NoneBefore launchable hdrVf 0 ∧ (0 < 64 ∧ 0 / 4 = hdrVf.vf ∧ 7 / 4 = (hdrMgmt 1).vf) ∧
    (hosted.cfgOk 0 goodCfg = true ∧ (hosted.ctx 1).st = .free ∧ (hosted.ctx 0).st = .resident ∧ (launchable.ctx 0).st = .idle) ∧
    (let s := (hosted.setCtx 1 { Ctx.reset with st := .saved, cfg := { CtxCfg.zero with presses := [0] } });
      (s.ctx 0).st = .resident ∧ s.hasRival 0 = true) ∧
    (Z (0 : Word64) ≤ Z (2 ^ 47 - 1 : Word64) ∧ Z (2 ^ 47 - 1 : Word64) < 2 ^ 47 ∧ (hosted.ctx 0).st ≠ .free) ∧
    ∃ u, launching.ctx = 0 ∧ launchFieldsOk launching = true ∧ (launchable.ctx 0).st = .idle ∧
      (launchable.ctx 0).terminated = true ∧ (launchable.ctx 0).missing = false ∧
      (∀ p ∈ (launchable.ctx 0).cfg.presses, (launchable.press p).enabled = true ∧ (launchable.press p).vf = some hdrVf.vf ∧
        (launchable.press p).resident = none ∧ ¬ Due launchable p) ∧
      inWindow launching.krec.toNat = false ∧ launchable.translate 0 (launching.krec.toNat % 2 ^ 48) .load false = .ok 0x80000000 ∧
      launchable.flaws = [] ∧ launchable.poisonedAt 0x80000000 32 = none ∧
      headerOf (leValue launchable 0x80000000 8) (leValue launchable 0x80000008 8) (leValue launchable 0x80000010 8)
        (leValue launchable 0x80000018 8) = some launchHeader ∧ launchable.acceptLaunch hdrVf launching launchHeader = some u := by
  have ⟨u, hu⟩ := Option.isSome_iff_exists.mp
    (show (launchable.acceptLaunch hdrVf launching launchHeader).isSome = true by decide +kernel)
  refine ⟨.inl (from_vf _ _ (by decide)), .inr ⟨from_mgmt _ _ (by decide), by decide⟩, none_before _ _ _ (by decide),
    none_before _ _ _ (by decide), none_before _ _ _ (by decide), by decide, by decide +kernel, by decide, by decide,
    u, by decide, by decide, by decide, by decide, by decide, by unfold Due; decide, by decide, by decide, by decide, by decide,
    by decide +kernel, hu⟩

/-- A page for reading and writing at 0x20000000. -/
def writable : State :=
  { launchable with tlb := [({ ctx := 0, va := 0x20000000, size := 65536, leaf := 0x8001000F } : TlbEntry)] }

/-- A WRITE of two bytes into two sectors under way. -/
def underway : State :=
  { writable with hub := { writable.hub with data :=
    [{ hdr := hdrVf, op := 0x0010, ctx := 0, todo := [(0x2000003F, [1]), (0x20000040, [2])], got := [] }] } }

theorem witness_DataCommands :
    (KernelRight writable hdrVf ∧ NoneBefore writable hdrVf 0 ∧ 0 < 64 ∧ 0 / 4 = hdrVf.vf) ∧
    (KernelRight underway hdrVf ∧ ∃ d, underway.hub.data = [d] ∧ d.op = 0x0010 ∧ d.hdr.session = hdrVf.session ∧ d.ctx = 0 ∧
      d.todo ≠ []) ∧ FromVf writable hdrVf ∧
    ((writable.ctx 0).st ≠ .free ∧ 8 ≤ hdrVf.len.toNat ∧ hdrVf.len.toNat < 9 ∧ 2 ^ 24 ≤ 2 ^ 24) ∧
    (writable.hostSegs 0 0x2000FFF8 8 true = .ok [(0x8001FFF8, 8)] ∧ (segKeys [(0x8001FFF8, 8)]).Nodup) ∧
    (writable.hostSegs 0 0x20000000 8 false = .ok [(0x80010000, 8)] ∧ writable.flaws = [] ∧
      writable.poisonedSegs [(0x80010000, 8)] 0 = none) ∧
    writable.hostSegs 0 0x7F0000000000 8 true = .error 0x7F0000000000 ∧
    (let s := writable.setPress 0 { writable.press 0 with cellarCtx := some 0 };
      (s.ctx 0).st = .idle ∧ (s.ctx 0).cfg.presses[0]? = some 0 ∧ 20971512 + 8 ≤ 20971520 ∧ (s.ctx 0).cfg.cellarimg = 0 ∧
        (s.press 0).resident = none ∧ (s.press 0).cellarCtx = some 0) ∧
    (65528 % 8 = 0 ∧ 65528 + 8 ≤ 65536 ∧ writable.poisonedAt (2 ^ 58 + 0 * 2 ^ 16 + 65528) 8 = none) :=
  ⟨⟨.inl (from_vf _ _ (by decide)), none_before _ _ _ (by decide), by decide⟩,
    ⟨.inl (from_vf _ _ (by decide)), _, rfl, by decide⟩, from_vf _ _ (by decide), by decide, by decide, by decide, by decide, by decide,
    by decide⟩

/-- The device in standby with nothing assigned, the host's session secured. -/
def idle : State := withSession State.reset 16 { SpdmSession.reset with secured := true }

theorem witness_ManagementCommands :
    (gyskoOf (.spdm { hdrVf with session := .none } []) = some ({ hdrVf with session := .none }, 0x0030)) ∧
    ((hosted.vf 0).resetting = false ∧ gyskoOf (.summary hdrVf) = some (hdrVf, 0x0020) ∧ Answering hosted ∧ ({ hdrVf with zero := 1 } : GyskoHdr).zero ≠ 0 ∧
      16 ≤ ({ hdrVf with vf := 16 } : GyskoHdr).vf) ∧
    (FromMgmt underway (hdrMgmt 0) ∧ ∃ d e, d ∈ underway.hub.data ∧ d.hdr.vf = (hdrMgmt 0).vf ∧ e ∈ d.todo ∧
      ∀ x ∈ d.todo, sectorAt underway d e.1 ≤ sectorAt underway d x.1) ∧
    FromMgmt idle (hdrMgmt 15) ∧ ((idle.vf 15).tdisp = .unlocked ∧ (idle.vf 15).resetting = false) ∧ FromVf hosted hdrVf ∧
    (127 < 128 ∧ ((hosted.setPress 127 { Press.reset with vf := some 1 }).press 127).vf = some 1) ∧
    ((∀ v, v < 16 → (idle.vf v).tdisp = .unlocked ∨ (idle.vf v).tdisp = .error) ∧
      (∀ p ∈ [0, 127], p < 128 ∧ (idle.press p).enabled = true) ∧ [0, 127].Nodup ∧
      (∀ r ∈ [511, 4096, 8191], idle.memExists (r * 2 ^ 30) = true) ∧ [511, 4096, 8191].Nodup ∧
      ∀ p, p < 128 → (idle.press p).resident = none) ∧
    (600 ≤ 600 ∧ 600 ≤ 1800 ∧ 599 < 600 ∧ 1800 < 1801) ∧
    ((List.replicate 64 (0 : Byte)).length = 64 ∧ (List.replicate 2820 (0 : Byte)).length = 2820 ∧
      2908 + [(0 : Byte)].length ≤ (hdrMgmt 0).len.toNat) ∧
    ((State.reset.hub.power ≠ .off) ∧ ({ State.reset with hub := { Hub.reset with power := .off } }).hub.power = .off ∧
      ({ State.reset with hub := { Hub.reset with power := .reset } }).hub.power = .reset) := by
  refine ⟨rfl, ⟨by decide, rfl, .inr (by decide), by decide, by decide⟩,
    ⟨from_mgmt _ _ (by decide), _, (0x2000003F, [1]), List.mem_cons_self, by decide, List.mem_cons_self, by decide⟩,
    from_mgmt _ _ (by decide), by decide, from_vf _ _ (by decide),
    by decide, by decide, by decide, ⟨by decide, List.length_replicate, by decide⟩, by decide⟩

/-- A session in a given state of its setup. -/
def inSession (k : SpdmSession) : State := withSession State.reset 3 k

/-- A request in that session. -/
def request : SpdmReq := { ses := 3, tag := 7 }

theorem witness_SessionMessages :
    spdmOf (.getVersion request) = some request ∧ (2 ^ 20 - 4096 ≤
      ({ State.reset with hub := { Hub.reset with xmss := 2 ^ 20 - 4097 } } : State).hub.xmss + 1 ∧
      State.reset.hub.xmssWarned = false) ∧
    Answering State.reset ∧ (request.ses < 16 → (State.reset.vf request.ses).resetting = false) ∧
    (let s := State.reset.setVf 3 { State.reset.vf 3 with resetting := true }; Answering s ∧ (s.vf request.ses).resetting = true) ∧
    ((inSession SpdmSession.reset).session 3).versioned = false ∧
    ((inSession { SpdmSession.reset with versioned := true }).session 3).versioned = true ∧
    ((inSession { SpdmSession.reset with capable := true }).session 3).capable = true ∧
    (((inSession { SpdmSession.reset with negotiated := true }).session 3).negotiated = true ∧ State.reset.hub.xmss < 2 ^ 20 ∧
      (8 ≤ 8 ∨ 8 = 255)) ∧
    2 ^ 20 ≤ ({ State.reset with hub := { Hub.reset with xmss := 2 ^ 20 } }).hub.xmss ∧
    ((inSession { SpdmSession.reset with exchanged := some 5 }).session 3).exchanged = some 5 ∧
    ((inSession SpdmSession.reset).session 3).exchanged = none ∧
    ((inSession { SpdmSession.reset with secured := true }).session 3).secured = true ∧
    (true && true && true && false) = false :=
  ⟨rfl, by decide, .inl (by decide), by decide, ⟨.inl (by decide), by decide⟩, by decide, by decide, by decide, by decide, by decide,
    by decide, by decide, by decide, by decide⟩

theorem witness_InterfaceStates :
    Answering hosted ∧ (hosted.session 16).secured = true ∧ (State.reset.session 3).secured = false ∧
    vendorForm (.lockInterfaceRequest request 1) = some (request, .lockInterface 1) ∧
    ((hosted.vf 1).tdisp = .unlocked ∧ (hosted.vf 0).tdisp ≠ .unlocked ∧ (hosted.vf 0).tdisp ≠ .locked) ∧
    (let s := hosted.setVf 0 { hosted.vf 0 with tdisp := .locked, nonce := 9 }; (s.vf 0).tdisp = .locked ∧ 8 ≠ (s.vf 0).nonce) ∧
    (let s := withSession State.reset 1 { SpdmSession.reset with secured := true, keyGen := 1 };
      (s.session 1).secured = true ∧ (s.session 1).keyGen ≠ 0 ∧ (s.vf 1).tdisp = .unlocked ∧ (hosted.session 16).keyGen = 0) ∧
    (let s := hosted.setVf 0 { hosted.vf 0 with resetting := true };
      Answering s ∧ (s.session 16).secured = true ∧ (s.vf 0).resetting = true ∧
        ForVf { ses := 16, tag := 7 } 0 (.stopInterfaceRequest { ses := 16, tag := 7 } 0)) ∧
    (let s := withSession State.reset 1 { SpdmSession.reset with secured := true };
      (s.session 1).secured = true ∧ (s.session 1).keyGen = 0 ∧ (s.vf 1).tdisp = .unlocked) :=
  ⟨.inr (by decide), by decide, by decide, rfl, by decide, by decide, by decide,
    ⟨.inr (by decide), by decide, by decide, .inr (.inr (.inr (.inr (.inr (.inr (.inl rfl))))))⟩, by decide⟩

theorem witness_ContextSwitches :
    ((base.setCtx 0 { base.ctx 0 with leaving := true }).canSwitchOut 0 = true ∧ base.canSwitchOut 0 = false) ∧
    (let s := (base.setPress 0 Press.reset).setCtx 0 { base.ctx 0 with st := .saved, savedOrder := 1 };
      (s.ctx 0).st = .saved ∧ (∀ p ∈ (s.ctx 0).cfg.presses, (s.press p).enabled = true ∧ (s.press p).resident = none ∧ ¬ Due s p) ∧
        ∀ k, k < 64 → (s.ctx k).st = .saved → (s.ctx k).savedOrder < (s.ctx 0).savedOrder → s.sharePress 0 k = false) ∧
    (let s := (base.setPress 0 { Press.reset with repair := true }).setCtx 0 { base.ctx 0 with st := .saved, savedOrder := 1 };
      (s.ctx 0).st = .saved ∧ 0 ∈ (s.ctx 0).cfg.presses ∧ Due s 0) ∧
    (let s := (base.setCtx 0 { base.ctx 0 with cfg := { (base.ctx 0).cfg with tslice := 1 }, slice := 1800000 }).setCtx 1
        { Ctx.reset with st := .saved, cfg := { CtxCfg.zero with presses := [0] } };
      (s.ctx 0).st = .resident ∧ (s.ctx 0).leaving = false ∧ (s.ctx 0).cfg.tslice ≠ 0 ∧
        (s.ctx 0).cfg.tslice * 1800000 ≤ (s.ctx 0).slice ∧ s.hasRival 0 = true) ∧
    (let s := paged [1, 0x10, 0, 0x80] [0x0F, 0, 0, 0x80];
      (s.press (pressOfCore 0)).resident = some 0 ∧ Z (8 : Word64) / 2 ^ 47 = 0 ∧ s.tlb = [] ∧
        s.flaws = [] ∧ s.walkFrom 0 (Z (8 : Word64) % 2 ^ 48) (fun _ => true) 4 1 (s.ctx 0).cfg.tbase = .ok (0x8000000F, 2 ^ 30)) := by
  unfold Due; decide

/-! Links, errors, power, wear, debug, resets. -/

theorem no_key (l : Link) (slot : Bool) (psn : Nat) (p : List Byte) (tag : Nat) (h : rxOf l slot = none) : ¬ Verified l slot psn p tag := by
  rintro ⟨k, x, e, -⟩
  rw [h] at e; cases e

theorem witness_LinksAndPorts :
    let l := { Link.reset with rx0 := some (1, 2) }
    (Verified l false 0 [] (Config.linkTag 1 2 0 false []).toNat ∧ (false, 0) ∉ l.seen ∧
      (false, 0) ∈ ({ l with seen := [(false, 0)] } : Link).seen) ∧
    (1 ∉ Link.reset.used ∧ 1 ∈ ({ Link.reset with used := [1] } : Link).used ∧ 2 ^ 256 + base.freeNo ∉ Link.reset.used) ∧
    (¬ Verified Link.reset false 0 [] 0 ∧ Link.reset.fails + 1 < 8 ∧ 8 ≤ ({ Link.reset with fails := 7 } : Link).fails + 1) ∧
    rxOf Link.reset Link.reset.active = none ∧
    ((rxOf l l.active).isSome = true ∧ rxOf l (!l.active) = none) ∧
    (let m := { l with active := true, newSeen := true, quiet := 7200 };
      rxOf m (!m.active) ≠ none ∧ m.newSeen = true ∧ 7200 ≤ m.quiet) ∧
    (Link.reset.newSeen = false ∧ 7199 < 7200) ∧
    (let m := { l with psn0 := 2 ^ 62 }; 2 ^ 62 ≤ psnOf m m.active ∧ rxOf m (!m.active) = none) ∧
    psnOf Link.reset Link.reset.active < 2 ^ 62 :=
  ⟨⟨⟨1, 2, rfl, rfl⟩, by decide⟩, by decide, ⟨no_key _ _ _ _ _ rfl, by decide⟩, by decide, by decide, by decide, by decide, by decide, by decide⟩

/-- Poison of `n` sectors from 0 up: one page of controller 0. -/
def spoiled (n : Nat) : State :=
  { base with
    poison := (List.range n).map fun i => (2 * i, true), recordOrder := (List.range n).reverse.map fun i => 2 * i }

theorem most_recorded (s : State) (c page : Nat) (h0 : 0 < (s.entries c).length) (h : ∀ k ∈ s.entries c, k / 65536 = page) :
    MostRecorded s c page := by
  have e : ((s.entries c).filter fun k => k / 65536 == page) = s.entries c := List.filter_eq_self.mpr (by simpa using h)
  have z : ∀ p, p ≠ page → ((s.entries c).filter fun k => k / 65536 == p) = [] := by
    intro p hp
    refine List.filter_eq_nil_iff.mpr fun k hk => ?_
    have := h k hk
    simp; omega
  refine ⟨by beta_reduce; rw [e]; exact h0, fun p => ?_⟩
  by_cases hp : p = page
  · subst hp; exact ⟨le_refl _, fun _ => le_refl _⟩
  · beta_reduce
    rw [z p hp, e]
    exact ⟨Nat.zero_le _, fun h => absurd h (by simp at h0 ⊢; omega)⟩

theorem witness_ErrorHandling_storage :
    (fget 0 base.flaws (poisonUnit 5) = 0 ∧
      fget 0 ({ base with flaws := [(poisonUnit 5, 1)] } : State).flaws (poisonUnit 5) = 1 ∧
      2 ≤ fget 0 ({ base with flaws := [(poisonUnit 5, 2)] } : State).flaws (poisonUnit 5)) ∧
    (8 ≤ 8 ∧ base.recent = [] ∧ 8 < 9) ∧ (base.recorded 0).length ≤ 512 := by decide

theorem witness_ErrorHandling_quarantine :
    512 < ((spoiled 513).recorded 0).length ∧ MostRecorded (spoiled 513) 0 0 ∧ ((spoiled 513).ctrl 0).sparesUsed < 32 ∧
    32 ≤ ((spoiled 513).setCtrl 0 { Ctrl.reset with sparesUsed := 32 } |>.ctrl 0).sparesUsed := by
  refine ⟨by decide +kernel, most_recorded _ _ _ (by decide +kernel) (by decide +kernel), by decide, by decide⟩

/-- Hart 0 stopped for a supervisor with a cause raised at an address. -/
def stoppedFor (cause : BitVec 6) (source : Word64) (s : State) : State :=
  s.setMe { s.me with
    sup := some { cause := cause, epc := 0, eval := 0, source := source, vri := 3, logSeq := none, emul := none } }

/-- The context's cellar has a clean copy in memory. -/
def imagedCellar : State :=
  stoppedFor 10 0x7F0100000000 (handled.setCtx 0 { handled.ctx 0 with cfg := { (handled.ctx 0).cfg with cellarimg := 0x80000000 } })

theorem witness_ErrorHandling_units :
    (let u := TestUnit.sramRow 5;
      (u ∈ ({ base with selfTests := [u] } : State).selfTests ∧ u ∉ base.selfTests ∧ base.tests = [] ∧ ∀ p, u ≠ .matrix p) ∧
        (∃ e ∈ ({ base with tests := [(u, 0, true)] } : State).tests, e.1 = u ∧ e.2.2 = true) ∧
        fget 0 base.rowSpares (bankOfRow 5) < 4) ∧
    base.unitBusy (.matrix 0) = false ∧
    (base.me.sup = none ∧ base.me.supNext = [] ∧ (∃ k, (stoppedFor 15 0 base).me.sup = some k ∧ k.cause = 15) ∧
      (stoppedFor 15 0 base).me.window = none) ∧
    (∃ k n, let s := stoppedFor 15 0 (base.setMe { base.me with supNext := [n] });
      s.me.sup = some k ∧ k.cause = 15 ∧ s.me.supNext = [n] ∧ s.me.window = none) ∧
    (∃ k, (stoppedFor 10 0 handled).me.sup = some k ∧ k.cause = 10 ∧ ((stoppedFor 10 0 handled).cleanCopy k.source).2 = none ∧
      (stoppedFor 10 0 handled).flaws = [] ∧ (stoppedFor 10 0 handled).me.csr.etvec ≠ 0 ∧
      (stoppedFor 10 0 handled).me.handler = false ∧ (stoppedFor 10 0 handled).me.supNext = []) ∧
    (∃ k, imagedCellar.me.sup = some k ∧ k.cause = 10 ∧ imagedCellar.flaws = [] ∧
      (imagedCellar.cleanCopy k.source).2 = some (0x80000000, 2 ^ 57) ∧ imagedCellar.poisonedAt 0x80000000 32 = none) ∧
    ∃ k, (stoppedFor 9 0 base).me.sup = some k ∧ k.cause.toNat ≠ 10 ∧ k.cause.toNat ≠ 14 ∧ k.cause.toNat ≠ 15 ∧
      (stoppedFor 9 0 base).myCtx.st = .resident ∧ 0 ∈ (stoppedFor 9 0 base).myCtx.hartList :=
  ⟨⟨⟨by decide, by decide, by decide, nofun⟩, by decide, by decide⟩, by decide, ⟨by decide, by decide, ⟨_, rfl, by decide⟩, by decide⟩,
    ⟨_, { cause := 10, epc := 0, eval := 0, source := 0, vri := 0, logSeq := none, emul := none }, rfl, by decide⟩,
    ⟨_, rfl, by decide⟩, ⟨_, rfl, by decide⟩, _, rfl, by decide⟩

theorem witness_DiePower :
    (({ Die.reset with power := .critical, criticalMs := 11 } : Die).power = .critical ∧ 10 < 11) ∧
    ((base.die 0).power ≠ .critical ∧ ({ Die.reset with power := .critical, criticalMs := 10 } : Die).criticalMs ≤ 10) ∧
    (let d := { Die.reset with power := .critical, criticalMs := 100 }; d.power = .critical ∧ 100 ≤ d.criticalMs ∧ d.stopped = false) := by
  decide

theorem witness_WearAndRepair :
    (State.reset.hub.power ≠ .off ∧ base.hub.power ≠ .off ∧
      ({ State.reset with hub := { Hub.reset with power := .off } } : State).hub.power = .off) ∧
    (let m : WearSample := { act := 1, of := 1, tj := 850, dv := 0, ageing := 0, em := 0 };
      (m.tj - 850 + 4 * m.dv) % 100 = 0 ∧ 0 ≤ m.tj - 850 + 4 * m.dv) ∧
    base.sharesOf 0 = [] ∧
    (let s := ({ base with clk := 3600000 }).setPress 0 { base.press 0 with tenure := [(0, some 0)] };
      s.tenureOf (0 / 136) (0 % 136 / 4) = [(0, some 0)] ∧ 0 + 1800000 ≤ s.clk) ∧
    (let s := base.setPress 0 { base.press 0 with stallClock := true }; (s.press 0).stallClock = true) ∧
    ((base.press 0).stallClock = false ∧ (base.press 0).resident.isSome = true) ∧
    (let s := base.setPress 127 { Press.reset with repair := true };
      (s.press 127).enabled = true ∧ (s.press 127).resident = none ∧ (s.press 127).repair = true ∧
        (s.die (127 / 32)).spares = [32, 33] ∧ ((s.setDie 3 { Die.reset with spares := [] }).die (127 / 32)).spares = []) := by decide

/-- Hart 0 with a stop on its way. -/
def stopped (clk : Nat) (w : Wait) : State :=
  debugged.setMe { debugged.me with wait := w, stopPend := [{ clk := clk, source := 1, skid := 2, counted := false }] }

theorem witness_DebugUnit_commands :
    base.hub.debugUnlocked = false ∧ DebugWrite (.dcmdHalt 0 1) ∧ debugged.hub.debugUnlocked = true ∧
    (let s := debugged.setHart 7 { Hart.reset with csr := { HartCsr.reset with halt := true } };
      (∀ i, i < 8 → ((0x80 : BitVec 8).getLsbD i = true ↔ i = 7)) ∧ (s.hart (0 * 8 + 7)).csr.halt = true ∧
        ∀ j, j < 8 → (s.hart (0 * 8 + j)).wait = .none) ∧
    (∀ j, j < 8 → (∀ i, i < 8 → ((3 : BitVec 8).getLsbD i = true ↔ i = j)) → (debugged.hart (0 * 8 + j)).csr.halt = false) ∧
    ((debugged.press (pressOfCore 0)).resident = some 0 ∧ (debugged.hart 0).life = .running ∧ (debugged.hart 0).stopPend = []) ∧
    debugged.debugCore 0 0 0 = some 0 ∧ (0x40 + 16 * 7 : Nat) = (0xB0 : BitVec 12).toNat :=
  ⟨by decide, .inl ⟨0, 1, rfl⟩, by decide, by decide, by decide, by decide, by decide, by decide⟩

theorem witness_DebugUnit_stops :
    inEngine ((stopped 6 .matrix).hart 0) = true ∧
    (∀ n ∈ [5, 6], inEngine ((stopped n .none).hart 0) = false ∧ ((stopped n .none).hart 0).life = .running ∧
      ((stopped n .none).hart 0).csr.halt = false ∧ ((stopped n .none).hart 0).haltPend = false) ∧
    (((stopped 6 .none).hart 0).stopPend.find? fun p => decide (6 ≤ p.clk)) =
      some { clk := 6, source := 1, skid := 2, counted := false } ∧
    (∀ p ∈ ((stopped 5 .none).hart 0).stopPend, p.clk < 6) ∧
    (let s := debugged.setMe { debugged.me with haltPend := true };
      (s.hart 0).haltPend = true ∧ inEngine (s.hart 0) = false ∧ (s.hart 0).life = .running ∧ (s.hart 0).csr.halt = false) ∧
    (let s := (stopped 6 .none).setMe { (stopped 6 .none).me with csr := { HartCsr.reset with halt := true } };
      inEngine (s.hart 0) = false ∧ (s.hart 0).csr.halt = true) ∧
    (let s := debugged.setMe { debugged.me with stepping := true, stepDone := true };
      (s.hart 0).stepping = true ∧ (s.hart 0).stepDone = true ∧ inEngine (s.hart 0) = false ∧ (s.hart 0).sup = none ∧
        (s.hart 0).life = .running ∧ (s.hart 0).wait = .none) ∧
    (let s := debugged.setMe { debugged.me with stepping := true, wait := .queuePop 2 5 };
      (s.hart 0).stepping = true ∧ (s.hart 0).sup = none ∧ (s.hart 0).wait = .queuePop 2 5 ∧ inEngine (s.hart 0) = false) ∧
    (let s := debugged.setMe { debugged.me with stepping := true, wait := .leave false };
      (s.hart 0).stepping = true ∧ (s.hart 0).sup = none ∧ (s.hart 0).wait = .leave false) := by decide

/-- Watchpoint 0 of core 0 on byte 0 of the scratchpad, for stores, with an ACT. -/
def watched (act : BitVec 2) : State :=
  debugged.setCore 0 { debugged.core 0 with wps := [(0, { word := 0, bytes := 1, scope := false, mtch := 1, act := act })] }

theorem witness_DebugUnit_watchpoints :
    (∀ a ∈ [1, 2], (watched a).hub.debugUnlocked = true ∧ (watched a).flaws = [] ∧ (watched a).me.flit = false ∧
      (watched a).resolveMe 0 .store = .ok (2 ^ 56) ∧ (watched a).poisonedAt (2 ^ 56) 8 = none ∧
      storeOf (.st 5 6 3 0) (watched a) = some (5, 0, 8) ∧ ¬ BeyondSpad (watched a) (2 ^ 56) 8) ∧
    ((Instr.st 5 6 3 0).wf = true ∧ (Instr.ld 5 6 .s64 0).wf = true ∧ loadOf (.ld 5 6 .s64 0) (watched 2) = some (5, 0, .s64) ∧
      (watched 2).resolveMe 0 .load = .ok (2 ^ 56)) ∧
    (∃ w, Hits (watched 2) (2 ^ 56) 8 true 0 w (2 ^ 56) ∧ w.act = 2) ∧
    (∃ w, Hits (watched 1) (2 ^ 56) 8 true 0 w (2 ^ 56) ∧ w.act = 1) ∧
    ∀ a j w, Hits (watched 1) (2 ^ 56) 8 true j w a → w.act ≠ 2 := by
  have hit : ∀ act : BitVec 2, Hits (watched act) (2 ^ 56) 8 true 0 { word := 0, bytes := 1, scope := false, mtch := 1, act := act }
      (2 ^ 56) := fun act => ⟨by exact List.mem_cons_self, by decide, by decide,
      (by decide : (2 ^ 56 - 2 ^ 56) % 2 ^ 20 / 32 = (0 : BitVec 15).toNat),
      (by decide : (1 : Word32).getLsbD ((2 ^ 56 - 2 ^ 56) % 2 ^ 20 % 32) = true),
      (by decide : (1 : BitVec 2).getLsbD (if true = true then 0 else 1) = true)⟩
  refine ⟨?_, by decide, ⟨_, hit 2, rfl⟩, ⟨_, hit 1, rfl⟩, ?_⟩
  · intro a ha
    rcases List.mem_cons.mp ha with rfl | ha
    · exact ⟨by decide, by decide, by decide, by decide, by decide, by decide, within_of _ _ _ (by decide)⟩
    · obtain rfl := List.mem_singleton.mp ha
      exact ⟨by decide, by decide, by decide, by decide, by decide, by decide, within_of _ _ _ (by decide)⟩
  · rintro a j w ⟨h, -⟩
    have e : ((watched 1).core ((2 ^ 56 - 2 ^ 56) / 2 ^ 20)).wps =
        [(0, { word := 0, bytes := 1, scope := false, mtch := 1, act := 1 })] := by decide
    rw [e] at h
    cases List.mem_singleton.mp h
    decide

theorem witness_DebugUnit_unlocking :
    (∀ v, v < 16 → (base.vf v).tdisp = .unlocked ∨ (base.vf v).tdisp = .error) ∧ (hosted.vf 0).tdisp = .run := by decide

theorem bootable_of (f : Slot) (low : Nat) (h : f.magic = 0xCD5AF1A500000001 ∧ Z f.size = f.image.length ∧ low ≤ Z f.version)
    (hd : f.digest = leOf 64 (Config.shake256 f.image).toNat) (hs : Config.xmssVerify f.header f.sig = true) : Bootable f low :=
  ⟨h.1, h.2.1, hd, hs, h.2.2⟩

/-- A slot with an empty image and its digest: it boots if its signature verifies. -/
noncomputable def slot0 (sig : List Byte) : Slot :=
  { magic := 0xCD5AF1A500000001, version := 1, size := 0, digest := leOf 64 (Config.shake256 []).toNat, sig := sig, image := [] }

theorem witness_DeviceResets :
    (State.reset.hub.power ≠ .off ∧ base.hub.power ≠ .reset) ∧
    ({ State.reset with hub := { Hub.reset with power := .off } } : State).hub.power = .off ∧
    ({ State.reset with hub := { Hub.reset with power := .reset } } : State).hub.power = .reset ∧
    ∀ sig, Config.xmssVerify (slot0 sig).header sig = true → Bootable (slot0 sig) 0 :=
  ⟨by decide, by decide, by decide, fun _ h => bootable_of _ _ ⟨rfl, rfl, Nat.zero_le _⟩ rfl h⟩

/-! Rounding. -/

theorem witness_Rounding :
    (format .f32 = some (23, 8) ∧ format .f8a ≠ none ∧ ElemTy.isInt .z8 = true) ∧
    (0x3F800000 < 2 ^ (23 + 8 + 1) ∧ 0x3F800000 / 2 ^ 23 % 2 ^ 8 ≠ 2 ^ 8 - 1 ∧ 0x7F800000 / 2 ^ 23 % 2 ^ 8 = 2 ^ 8 - 1 ∧
      1 / 2 ^ 23 % 2 ^ 8 = 0) ∧
    (∃ s, Machine.Num.nan s ∈ [Machine.Num.nan true, .inf false]) ∧
    (numIn false .f32 0x7FC00000 = .nan false ∧ numIn false .f32 0xFF800000 = .inf true ∧
      ∃ m e, numIn false .f32 0x3F800000 = .fin false m e ∧ m ≠ 0) ∧
    (2 % 4 = 2 ∧ 4 % 4 = 0 ∧ 1 % 4 = 1 ∧ 3 % 4 = 3) :=
  ⟨by decide, by decide, ⟨true, List.mem_cons_self⟩, ⟨by decide, by decide, _, _, rfl, by decide⟩, by decide⟩

/-! The machine as a whole. -/

/-- `li` with a literal, three words, placed for hart 0. -/
def placed : State := base.withFetchWord 96 0x00001234567_89ABC_0000091D

theorem witness_StepRunsDecoded :
    let b := { placed with agenda := [] }
    let u := b.turnTo 0
    placed.agenda = [.hart 0] ∧ b.ready 0 = true ∧ b.flaws = [] ∧ u.me.pc.toNat % 4 = 0 ∧ moreWords 0x0000091D = 2 ∧
    (∀ j, j ≤ 2 → u.resolveMe (u.me.pc + ofZ (4 * j)).toNat .fetch = .ok (0x80000000 + 4 * j) ∧
      u.poisonedAt (0x80000000 + 4 * j) 4 = none ∧
      leValue u (0x80000000 + 4 * j) 4 = (([0x0000091D, 0x56789ABC, 0x00001234] : List Word32).getD j 0).toNat) ∧
    decodeWords [0x0000091D, 0x56789ABC, 0x00001234] =
      .ok { instr := .liLit 9 0x123456789ABC, first := false, last := false, size := 12 } ∧
    (u.atWord 0x0000091D 12).me.runs false false = true ∧
    (u.atWord 0x0000091D 12).overrun (.liLit 9 0x123456789ABC) = none ∧
    u.me.wait = .none ∧ u.me.flit = false ∧ u.notT1 (W0.ofWord 0x0000091D) = false ∧
    (let a := u.atWord 0x0000091D 12
    a.before (.liLit 9 0x123456789ABC) = none ∧ a.mayIssue (some (.liLit 9 0x123456789ABC)) = true ∧
      a.turnNow (.liLit 9 0x123456789ABC) = true ∧ a.retire.mayIssue none = true ∧ b.issued = []) := by decide

/-- Hart 1 of the core has issued in this clock; a hart of the core waits for the record hart 1 would take; a push of a later hart
has had its turn. -/
theorem witness_StepRunsDecoded_waits :
    let u := { placed with agenda := [], issued := [{ hart := 1, word := 0, next := 0, alone := false }] }.turnTo 0
    let v := { (binned.setHart 0 { binned.me with wait := .wpop 5 7 }) with cur := 1 }
    let w := { base with marks := [(turnOf 5 0, unitRank 3 9 + 1)] }
    (u.atWord 0x0000091D 12).mayIssue (some (.liLit 9 0x123456789ABC)) = false ∧
    v.before (.wpop 5 6) = some (.wpopWaitSelect 0) ∧ w.before (.wpush 1 2 3) = none ∧ w.turnNow (.wpush 1 2 3) = false := by decide

theorem witness_StepRunsDecoded_overrun :
    let u := { base with agenda := [] }.setMe { base.me with header := { KHeader.max with xregs := 5 } }
    ((u.atWord 0x0000091D 12).overrun (.liLit 9 0x123456789ABC)).isSome = true ∧
    (u.setMe (looping 0 0x10000100 1)).me.runs true false = false := by decide

theorem witness_MemoryInvariant : Memory.wf placed = true ∧ ∃ t, step placed = .next t := ⟨by decide, _, rfl⟩

end Sys2Proof.Tests
end

section
/-! SUPPORT. What an operation on the acting hart leaves as it was, in the words of the claims: the frames `OnlyMe`, `Next`,
`WritesX`, `Jumped` and `Trapped`, each proved once for the shared operations of `Machine/Ops`. -/

namespace Sys2Proof.Machine

/-! Hart operations as updates of the fields they write. -/

theorem Hart.level_congr {h g : Hart} (hl : h.loops = g.loops) (n : Nat) : h.level n = g.level n := by
  rw [Hart.level, hl]; rfl

/-- Outside handler mode PC and loop levels after retiring are those the end test leaves (R85). -/
theorem Hart.retire_endTest (h : Hart) (hh : h.handler = false) :
    h.retire.pc = (endTest h.pc h.npc 4 h).pc ∧ h.retire.loops = (endTest h.pc h.npc 4 h).loops := by
  unfold Hart.retire
  simp only [hh]
  exact endTest_loops _ _ _ _ _ rfl

/-- In handler mode, or with no active level, retiring leaves the loop levels as they were (R85, R96). -/
theorem Hart.retire_loops_idle (h : Hart) (hi : h.handler = true ∨ ∀ m < 4, (h.level m).active = false) :
    h.retire.loops = h.loops := by
  cases hh : h.handler with
  | true => unfold Hart.retire; simp only [hh]; rfl
  | false => rw [(h.retire_endTest hh).2, endTest_idle _ _ _ _ (hi.resolve_left (by simp [hh]))]

theorem Hart.addFlags_zero (h : Hart) : h.addFlags 0 = h := by simp [Hart.addFlags]

theorem Hart.setX_eq (h : Hart) (r : XReg) (v : Word64) : h.setX r v = { h with x := (h.setX r v).x } := by
  unfold Hart.setX; split <;> rfl

@[simp] theorem State.retireX_me (s : State) (d : XReg) (v : Word64) : (s.retireX d v).me = (s.me.setX d v).retire := by
  simp [State.retireX, State.setX]

@[simp] theorem State.retireTo_me (s : State) (a : Word64) : (s.retireTo a).me = s.me.retireTo a := State.setMe_me _ _

@[simp] theorem State.setX_me (s : State) (d : XReg) (v : Word64) : (s.setX d v).me = s.me.setX d v := State.setMe_me _ _

/-- A written x register holds the value, x0 stays zero (R13). -/
theorem State.setX_x_same (s : State) (d : XReg) (v : Word64) : (s.setX d v).x d = if d = 0 then 0 else v := by
  rw [State.x, State.setX_me, Hart.setX_getX]
  by_cases hd : d = 0
  · rw [if_neg fun h => h.2 hd, if_pos hd, hd, Hart.getX_zero]
  · rw [if_pos ⟨rfl, hd⟩, if_neg hd]

theorem State.setX_x_ne (s : State) {d r : XReg} (v : Word64) (hr : r ≠ d) : (s.setX d v).x r = s.x r := by
  rw [State.x, State.setX_me, Hart.setX_getX, if_neg fun h => hr h.1]; rfl

theorem State.retireTo_x (s : State) (a : Word64) (r : XReg) : (s.retireTo a).x r = s.x r := by
  rw [State.x, State.retireTo_me]; rfl

theorem State.jump_x (s : State) (d : XReg) (a : Word64) (r : XReg) : (s.jump d a).x r = (s.setX d s.me.npc).x r :=
  State.retireTo_x _ a r

theorem supervisorCause_iff (cause : Nat) :
    supervisorCause cause = true ↔ cause = 10 ∨ cause = 14 ∨ cause = 15 ∨ cause = 19 := by
  simp [supervisorCause, or_assoc]

/-- Without a class and a reason EVAL of an illegal instruction is its first word (R57). -/
theorem illegalEval_plain (ir : Word32) : illegalEval ir 0 0 = ir.setWidth 64 := by
  show (0#32 ++ ir : Word64) = ir.setWidth 64
  rw [BitVec.setWidth_eq_append (by decide)]
  rfl

end Sys2Proof.Machine

namespace Sys2Proof.Claims

open Sys2Proof Sys2Proof.Machine

/-! Nothing but the acting hart changes. -/

theorem onlyMe_refl (s : State) : OnlyMe s s := ⟨rfl, fun _ _ => rfl, fun _ => rfl⟩

/-- A write of the acting hart after others changes nothing but the acting hart. -/
theorem OnlyMe.setMe {s t : State} (ht : OnlyMe s t) (h : Hart) : OnlyMe s (t.setMe h) := by
  obtain ⟨hrest, hharts, hbytes⟩ := ht
  have hcur : t.cur = s.cur := (congrArg State.cur hrest :)
  exact ⟨hrest, fun j hj => (State.setMe_hart_ne t h (hcur ▸ hj)).trans (hharts j hj), hbytes⟩

theorem onlyMe_setMe (s : State) (h : Hart) : OnlyMe s (s.setMe h) := (onlyMe_refl s).setMe h

theorem onlyMe_retireX (s : State) (d : XReg) (v : Word64) : OnlyMe s (s.retireX d v) := (onlyMe_setMe s _).setMe _

/-! Retiring in sequence. -/

/-- Retiring after a write of x registers and flags. -/
theorem next_of_retire {s t : State} {x : FMap Word64} {fl : FpFlags}
    (ht : t.me = (({ s.me with x := x } : Hart).addFlags fl).retire) : Next s t fl := by
  obtain ⟨hpc, hloops⟩ := Hart.retire_loops (({ s.me with x := x } : Hart).addFlags fl) s.me rfl rfl rfl rfl
  refine ⟨ht ▸ hpc, ht ▸ hloops, fun hi => ?_, ?_, ?_, ?_⟩
  · rw [ht, hpc, hloops]; exact ⟨Hart.retire_pc _ hi, Hart.retire_loops_idle _ hi⟩
  · rw [ht, Hart.retire_csr]; rfl
  · rw [ht, Hart.retire_wait]
  · rw [ht, Hart.retire_frame]; rfl

theorem next_retire (s : State) : Next s s.retire 0 :=
  next_of_retire (x := s.me.x) (by rw [State.retire_me, Hart.addFlags_zero])

theorem next_retireX (s : State) (d : XReg) (v : Word64) : Next s (s.retireX d v) 0 :=
  next_of_retire (x := (s.me.setX d v).x) (by rw [State.retireX_me, Hart.addFlags_zero, ← Hart.setX_eq])

/-- Writing xd and retiring is the frame of an instruction with one destination. -/
theorem writesX_retireX (s : State) (d : XReg) (v : Word64) : WritesX s (s.retireX d v) d v 0 :=
  ⟨(State.retire_x _ d).trans (State.setX_x_same s d v),
    fun r hr => (State.retire_x _ r).trans (State.setX_x_ne s v hr), next_retireX s d v, onlyMe_retireX s d v⟩

theorem writesNothing_retire (s : State) : WritesNothing s s.retire :=
  ⟨State.retire_x s, next_retire s, onlyMe_setMe s _⟩

/-! Jumping. -/

theorem jumped_of_retireTo {s t : State} {x : FMap Word64} {a : Word64}
    (ht : t.me = ({ s.me with x := x } : Hart).retireTo a) (ho : OnlyMe s t) : Jumped s t a := by
  unfold Jumped
  rw [ht]
  exact ⟨rfl, rfl, rfl, rfl, ho⟩

theorem jumped_retireTo (s : State) (a : Word64) : Jumped s (s.retireTo a) a :=
  jumped_of_retireTo (x := s.me.x) (State.retireTo_me s a) (onlyMe_setMe s _)

theorem jumped_jump (s : State) (d : XReg) (a : Word64) : Jumped s (s.jump d a) a :=
  jumped_of_retireTo (x := (s.me.setX d s.me.npc).x)
    (by rw [State.jump, State.retireTo_me, State.setX_me, ← Hart.setX_eq]) ((onlyMe_setMe s _).setMe _)

/-! Trapping. -/

theorem trapKeeps_stop (h : Hart) (c : Nat) (e : Word64) (v : Option (BitVec 9)) : TrapKeeps h (h.stopForSupervisor c e v) :=
  ⟨rfl, rfl, rfl, rfl, rfl⟩

theorem supervised_stop (s : State) (c : Nat) (e : Word64) (v : Option (BitVec 9)) :
    Supervised s (s.setMe (s.me.stopForSupervisor c e v)) c e (v.getD s.me.csr.vri) := by
  unfold Supervised
  rw [State.setMe_me]
  exact ⟨rfl, rfl, rfl, ⟨_, rfl, rfl, rfl, rfl⟩, trapKeeps_stop _ c e v, onlyMe_setMe s _⟩

theorem handles_enter (s : State) (c : Nat) (e : Word64) (v : Option (BitVec 9)) :
    Handles s (s.setMe (s.me.enterHandler c e v)) c e (v.getD s.me.csr.vri) := by
  unfold Handles
  rw [State.setMe_me]
  exact ⟨rfl, rfl, rfl, rfl, rfl, rfl, rfl, ⟨rfl, rfl, rfl, rfl, rfl⟩, onlyMe_setMe s _⟩

/-- Taking an exception, with or without a write of VRI (R94 to R96). -/
theorem trapped_setMe_trap (s : State) (c : Nat) (e : Word64) (v : Option (BitVec 9)) :
    Trapped s (s.setMe (s.me.trap c e v)) c e (v.getD s.me.csr.vri) := by
  unfold Trapped
  split
  · rename_i hh
    rw [Hart.trap_double _ c e v hh]
    exact supervised_stop s 19 _ v
  · rename_i hh
    have hh : s.me.handler = false := by simpa using hh
    split
    · rename_i hs
      have hs : supervisorCause c = true ∨ s.me.csr.etvec = 0 := by
        rw [supervisorCause_iff]; simpa only [or_assoc] using hs
      rw [Hart.trap_supervisor _ c e v hh hs]
      exact supervised_stop s c e v
    · rename_i hs
      simp only [← or_assoc, not_or] at hs
      obtain ⟨hc, he⟩ := hs
      have hc : supervisorCause c = false := by
        rw [← Bool.not_eq_true, supervisorCause_iff]; simpa only [not_or, and_assoc] using hc
      rw [Hart.trap_handler _ c e v hh hc he]
      exact handles_enter s c e v

theorem trapped_trap (s : State) (c : Nat) (e : Word64) : Trapped s (s.trap c e) c e s.me.csr.vri :=
  trapped_setMe_trap s c e none

theorem trapped_illegal (s : State) : Trapped s s.illegal 1 (s.me.ir.setWidth 64) s.me.csr.vri := by
  rw [← illegalEval_plain]
  exact trapped_trap s 1 _

end Sys2Proof.Claims
end

section
/-! SUPPORT. The values of the scalar integer instructions (R70 to R73): what the model computes on words is the exact integer
result narrowed to 64 bits. -/

namespace Sys2Proof.Claims

open Sys2Proof Sys2Proof.Machine

/-! Narrowing. -/

@[simp] theorem ofS_S (x : Word64) : ofS (S x) = x := BitVec.ofInt_toInt
@[simp] theorem ofZ_Z (x : Word64) : ofZ (Z x) = x := by simp [ofZ, Z]
theorem ofS_Z (x : Word64) : ofS (Z x : Int) = x := by simp [ofS, Z]
theorem ofS_natCast (n : Nat) : ofS (n : Int) = ofZ n := BitVec.ofInt_natCast 64 n
theorem ofS_add (m n : Int) : ofS (m + n) = ofS m + ofS n := BitVec.ofInt_add m n
theorem ofS_mul (m n : Int) : ofS (m * n) = ofS m * ofS n := BitVec.ofInt_mul m n
theorem ofS_sub (m n : Int) : ofS (m - n) = ofS m - ofS n := by
  rw [sub_eq_add_neg, ofS_add, BitVec.sub_eq_add_neg, ofS, ofS, ofS, BitVec.ofInt_neg]

/-! Sums, products and quotients. -/

theorem add_eq (x y : Word64) : x + y = ofS (S x + S y) := by rw [ofS_add, ofS_S, ofS_S]
theorem sub_eq (x y : Word64) : x - y = ofS (S x - S y) := by rw [ofS_sub, ofS_S, ofS_S]
theorem mul_eq (x y : Word64) : x * y = ofS (S x * S y) := by rw [ofS_mul, ofS_S, ofS_S]

theorem divResult_eq (b c : Word64) : divResult b c = ofS (divS b c) := (apply_ite ofS _ _ _).symm

theorem divzResult_eq (b c : Word64) : divzResult b c = ofZ (divZ b c) := by
  rw [divZ, apply_ite ofZ]; rfl

theorem remResult_eq (b c : Word64) : remResult b c = if c = 0 then b else ofS (S b - S c * divS b c) := by
  rw [remResult, divResult_eq, ofS_sub, ofS_mul, ofS_S, ofS_S]

theorem remzResult_eq (b c : Word64) : remzResult b c = if c = 0 then b else ofS ((Z b : Int) - Z c * divZ b c) := by
  rw [remzResult, divzResult_eq, ofS_sub, ofS_mul, ofS_Z, ofS_Z, ofS_natCast]

/-! Shifts. -/

theorem shiftLeft_eq (x : Word64) (n : Nat) : x <<< n = ofZ (Z x * 2 ^ n) := by
  apply BitVec.eq_of_toNat_eq
  rw [BitVec.toNat_shiftLeft, Nat.shiftLeft_eq, ofZ, BitVec.toNat_ofNat, Z]

theorem ushiftRight_eq (x : Word64) (n : Nat) : x >>> n = ofZ (Z x / 2 ^ n) := by
  rw [← Nat.shiftRight_eq_div_pow, Z, ← BitVec.toNat_ushiftRight]
  exact (ofZ_Z _).symm

theorem sshiftRight_eq (x : Word64) (n : Nat) : x.sshiftRight n = ofS (S x / 2 ^ n) := by
  have h : S x / 2 ^ n = S (x.sshiftRight n) := by
    rw [S, S, BitVec.toInt_sshiftRight, Int.shiftRight_eq_div_pow, Nat.cast_pow]; rfl
  rw [h, ofS_S]

theorem lea_eq (x y : Word64) (n : Nat) : x + y <<< n = ofZ (Z x + Z y * 2 ^ n) := by
  rw [ofZ, BitVec.ofNat_add, shiftLeft_eq]
  exact congrArg (· + _) (ofZ_Z x).symm

/-! Comparisons and choices. -/

theorem boolX_slt (x y : Word64) : boolX (x.slt y) = if S x < S y then 1 else 0 := by
  simp only [boolX, BitVec.slt_iff_toInt_lt, S]; rfl

theorem boolX_ult (x y : Word64) : boolX (x.ult y) = if Z x < Z y then 1 else 0 := by
  simp only [boolX, BitVec.ult_iff_toNat_lt, Z]; rfl

theorem min_eq (x y : Word64) : (if x.sle y then x else y) = ofS (min (S x) (S y)) := by
  simp only [BitVec.sle_iff_toInt_le, min_def, apply_ite ofS, ofS_S]; rfl

theorem max_eq (x y : Word64) : (if x.sle y then y else x) = ofS (max (S x) (S y)) := by
  simp only [BitVec.sle_iff_toInt_le, max_def, apply_ite ofS, ofS_S]; rfl

theorem minz_eq (x y : Word64) : (if x.ule y then x else y) = ofZ (min (Z x) (Z y)) := by
  simp only [BitVec.ule_iff_toNat_le, min_def, apply_ite ofZ, ofZ_Z]; rfl

theorem maxz_eq (x y : Word64) : (if x.ule y then y else x) = ofZ (max (Z x) (Z y)) := by
  simp only [BitVec.ule_iff_toNat_le, max_def, apply_ite ofZ, ofZ_Z]; rfl

/-! Counts of bits. -/

/-- Bits of a word, bit 0 first, are those of `bitsDown` from its end. -/
theorem reverse_bitsDown (x : Word64) : (bitsDown x).reverse = (List.range 64).map x.getLsbD := by
  refine List.ext_getElem (by simp [bitsDown]) fun i h _ => ?_
  have hi : i < 64 := by simpa [bitsDown] using h
  simp only [bitsDown, List.getElem_reverse, List.getElem_map, List.getElem_range, List.length_map, List.length_range]
  congr 1
  omega

theorem leadingZeros_eq (x : Word64) (n : Nat) :
    leadingZeros x n = (((List.range n).map fun i => x.getLsbD (n - 1 - i)).takeWhile fun v => !v).length := by
  induction n with
  | zero => rfl
  | succ n ih =>
    have hrest : (List.range n).map (fun i => x.getLsbD (n + 1 - 1 - (i + 1))) =
        (List.range n).map fun i => x.getLsbD (n - 1 - i) :=
      List.map_congr_left fun i _ => congrArg x.getLsbD (by omega)
    rw [leadingZeros, List.range_succ_eq_map, List.map_cons, List.map_map]
    cases hb : x.getLsbD n with
    | true => simp [hb]
    | false => simp [hb, ih, ← hrest, Function.comp_def]

theorem trailingZeros_eq (x : Word64) (n : Nat) (hn : n ≤ 64) :
    trailingZeros x n = (((List.range n).map fun i => x.getLsbD (64 - n + i)).takeWhile fun v => !v).length := by
  induction n with
  | zero => rfl
  | succ n ih =>
    have hfirst : 64 - (n + 1) + 0 = 63 - n := by omega
    have hrest : (List.range n).map (fun i => x.getLsbD (64 - (n + 1) + (i + 1))) =
        (List.range n).map fun i => x.getLsbD (64 - n + i) :=
      List.map_congr_left fun i _ => congrArg x.getLsbD (by omega)
    rw [trailingZeros, List.range_succ_eq_map, List.map_cons, List.map_map, hfirst]
    cases hb : x.getLsbD (63 - n) with
    | true => simp
    | false => simp [ih (by omega), ← hrest, Function.comp_def]

theorem onesBelow_eq (x : Word64) (n : Nat) :
    onesBelow x n = (((List.range n).map x.getLsbD).filter id).length := by
  induction n with
  | zero => rfl
  | succ n ih =>
    rw [onesBelow, ih, List.range_succ, List.map_append, List.filter_append, List.length_append, Nat.add_comm]
    cases hb : x.getLsbD n <;> simp [hb]

theorem clz_eq (x : Word64) : leadingZeros x 64 = ((bitsDown x).takeWhile fun v => !v).length := leadingZeros_eq x 64

theorem ctz_eq (x : Word64) : trailingZeros x 64 = ((bitsDown x).reverse.takeWhile fun v => !v).length := by
  rw [trailingZeros_eq x 64 (Nat.le_refl _), reverse_bitsDown]
  simp only [Nat.sub_self, Nat.zero_add]

theorem popc_eq (x : Word64) : onesBelow x 64 = ((bitsDown x).filter id).length := by
  rw [onesBelow_eq, ← reverse_bitsDown, List.filter_reverse, List.length_reverse]

/-! Immediates. -/

theorem sext_eq {n : Nat} (i : BitVec n) (hn : n ≤ 64) : sext i = immS i := by
  rw [immS, ← BitVec.toInt_signExtend_of_le hn]
  exact (ofS_S _).symm

theorem add_sext_eq {n : Nat} (x : Word64) (i : BitVec n) (hn : n ≤ 64) : x + sext i = ofS (S x + i.toInt) := by
  rw [sext_eq i hn, ofS_add, ofS_S]; rfl

theorem wordOff_eq {n : Nat} (i : BitVec n) (hn : n ≤ 64) : wordOff i = ofS (i.toInt * 4) := by
  have hshift : wordOff i = sext i * 4#64 := BitVec.shiftLeft_eq_mul_twoPow _ _
  rw [hshift, sext_eq i hn, ofS_mul]; rfl

theorem add_wordOff_eq {n : Nat} (x : Word64) (i : BitVec n) (hn : n ≤ 64) :
    x + wordOff i = ofS (S x + i.toInt * 4) := by
  rw [wordOff_eq i hn, ofS_add, ofS_S]

/-! Instructions. -/

/-- Two equal values written are one outcome. -/
theorem next_retireX_eq {s : State} {d : XReg} {w v : Word64} (h : w = v) :
    (.next (s.retireX d w) : Host.Outcome State Fault Refusal) = .next (s.retireX d v) := h ▸ rfl

/-- Every scalar integer instruction writes its result and retires: one line per form, in the order of R71 to R73. -/
theorem exec_of_intResult {i : Instr} {s : State} {rd : XReg} {v : Word64} (h : intResult i s = some (rd, v)) :
    exec i s = .next (s.retireX rd v) := by
  unfold intResult at h
  split at h <;> cases h
  · exact next_retireX_eq (add_eq _ _)
  · exact next_retireX_eq (sub_eq _ _)
  · exact next_retireX_eq (mul_eq _ _)
  · rfl -- mulh
  · rfl -- mulhz
  · exact next_retireX_eq (divResult_eq _ _)
  · exact next_retireX_eq (divzResult_eq _ _)
  · exact next_retireX_eq (remResult_eq _ _)
  · exact next_retireX_eq (remzResult_eq _ _)
  · rfl -- and
  · rfl -- or
  · rfl -- xor
  · exact next_retireX_eq (shiftLeft_eq _ _)
  · exact next_retireX_eq (ushiftRight_eq _ _)
  · exact next_retireX_eq (sshiftRight_eq _ _)
  · exact next_retireX_eq (boolX_slt _ _)
  · exact next_retireX_eq (boolX_ult _ _)
  · exact next_retireX_eq (min_eq _ _)
  · exact next_retireX_eq (max_eq _ _)
  · exact next_retireX_eq (minz_eq _ _)
  · exact next_retireX_eq (maxz_eq _ _)
  · exact next_retireX_eq (congrArg ofZ (clz_eq _))
  · exact next_retireX_eq (congrArg ofZ (ctz_eq _))
  · exact next_retireX_eq (congrArg ofZ (popc_eq _))
  · exact next_retireX_eq (add_sext_eq _ _ (by decide))
  · exact next_retireX_eq (add_eq _ _)
  · exact next_retireX_eq (congrArg (_ &&& ·) (sext_eq _ (by decide)))
  · rfl -- andi, literal form
  · exact next_retireX_eq (congrArg (_ ||| ·) (sext_eq _ (by decide)))
  · rfl -- ori, literal form
  · exact next_retireX_eq (congrArg (_ ^^^ ·) (sext_eq _ (by decide)))
  · rfl -- xori, literal form
  · exact next_retireX_eq (shiftLeft_eq _ _)
  · exact next_retireX_eq (ushiftRight_eq _ _)
  · exact next_retireX_eq (sshiftRight_eq _ _)
  · exact next_retireX_eq (lea_eq _ _ _)
  · exact next_retireX_eq (sext_eq _ (by decide))
  · rfl -- li, literal form
  · exact next_retireX_eq (add_wordOff_eq _ _ (by decide))
  · exact next_retireX_eq (add_eq _ _)

/-- Settles O3: every form is `retireX` of its exact value, whose frame is `WritesX`. -/
theorem integerResults : Obligations.IntegerResults := by
  unfold Obligations.IntegerResults
  intro i s rd v h
  exact ⟨_, exec_of_intResult h, writesX_retireX s rd v⟩

end Sys2Proof.Claims
end

section
/-! SUPPORT. Branches and jumps (R81, R82): what each form does through `State.branch` and `State.jump`. -/

namespace Sys2Proof.Claims

open Sys2Proof Sys2Proof.Machine

/-! Conditions. -/

theorem not_slt_iff (x y : Word64) : (!x.slt y) = true ↔ S y ≤ S x := by
  rw [Bool.not_eq_true', ← Bool.not_eq_true, BitVec.slt_iff_toInt_lt, not_lt]; rfl

theorem not_ult_iff (x y : Word64) : (!x.ult y) = true ↔ Z y ≤ Z x := by
  rw [Bool.not_eq_true', ← Bool.not_eq_true, BitVec.ult_iff_toNat_lt, not_lt]; rfl

/-- Two equal offsets are one branch. -/
theorem branch_eq {s : State} {b : Bool} {w off : Word64} (h : w = off) : s.branch b w = s.branch b off := h ▸ rfl

/-- Every conditional branch is `State.branch` with its condition and offset: one line per form, in the order of R81. -/
theorem exec_of_branchOf {i : Instr} {s : State} {taken : Prop} {off : Word64} (h : branchOf i s = some (taken, off)) :
    ∃ b : Bool, (b = true ↔ taken) ∧ exec i s = s.branch b off := by
  unfold branchOf at h
  split at h <;> cases h
  · exact ⟨_, beq_iff_eq, branch_eq (wordOff_eq _ (by decide))⟩
  · exact ⟨_, bne_iff_ne, branch_eq (wordOff_eq _ (by decide))⟩
  · exact ⟨_, BitVec.slt_iff_toInt_lt, branch_eq (wordOff_eq _ (by decide))⟩
  · exact ⟨_, not_slt_iff _ _, branch_eq (wordOff_eq _ (by decide))⟩
  · exact ⟨_, BitVec.ult_iff_toNat_lt, branch_eq (wordOff_eq _ (by decide))⟩
  · exact ⟨_, not_ult_iff _ _, branch_eq (wordOff_eq _ (by decide))⟩
  · exact ⟨_, beq_iff_eq, rfl⟩
  · exact ⟨_, bne_iff_ne, rfl⟩
  · exact ⟨_, BitVec.slt_iff_toInt_lt, rfl⟩
  · exact ⟨_, not_slt_iff _ _, rfl⟩
  · exact ⟨_, BitVec.ult_iff_toNat_lt, rfl⟩
  · exact ⟨_, not_ult_iff _ _, rfl⟩

theorem branches : Branches := by
  intro i s taken off h
  obtain ⟨b, hb, hexec⟩ := exec_of_branchOf h
  rw [hexec]
  cases b with
  | true => exact ⟨_, rfl, State.retireTo_x s _, fun _ => jumped_retireTo s _, fun hn => absurd (hb.1 rfl) hn⟩
  | false => exact ⟨_, rfl, State.retire_x s, fun ht => absurd (hb.2 ht) (by decide), fun _ => writesNothing_retire s⟩

/-! Jumps. -/

/-- `jalr` by its target (R82). -/
theorem exec_jalr (s : State) (d b : XReg) (o : BitVec 14) :
    exec (.jalr d b o) s =
      if (s.x b + immS o).toNat % 4 ≠ 0 then .next (s.trap 3 (s.x b + immS o)) else .next (s.jump d (s.x b + immS o)) := by
  rw [← sext_eq o (by decide)]; rfl

theorem exec_of_jumpOf {i : Instr} {s : State} {rd : XReg} {a : Word64} (h : jumpOf i s = some (rd, a))
    (ha : a.toNat % 4 = 0) : exec i s = .next (s.jump rd a) := by
  unfold jumpOf at h
  split at h <;> cases h
  · rw [← wordOff_eq _ (by decide)]; rfl
  · rfl
  · rw [exec_jalr, if_neg (not_not.2 ha)]

theorem jumps : Jumps := by
  intro i s rd a h ha
  exact ⟨_, exec_of_jumpOf h ha, (State.jump_x s rd a rd).trans (State.setX_x_same s rd _),
    fun r hr => (State.jump_x s rd a r).trans (State.setX_x_ne s _ hr), jumped_jump s rd a⟩

theorem jumpMisaligned : JumpMisaligned := by
  intro s rd b o h
  exact ⟨_, by rw [exec_jalr, if_pos h], trapped_trap s 3 _⟩

/-- Settles O6: every branch is `State.branch`, every jump to a multiple of 4 is `State.jump`, any other `jalr` traps. -/
theorem controlTransfers : Obligations.ControlTransfers := ⟨branches, jumps, jumpMisaligned⟩

end Sys2Proof.Claims
end

section
/-! SUPPORT. Hardware loops (R84 to R87): which levels the end test and a set-up change, and how. -/

namespace Sys2Proof.Machine

open Sys2Proof.Claims

@[simp] theorem Hart.setLevel_level_same (h : Hart) (n : Nat) (l : LoopLevel) : (h.setLevel n l).level n = l := by
  rw [Hart.setLevel_level, if_pos rfl]

theorem Hart.setLevel_level_ne (h : Hart) {n m : Nat} (l : LoopLevel) (hmn : m ≠ n) :
    (h.setLevel n l).level m = h.level m := by rw [Hart.setLevel_level, if_neg hmn]

/-! The end test. -/

/-- Inactive levels are passed over. -/
theorem endTest_skip (a nxt : Word64) {n k : Nat} (h : Hart) (hnk : n ≤ k)
    (hi : ∀ m, n ≤ m → m < k → (h.level m).active = false) : endTest a nxt k h = endTest a nxt n h := by
  induction k, hnk using Nat.le_induction with
  | base => rfl
  | succ k hk ih =>
    rw [endTest]
    simp only [hi k hk (Nat.lt_succ_self k), Bool.not_false, if_true]
    exact ih fun m hm hmk => hi m hm (Nat.lt_succ_of_lt hmk)

/-- The end test from level n − 1 down leaves level n and those inside it. -/
theorem endTest_level_above (a nxt : Word64) {n m : Nat} (h : Hart) (hm : n ≤ m) :
    (endTest a nxt n h).level m = h.level m := by
  induction n generalizing h with
  | zero => rfl
  | succ n ih =>
    simp only [endTest]
    split
    · exact ih h (by omega)
    · split
      · rfl
      · split
        · rw [ih _ (by omega), Hart.setLevel_level_ne _ _ (by omega)]
        · exact Hart.setLevel_level_ne h _ (by omega)

/-- A level that goes back to its start with `c` iterations left (R85). -/
def LoopLevel.again (l : LoopLevel) (c : Word32) : LoopLevel :=
  { l with count := c - 1, startCount := c - 1, first := false, heldCount := none }

/-- A level that ends: held writes take effect (R85 to R87). -/
def LoopLevel.ended (l : LoopLevel) : LoopLevel :=
  { l with count := 0, active := false, heldCount := none, heldStart := none, heldStop := none,
           start := l.heldStart.getD l.start, stop := l.heldStop.getD l.stop }

/-- The condition of the end test on an active level is `EndsBody`. -/
theorem endsBody_iff (h : Hart) (n : Nat) :
    (decide ((h.level n).start ≤ h.pc.setWidth 48) && decide (h.pc.setWidth 48 < (h.level n).stop) &&
      decide ((h.level n).stop ≤ h.npc.setWidth 48)) = true ↔ EndsBody h n := by
  simp only [Bool.and_eq_true, decide_eq_true_eq, and_assoc]; rfl

section
variable {h : Hart} {n : Nat} (ha : (h.level n).active = true)
include ha

theorem endTest_outside (he : ¬ EndsBody h n) : endTest h.pc h.npc (n + 1) h = { h with pc := h.npc } := by
  rw [← endsBody_iff, Bool.not_eq_true] at he
  simp only [endTest]
  rw [if_neg (by rw [ha]; decide), if_pos (by rw [he]; rfl)]

theorem endTest_back (he : EndsBody h n) (hc : (h.level n).heldCount.getD (h.level n).count ≠ 0) :
    endTest h.pc h.npc (n + 1) h =
      { h.setLevel n ((h.level n).again ((h.level n).heldCount.getD (h.level n).count)) with
        pc := canon48 (h.level n).start } := by
  rw [← endsBody_iff] at he
  simp only [endTest]
  rw [if_neg (by rw [ha]; decide), if_neg (by rw [he]; decide), if_neg hc]
  rfl

theorem endTest_ends (he : EndsBody h n) (hc : (h.level n).heldCount.getD (h.level n).count = 0) :
    endTest h.pc h.npc (n + 1) h = endTest h.pc h.npc n (h.setLevel n (h.level n).ended) := by
  rw [← endsBody_iff] at he
  simp only [endTest]
  rw [if_neg (by rw [ha]; decide), if_neg (by rw [he]; decide), if_pos hc]
  rfl

end

/-- The end test begins with the innermost active level (R85). -/
theorem endTest_innermost (a nxt : Word64) {h : Hart} {n : Nat} (hn : Innermost h n) :
    endTest a nxt 4 h = endTest a nxt (n + 1) h := by
  obtain ⟨hlt, -, hinner⟩ := hn
  exact endTest_skip a nxt h hlt hinner

/-- Where the innermost active level ends, the end test goes on as if the level had been inactive. -/
theorem endTest_ended {h : Hart} {n : Nat} (hn : Innermost h n) (he : EndsBody h n)
    (hc : (h.level n).heldCount.getD (h.level n).count = 0) :
    endTest h.pc h.npc 4 h = endTest h.pc h.npc 4 (h.setLevel n (h.level n).ended) := by
  rw [endTest_innermost _ _ hn, endTest_ends hn.2.1 he hc]
  refine (endTest_skip _ _ _ hn.1.le fun m hnm hm => ?_).symm
  rcases hnm.eq_or_lt with rfl | hlt
  · rw [Hart.setLevel_level_same]; rfl
  · rw [Hart.setLevel_level_ne _ _ (by omega)]; exact hn.2.2 m hlt hm

/-- Harts that differ in the levels retire to one state where the end test leaves the same PC and levels. -/
theorem Hart.retire_setLevel_eq {h : Hart} {n : Nat} {l : LoopLevel} (hh : h.handler = false)
    (he : endTest h.pc h.npc 4 h = endTest h.pc h.npc 4 (h.setLevel n l)) : h.retire = (h.setLevel n l).retire := by
  obtain ⟨hpc, hloops⟩ := h.retire_endTest hh
  obtain ⟨hpc', hloops'⟩ := (h.setLevel n l).retire_endTest hh
  rw [Hart.retire_frame h, Hart.retire_frame (h.setLevel n l), hpc, hloops, hpc', hloops', he]
  rfl

end Sys2Proof.Machine

namespace Sys2Proof.Claims

open Sys2Proof Sys2Proof.Machine

theorem loopEndTest : LoopEndTest := by
  intro h hh
  obtain ⟨hpc, hloops⟩ := h.retire_endTest hh
  refine ⟨fun hi => ⟨Hart.retire_pc h (.inr hi), Hart.retire_loops_idle h (.inr hi)⟩, fun n hn => ?_⟩
  rw [hpc, hloops, endTest_innermost _ _ hn]
  refine ⟨fun he => ?_, fun he c hc hc0 => ?_, fun he hc => ?_⟩
  · rw [endTest_outside hn.2.1 he]; exact ⟨rfl, rfl⟩
  · have hback := endTest_back hn.2.1 he (hc ▸ hc0)
    have hlevel (m : Nat) : h.retire.level m = (h.setLevel n ((h.level n).again c)).level m :=
      Hart.level_congr (by rw [hloops, endTest_innermost _ _ hn, hback, hc]) m
    rw [hback]
    refine ⟨rfl, ?_, ?_, ?_, fun m hm => ?_⟩
    · rw [hlevel, Hart.setLevel_level_same]; rfl
    · rw [hlevel, Hart.setLevel_level_same]; rfl
    · rw [hlevel, Hart.setLevel_level_same]; exact hn.2.1
    · rw [hlevel, Hart.setLevel_level_ne _ _ hm]
  · exact Hart.retire_setLevel_eq hh (endTest_ended hn he hc)

end Sys2Proof.Claims
end

section
/-! SUPPORT. Loop set-up (R84). -/

namespace Sys2Proof.Machine

/-! Set-up. -/

theorem Hart.ite_setLevel_level (c : Prop) [Decidable c] (h : Hart) (j : Nat) (l : LoopLevel) (m : Nat) :
    (if c then h.setLevel j l else h).level m = if c ∧ m = j then l else h.level m := by
  by_cases hc : c
  · simp only [hc, if_true, true_and, Hart.setLevel_level]
  · simp only [hc, if_false, false_and]

/-- A set-up at level `n` deactivates the levels inside it (R84). -/
theorem Hart.clearInner_level_inner (h : Hart) {n m : Nat} (hnm : n < m) (hm : m < 4) :
    ((h.clearInner n).level m).active = false := by
  simp only [Hart.clearInner, List.foldl_cons, List.foldl_nil, Hart.ite_setLevel_level]
  obtain rfl | rfl | rfl : m = 1 ∨ m = 2 ∨ m = 3 := by omega
  · rw [if_neg (by omega), if_neg (by omega), if_pos ⟨hnm, rfl⟩]
  · rw [if_neg (by omega), if_pos ⟨hnm, rfl⟩]
  · rw [if_pos ⟨hnm, rfl⟩]

theorem Hart.clearInner_level_outer (h : Hart) {n m : Nat} (hmn : m ≤ n) : (h.clearInner n).level m = h.level m := by
  simp only [Hart.clearInner, List.foldl_cons, List.foldl_nil, Hart.ite_setLevel_level]
  rw [if_neg (by omega), if_neg (by omega), if_neg (by omega)]

theorem Hart.clearInner_frame (h : Hart) (n : Nat) : h.clearInner n = { h with loops := (h.clearInner n).loops } := by
  simp only [Hart.clearInner, List.foldl_cons, List.foldl_nil]
  split_ifs <;> rfl

/-- The hart a set-up leaves before PC is decided: level `n` is `l`, the levels inside it are inactive, the instruction is
counted. -/
def Hart.setUp (h : Hart) (n : Nat) (l : LoopLevel) : Hart :=
  Hart.setLevel { (h.clearInner n).countRetired with wait := .none, waited := 0, parked := 0, wake := none } n l

/-- The level a set-up starts from: `start` and `stop` as set, no held writes. -/
def Hart.laid (h : Hart) (n : Nat) (stop : Word64) : LoopLevel :=
  { ((h.clearInner n).level n).dropHeld with start := h.npc.setWidth 48, stop := stop.setWidth 48 }

theorem Hart.loopSetup_zero (h : Hart) (n : Nat) (stop : Word64) :
    h.loopSetup n 0 stop = endTest h.pc stop 4 (h.setUp n { h.laid n stop with active := false, count := 0 }) := rfl

theorem Hart.loopSetup_pos (h : Hart) (n : Nat) {count : Word32} (stop : Word64) (hc : count ≠ 0) :
    h.loopSetup n count stop =
      { h.setUp n { h.laid n stop with active := true, first := true, count := count - 1, startCount := count - 1 } with
        pc := h.npc } := by
  rw [Hart.loopSetup]; exact if_neg hc

@[simp] theorem Hart.setUp_level_same (h : Hart) (n : Nat) (l : LoopLevel) : (h.setUp n l).level n = l :=
  Hart.setLevel_level_same _ n l

theorem Hart.setUp_level_inner (h : Hart) {n m : Nat} (l : LoopLevel) (hnm : n < m) (hm : m < 4) :
    ((h.setUp n l).level m).active = false := by
  rw [Hart.setUp, Hart.setLevel_level_ne _ _ (by omega)]
  exact h.clearInner_level_inner hnm hm

theorem Hart.setUp_level_outer (h : Hart) {n m : Nat} (l : LoopLevel) (hmn : m < n) :
    (h.setUp n l).level m = h.level m := by
  rw [Hart.setUp, Hart.setLevel_level_ne _ _ (by omega)]
  exact h.clearInner_level_outer hmn.le

theorem Hart.setUp_frame (h : Hart) (n : Nat) (l : LoopLevel) :
    h.setUp n l = { h.countRetired with
      wait := .none, waited := 0, parked := 0, wake := none, loops := (h.setUp n l).loops } := by
  rw [Hart.setUp, Hart.clearInner_frame]; rfl

theorem Hart.loopSetup_frame (h : Hart) (n : Nat) (count : Word32) (stop : Word64) :
    h.loopSetup n count stop = { h.countRetired with
      wait := .none, waited := 0, parked := 0, wake := none,
      pc := (h.loopSetup n count stop).pc, loops := (h.loopSetup n count stop).loops } := by
  by_cases hc : count = 0
  · rw [hc, Hart.loopSetup_zero, endTest_frame, Hart.setUp_frame]
  · rw [Hart.loopSetup_pos h n stop hc, Hart.setUp_frame]

/-- A set-up's end test passes over the level that was set up and those inside it. -/
theorem Hart.endTest_setUp_level (h : Hart) {n m : Nat} {l : LoopLevel} (a nxt : Word64) (hl : l.active = false)
    (hn : n < 4) (hm : n ≤ m) : (endTest a nxt 4 (h.setUp n l)).level m = (h.setUp n l).level m := by
  have hinner (j : Nat) (hnj : n ≤ j) (hj : j < 4) : ((h.setUp n l).level j).active = false := by
    rcases hnj.eq_or_lt with rfl | hlt
    · rw [Hart.setUp_level_same, hl]
    · exact h.setUp_level_inner l hlt hj
  rw [endTest_skip a nxt _ hn.le hinner, endTest_level_above a nxt _ hm]

/-- After a set-up the levels inside it are inactive. -/
theorem Hart.loopSetup_level_inner (h : Hart) {n m : Nat} (count : Word32) (stop : Word64) (hn : n < 4) (hnm : n < m)
    (hm : m < 4) : ((h.loopSetup n count stop).level m).active = false := by
  by_cases hc : count = 0
  · rw [hc, Hart.loopSetup_zero, Hart.endTest_setUp_level h _ _ rfl hn hnm.le, Hart.setUp_level_inner h _ hnm hm]
  · rw [Hart.loopSetup_pos h n stop hc]
    exact h.setUp_level_inner _ hnm hm

theorem Hart.loopSetup_zero_level_same (h : Hart) {n : Nat} (stop : Word64) (hn : n < 4) :
    (h.loopSetup n 0 stop).level n = { h.laid n stop with active := false, count := 0 } := by
  rw [Hart.loopSetup_zero, Hart.endTest_setUp_level h _ _ rfl hn le_rfl, Hart.setUp_level_same]

theorem Hart.loopSetup_pos_level_same (h : Hart) (n : Nat) {count : Word32} (stop : Word64) (hc : count ≠ 0) :
    (h.loopSetup n count stop).level n =
      { h.laid n stop with active := true, first := true, count := count - 1, startCount := count - 1 } := by
  rw [Hart.loopSetup_pos h n stop hc]
  exact h.setUp_level_same n _

theorem Hart.loopSetup_bounds (h : Hart) {n : Nat} (count : Word32) (stop : Word64) (hn : n < 4) :
    ((h.loopSetup n count stop).level n).start = h.npc.setWidth 48 ∧
      ((h.loopSetup n count stop).level n).stop = stop.setWidth 48 := by
  by_cases hc : count = 0
  · rw [hc, Hart.loopSetup_zero_level_same h stop hn]; exact ⟨rfl, rfl⟩
  · rw [Hart.loopSetup_pos_level_same h n stop hc]; exact ⟨rfl, rfl⟩

/-- The hart whose retirement at `stop` is the end test of a set-up with count 0 (R84). -/
def Hart.setUpEnding (h : Hart) (n : Nat) (stop : Word64) : Hart :=
  { h.setUp n { h.laid n stop with active := false, count := 0 } with npc := stop }

theorem Hart.setUpEnding_frame (h : Hart) (n : Nat) (stop : Word64) :
    (h.setUpEnding n stop).handler = h.handler ∧ (h.setUpEnding n stop).pc = h.pc ∧ (h.setUpEnding n stop).npc = stop := by
  rw [Hart.setUpEnding, Hart.setUp_frame]
  exact ⟨rfl, rfl, rfl⟩

theorem Hart.setUpEnding_level_outer (h : Hart) {n m : Nat} (stop : Word64) (hmn : m < n) :
    (h.setUpEnding n stop).level m = h.level m := h.setUp_level_outer _ hmn

theorem Hart.setUpEnding_level_inner (h : Hart) {n m : Nat} (stop : Word64) (hnm : n ≤ m) (hm : m < 4) :
    ((h.setUpEnding n stop).level m).active = false := by
  rcases hnm.eq_or_lt with rfl | hlt
  · exact congrArg LoopLevel.active (h.setUp_level_same n _)
  · exact h.setUp_level_inner _ hlt hm

/-- A set-up with count 0 leaves the PC and levels of that retirement. -/
theorem Hart.loopSetup_zero_retire (h : Hart) (n : Nat) (stop : Word64) (hh : h.handler = false) :
    (h.loopSetup n 0 stop).pc = (h.setUpEnding n stop).retire.pc ∧
      (h.loopSetup n 0 stop).loops = (h.setUpEnding n stop).retire.loops := by
  obtain ⟨hhandler, hpc, hnpc⟩ := h.setUpEnding_frame n stop
  obtain ⟨hp, hl⟩ := (h.setUpEnding n stop).retire_endTest (hhandler.trans hh)
  rw [hp, hl, hpc, hnpc, Hart.loopSetup_zero]
  exact endTest_loops _ _ _ _ _ rfl

end Sys2Proof.Machine

namespace Sys2Proof.Claims

open Sys2Proof Sys2Proof.Machine

/-- Both forms of `loop` are a set-up, illegal in handler mode (R84, R96). -/
theorem exec_of_loopOf {i : Instr} {s : State} {n count : Nat} {stop : Word64} (h : loopOf i s = some (n, count, stop)) :
    ∃ c : Word32, c.toNat = count ∧ n < 4 ∧
      exec i s = if s.me.handler then .next s.illegal else .next (s.setMe (s.me.loopSetup n c stop)) := by
  unfold loopOf at h
  split at h <;> cases h
  · exact ⟨_, BitVec.toNat_setWidth .., BitVec.isLt _, by rw [← wordOff_eq _ (by decide)]; rfl⟩
  · exact ⟨_, rfl, BitVec.isLt _, by rw [← wordOff_eq _ (by decide)]; rfl⟩

theorem loopSetup : LoopSetup := by
  intro i s n count stop h
  obtain ⟨c, hcount, hn, hexec⟩ := exec_of_loopOf h
  have hzero : c = 0 ↔ count = 0 := by rw [← hcount]; exact BitVec.toNat_inj.symm
  refine ⟨fun hh => ?_, fun hh => ⟨_, by rw [hexec, if_pos hh], trapped_illegal s⟩⟩
  refine ⟨_, by rw [hexec, hh]; rfl, ?_⟩
  have hframe := s.me.loopSetup_frame n c stop
  have hbounds := s.me.loopSetup_bounds c stop hn
  simp only [State.x, State.setMe_me]
  refine ⟨fun r => by rw [hframe]; rfl, onlyMe_setMe s _, by rw [hframe]; rfl, by rw [hframe]; rfl, by rw [hframe]; rfl,
    fun m => s.me.loopSetup_level_inner c stop hn, hbounds.1, hbounds.2, fun hc => ?_, fun hc => ?_⟩
  · have hc' : c ≠ 0 := mt hzero.1 hc
    rw [s.me.loopSetup_pos_level_same n stop hc']
    refine ⟨by rw [s.me.loopSetup_pos n stop hc'], rfl, rfl, ?_, fun m hm => ?_⟩
    · show (c - 1).toNat = count - 1
      rw [← hcount]; bv_omega
    · rw [s.me.loopSetup_pos n stop hc']; exact s.me.setUp_level_outer _ hm
  · obtain rfl := hzero.2 hc
    obtain ⟨hhandler, hpc, hnpc⟩ := s.me.setUpEnding_frame n stop
    obtain ⟨hrpc, hrloops⟩ := s.me.loopSetup_zero_retire n stop hh
    rw [s.me.loopSetup_zero_level_same stop hn]
    exact ⟨rfl, rfl, s.me.setUpEnding n stop, hhandler.trans hh, hpc, hnpc, fun m => s.me.setUpEnding_level_outer stop,
      fun m => s.me.setUpEnding_level_inner stop, hrpc, fun m _ => Hart.level_congr hrloops m⟩

/-- Settles O7: a set-up sets its level and clears those inside it; the end test is taken at the innermost active level. -/
theorem hardwareLoops : Obligations.HardwareLoops := ⟨loopSetup, loopEndTest⟩

end Sys2Proof.Claims
end

section
/-! SUPPORT. `tret` (R97): return from the handler, with the end test where EPC ends a loop body. -/

namespace Sys2Proof.Machine

/-- EPC is the end of an active level whose body holds the address before it (R97). -/
def EpcEnds (h : Hart) : Prop :=
  ∃ n, n < 4 ∧ (h.level n).active = true ∧ (h.level n).stop = h.csr.epc ∧ (h.level n).start ≤ h.csr.epc - 1 ∧
    h.csr.epc - 1 < h.csr.epc

/-- The hart as it leaves handler mode, before PC is decided. -/
def Hart.leaveHandler (h : Hart) : Hart :=
  { h.countRetired with handler := false, wait := .none, waited := 0, parked := 0, wake := none }

/-- The hart whose retirement is the end test of `tret`: an instruction that ends at EPC. -/
def Hart.endingAtEpc (h : Hart) : Hart :=
  { h with handler := false, pc := (h.csr.epc - 1).signExtend 64, npc := h.csr.epc.signExtend 64 }

/-- The test `tret` makes over the levels is `EpcEnds`. -/
theorem epcEnds_iff (h : Hart) :
    ((List.range 4).any fun n => (h.level n).active && (h.level n).stop == h.csr.epc &&
      decide ((h.level n).start ≤ h.csr.epc - 1) && decide (h.csr.epc - 1 < (h.level n).stop)) = true ↔ EpcEnds h := by
  simp only [List.any_eq_true, List.mem_range, Bool.and_eq_true, beq_iff_eq, decide_eq_true_eq, and_assoc]
  refine exists_congr fun n => and_congr_right fun _ => and_congr_right fun _ => and_congr_right fun hstop => ?_
  rw [hstop]

theorem Hart.tret_of_epcEnds (h : Hart) (he : EpcEnds h) :
    h.tret = endTest (canon48 (h.csr.epc - 1)) (canon48 h.csr.epc) 4 h.leaveHandler := by
  rw [← epcEnds_iff] at he
  unfold Hart.tret
  exact if_pos he

theorem Hart.tret_of_not_epcEnds (h : Hart) (he : ¬ EpcEnds h) :
    h.tret = { h.leaveHandler with pc := canon48 h.csr.epc } := by
  rw [← epcEnds_iff] at he
  unfold Hart.tret
  exact if_neg he

/-- `tret` leaves handler mode, counts itself and writes PC and loop levels. -/
theorem Hart.tret_frame (h : Hart) : h.tret = { h.leaveHandler with pc := h.tret.pc, loops := h.tret.loops } := by
  by_cases he : EpcEnds h
  · rw [h.tret_of_epcEnds he]; exact endTest_frame _ _ _ _
  · rw [h.tret_of_not_epcEnds he]

/-- Where EPC ends a body, `tret` leaves PC and levels as the retirement of an instruction that ends there does. -/
theorem Hart.tret_retire (h : Hart) (he : EpcEnds h) :
    h.tret.pc = h.endingAtEpc.retire.pc ∧ h.tret.loops = h.endingAtEpc.retire.loops := by
  obtain ⟨hpc, hloops⟩ := h.endingAtEpc.retire_endTest rfl
  rw [hpc, hloops, h.tret_of_epcEnds he]
  exact endTest_loops _ _ _ _ _ rfl

theorem exec_tret (s : State) : exec .tret s = if s.me.handler then .next (s.setMe s.me.tret) else .next s.illegal := rfl

end Sys2Proof.Machine

namespace Sys2Proof.Claims

open Sys2Proof Sys2Proof.Machine

/-- Settles O13: `tret` is the retirement of an instruction that ends at EPC where EPC ends a body, and a jump to EPC elsewhere. -/
theorem trapReturn : Obligations.TrapReturn := by
  intro s
  refine ⟨fun hh => ⟨_, by rw [exec_tret, if_pos hh], ?_⟩,
    fun hh => ⟨_, by rw [exec_tret, hh]; rfl, trapped_illegal s⟩⟩
  have hframe := s.me.tret_frame
  simp only [State.x, State.setMe_me]
  refine ⟨by rw [hframe]; rfl, fun r => by rw [hframe]; rfl, by rw [hframe]; rfl, by rw [hframe]; rfl, by rw [hframe]; rfl,
    onlyMe_setMe s _, fun he => ?_, s.me.tret_retire⟩
  rw [s.me.tret_of_not_epcEnds he]
  exact ⟨rfl, rfl⟩

end Sys2Proof.Claims
end
